-- ==== Sys2Proof/Word.lean ====
section
/-! DEFINITION. The word types of the GLB960 and their plainest arithmetic. -/

namespace Sys2Proof

/-- A byte of memory. -/
abbrev Byte := BitVec 8
/-- The 64-bit word: an x register, an m register, a tag, a system register. -/
abbrev Word := BitVec 64
/-- The 512-bit vector: a v register, a shape record, a memory line, a wide payload. -/
abbrev Vec := BitVec 512
/-- A register field of an instruction (R86). -/
abbrev RegField := BitVec 6

/-- The length of an instruction: one, two or three parcels (R85). -/
inductive Form where
  | w32 | w64 | w96
  deriving DecidableEq, Repr

/-- The first match `f i` for `i` below `n`, counting up from `i`. -/
def findUpFrom (f : Nat → Bool) : Nat → Nat → Option Nat
  | _, 0 => none
  | i, n + 1 => if f i then some i else findUpFrom f (i + 1) n

/-- The least `i < n` with `f i`. -/
def findUp (f : Nat → Bool) (n : Nat) : Option Nat := findUpFrom f 0 n

/-- `f` folded over `0, 1, ..., n - 1` in rising order. -/
def foldUp {α : Type} (f : Nat → α → α) : Nat → α → α
  | 0, a => a
  | n + 1, a => f n (foldUp f n a)

/-- The list `0, 1, ..., n - 1`. -/
def upTo (n : Nat) : List Nat := List.range n

/-- The element types (R60). -/
inductive ElemType where
  | fp32 | fp16 | bf16 | e5m2 | e4m3 | e3m2 | e2m3 | e2m1
  | s32 | z32 | s16 | z16 | s8 | z8 | s4 | z4 | csp
  deriving DecidableEq, Repr

/-- The rounding modes (R68). -/
inductive Rnd where
  | rne | rtz | rup | rdn | rna
  deriving DecidableEq, Repr

end Sys2Proof
end

