-- ==== Sys2Proof/Machine/Aes.lean ====
section
/-! DEFINITION. AES-256-XTS over one 64-byte line (R141), as the AES and XTS standards give it (log entry 6). A line, a
key and a block are `Nat`s whose byte 0 is the least significant byte. -/

namespace Sys2Proof.Machine

/-- The forward substitution box of AES: byte i of the constant. -/
def aesSbox : Nat :=
  0x16BB54B00F2D99416842E6BF0D89A18CDF2855CEE9871E9B948ED9691198F8E19E1DC186B95735610EF6034866B53E708A8BBD4B1F74DDE8C6B4A61C2E2578BA08AE7A65EAF4566CA94ED58D6D37C8E779E4959162ACD3C25C2406490A3A32E0DB0B5EDE14B8EE4688902A22DC4F816073195D643D7EA7C41744975FEC130CCDD2F3FF1021DAB6BCF5389D928F40A351A89F3C507F02F94585334D43FBAAEFD0CF584C4A39BECB6A5BB1FC20ED00D153842FE329B3D63B52A05A6E1B1A2C830975B227EBE28012079A059618C323C7041531D871F1E5A534CCF73F362693FDB7C072A49CAFA2D4ADF04759FA7DC982CA76ABD7FE2B670130C56F6BF27B777C63

/-- The inverse substitution box. -/
def aesInvSbox : Nat :=
  0x7D0C2155631469E126D677BA7E042B17619953833CBBEBC8B0F52AAE4D3BE0A0EF9CC9939F7AE52D0D4AB519A97F51605FEC8027591012B131C7078833A8DD1FF45ACD78FEC0DB9A2079D2C64B3E56FC1BBE18AA0E62B76F89C5291D711AF1476EDF751CE837F9E28535ADE72274AC9673E6B4F0CECFF297EADC674F4111913A6B8A130103BDAFC1020F3FCA8F1E2CD00645B3B80558E4F70AD3BC8C00ABD890849D8DA75746155EDAB9EDFD5048706C92B6655DCC5CA4D41698688664F6F87225D18B6D49A25B76B224D92866A12E084EC3FA420B954CEE3D23C2A632947B54CBE9DEC444438E3487FF2F9B8239E37CFBD7F3819EA340BF38A53630D56A0952

/-- Byte i of a number. -/
def byteAt (n i : Nat) : Nat := (n >>> (8 * i)) % 256

/-- A number from its bytes, least significant first. -/
def packBytes : List Nat → Nat
  | [] => 0
  | b :: bs => b + 256 * packBytes bs

/-- The n low bytes of a number. -/
def unpackBytes (n v : Nat) : List Nat := (List.range n).map (byteAt v)

/-- Multiply by x in the field of AES. -/
def xtime (a : Nat) : Nat := if a < 128 then 2 * a else (2 * a) ^^^ 0x11B

/-- Multiply by a constant below 16 in the field of AES. -/
def gfMul (c a : Nat) : Nat :=
  let a2 := xtime a
  let a4 := xtime a2
  let a8 := xtime a4
  (if c.testBit 0 then a else 0) ^^^ (if c.testBit 1 then a2 else 0) ^^^ (if c.testBit 2 then a4 else 0) ^^^
    (if c.testBit 3 then a8 else 0)

/-- Substitute each byte of a list. -/
def subBytes (box : Nat) (l : List Nat) : List Nat := l.map (byteAt box)

/-- One column through a circulant matrix with first row `r`. -/
def mixColumn (r : List Nat) (c : List Nat) : List Nat :=
  (List.range 4).map (fun i => (List.range 4).foldl (fun acc j => acc ^^^ gfMul (r.getD ((j + 4 - i) % 4) 0) (c.getD j 0)) 0)

/-- Every column of a state of 16 bytes. -/
def mixColumns (r : List Nat) (st : List Nat) : List Nat :=
  (List.range 4).flatMap (fun c => mixColumn r ((st.drop (4 * c)).take 4))

/-- Row r of the state rotated left by r (encryption) or right by r (decryption). -/
def shiftRows (left : Bool) (st : List Nat) : List Nat :=
  (List.range 16).map (fun i =>
    let row := i % 4
    let col := i / 4
    st.getD (4 * ((if left then col + row else col + 4 - row) % 4) + row) 0)

/-- The exclusive or of two byte lists. -/
def xorBytes (a b : List Nat) : List Nat := List.zipWith (fun x y => x ^^^ y) a b

/-- One more word of the key schedule, from the words so far, newest first. -/
def nextKeyWord (ws : List (List Nat)) (rcon i : Nat) : List Nat :=
  let prev := ws.getD 0 []
  let t :=
    if i % 8 = 0 then xorBytes (subBytes aesSbox (prev.drop 1 ++ prev.take 1)) [rcon, 0, 0, 0]
    else if i % 8 = 4 then subBytes aesSbox prev
    else prev
  xorBytes t (ws.getD 7 [])

/-- The key schedule from word i on, newest word first. -/
def keyWords : Nat → Nat → Nat → List (List Nat) → List (List Nat)
  | 0, _, _, ws => ws
  | n + 1, i, rcon, ws => keyWords n (i + 1) (if i % 8 = 0 then xtime rcon else rcon) (nextKeyWord ws rcon i :: ws)

/-- The 15 round keys of AES-256, each of 16 bytes. -/
def roundKeys (key : Nat) : List (List Nat) :=
  let k := unpackBytes 32 key
  let first := ((List.range 8).map (fun i => (k.drop (4 * i)).take 4)).reverse
  let words := (keyWords 52 8 1 first).reverse
  (List.range 15).map (fun r => ((words.drop (4 * r)).take 4).flatten)

/-- Encrypt a block of 16 bytes. PRESUMED: log entry 6. -/
def aesEncrypt (key block : Nat) : Nat :=
  let rk := roundKeys key
  let st0 := xorBytes (unpackBytes 16 block) (rk.getD 0 [])
  let st := ((rk.drop 1).take 13).foldl
    (fun st k => xorBytes (mixColumns [2, 3, 1, 1] (shiftRows true (subBytes aesSbox st))) k) st0
  packBytes (xorBytes (shiftRows true (subBytes aesSbox st)) (rk.getD 14 []))

/-- Decrypt a block of 16 bytes. -/
def aesDecrypt (key block : Nat) : Nat :=
  let rk := (roundKeys key).reverse
  let st0 := xorBytes (unpackBytes 16 block) (rk.getD 0 [])
  let st := ((rk.drop 1).take 13).foldl
    (fun st k => mixColumns [14, 11, 13, 9] (xorBytes (subBytes aesInvSbox (shiftRows false st)) k)) st0
  packBytes (xorBytes (subBytes aesInvSbox (shiftRows false st)) (rk.getD 14 []))

/-- The next tweak of XTS: multiply by x in the field of 2^128 elements. -/
def nextTweak (t : Nat) : Nat := if t < 2 ^ 127 then 2 * t else (2 * t - 2 ^ 128) ^^^ 0x87

/-- XTS over the four blocks of a line (R141): `key` holds the data key below the tweak key, and the tweak is the line's
number as a little-endian block. -/
def xtsLine (encrypt : Bool) (key line data : Nat) : Nat :=
  let k1 := key % 2 ^ 256
  let t0 := aesEncrypt (key / 2 ^ 256) line
  let tweaks := [t0, nextTweak t0, nextTweak (nextTweak t0), nextTweak (nextTweak (nextTweak t0))]
  let blocks := (List.range 4).map (fun i => (data >>> (128 * i)) % 2 ^ 128)
  let out := List.zipWith (fun t b =>
    (if encrypt then aesEncrypt k1 (b ^^^ t) else aesDecrypt k1 (b ^^^ t)) ^^^ t) tweaks blocks
  out.getD 0 0 + out.getD 1 0 * 2 ^ 128 + out.getD 2 0 * 2 ^ 256 + out.getD 3 0 * 2 ^ 384

/-- The line's bytes as another key slot reads them (R142): encrypted under the slot that wrote them, decrypted under the
reader's. Slot 0 is plaintext (R141), and so is a key that is `none`. -/
def recodeLine (writer reader : Option Nat) (line data : Nat) : Nat :=
  let stored := match writer with
    | none => data
    | some k => xtsLine true k line data
  match reader with
  | none => stored
  | some k => xtsLine false k line stored

end Sys2Proof.Machine
end

