-- ==== Sys2Proof/Config.lean ====
section
/-! DEFINITION. What the spec leaves to one part or leaves open: the free values of the model (no body, so that no
proof can rest on one) and the constants that an implementation fixes. -/

namespace Sys2Proof.Config

/-- A value that the spec leaves undefined, one for each reading of the state's free-value counter (log entry 2). -/
opaque freeWord : Nat → Word
/-- A 512-bit value that the spec leaves undefined (log entry 2). -/
opaque freeVec : Nat → Vec
/-- Which of the results inside a stated error bound the special-function unit or the CORDIC unit gives
(R197, R199), by the function's number and its operand bits (log entry 20). -/
opaque sfuChoice : Nat → Nat → Nat
/-- The root firmware's file that this part holds at its n-th reset, which ends with a signature block as R452 lays it out (R468, R474),
DESIGN CHOICE, log entry 25. -/
opaque firmware : Nat → List Byte
/-- The RSA-4096 identity key pair that the root generates, modulus and private exponent (R468; log entry 25). -/
opaque identityKey : Nat × Nat
/-- The bytes of the identity key's certificate chain, which ends in a Lemdor root (R468; log entry 25). -/
opaque identityChain : List Byte
/-- The digest of the boot ROM (R469), DESIGN CHOICE, log entry 25. -/
opaque bootRomDigest : Nat
/-- The modulus of each image-signing public key installed at manufacture, up to four (R468; log entry 25). -/
opaque signingKeys : List Nat
/-- What the root answers to an SPDM message, by its number in R469's list and its body, where R469 gives no value: identity,
signatures, key exchange (log entry 25). -/
opaque spdmAnswer : Nat → Nat → Nat
/-- The decoders that the registers of control group 3 program, as base, size, ports and granule: R466 gives the registers no
layout (log entry 26). -/
opaque decoders : List (Nat × Word) → List (Nat × Nat × List Nat × Nat)
/-- The peer ports whose packages share the CXL pool under the registers of control group 3 (R59, R466; log entry 26). -/
opaque poolPeers : List (Nat × Word) → List Nat

end Sys2Proof.Config
end

