-- ==== Sys2Proof/Machine/AMap.lean ====
section
/-! DEFINITION. Sparse data by key: a list of key and value pairs with strictly rising keys, its read, its write and its
removal. An unlisted key reads as the default that the reader names. -/

namespace Sys2Proof

/-- Sparse data by key, keys strictly rising. -/
abbrev AMap (α : Type) := List (Nat × α)

namespace Machine

/-- The value at a key, if listed. -/
def AMap.find {α : Type} : AMap α → Nat → Option α
  | [], _ => none
  | (k, v) :: rest, key => if k = key then some v else AMap.find rest key

/-- The value at a key, or the default. -/
def AMap.get {α : Type} (d : α) (m : AMap α) (key : Nat) : α := (AMap.find m key).getD d

/-- Is the key listed? -/
def AMap.has {α : Type} (m : AMap α) (key : Nat) : Bool := (AMap.find m key).isSome

/-- Write a key's value, keeping the keys in rising order. -/
def AMap.put {α : Type} : AMap α → Nat → α → AMap α
  | [], key, v => [(key, v)]
  | (k, w) :: rest, key, v =>
    if key < k then (key, v) :: (k, w) :: rest
    else if key = k then (key, v) :: rest
    else (k, w) :: AMap.put rest key v

/-- Remove a key. -/
def AMap.erase {α : Type} (m : AMap α) (key : Nat) : AMap α := m.filter (fun p => p.1 != key)

/-- Change a key's value, reading the default where it is not listed. -/
def AMap.modify {α : Type} (d : α) (m : AMap α) (key : Nat) (f : α → α) : AMap α :=
  AMap.put m key (f (AMap.get d m key))

/-- The keys strictly rise. -/
def AMap.sorted {α : Type} : AMap α → Bool
  | [] => true
  | [_] => true
  | (k, _) :: (k', v') :: rest => k < k' && AMap.sorted ((k', v') :: rest)

end Machine
end Sys2Proof
end

