-- ==== Sys2Proof/Machine/Formats.lean ====
section
/-! DEFINITION. The number formats to the last bit (R60 to R84): element types, decoding, the one rounding step,
conversions, scaled elements, lines, images and the carry-save partial sum. Bit patterns are `Nat`s below the power of
two of the format's width; exact values are a sign, a natural significand and an integer exponent of two. -/

namespace Sys2Proof.Machine

/-- The 5-bit ETYPE code (R60); codes 17 to 31 are reserved. -/
def elemTypeOf : Nat → Option ElemType
  | 0 => some .fp32 | 1 => some .fp16 | 2 => some .bf16 | 3 => some .e5m2 | 4 => some .e4m3 | 5 => some .e3m2
  | 6 => some .e2m3 | 7 => some .e2m1 | 8 => some .s32 | 9 => some .z32 | 10 => some .s16 | 11 => some .z16
  | 12 => some .s8 | 13 => some .z8 | 14 => some .s4 | 15 => some .z4 | 16 => some .csp
  | _ => none

/-- The width of an element in bits (R60). -/
def elemBits : ElemType → Nat
  | .fp32 | .s32 | .z32 => 32
  | .fp16 | .bf16 | .s16 | .z16 => 16
  | .e5m2 | .e4m3 | .s8 | .z8 => 8
  | .e3m2 | .e2m3 => 6
  | .e2m1 | .s4 | .z4 => 4
  | .csp => 256

/-- The width of the lane that holds an element in a register (R60, R61): a 6-bit element sits in 8 bits. -/
def laneBits : ElemType → Nat
  | .e3m2 | .e2m3 => 8
  | t => elemBits t

/-- The lanes of a 512-bit register (R60). -/
def laneCount (t : ElemType) : Nat := 512 / laneBits t

/-- The signed integer types. -/
def isSignedInt : ElemType → Bool
  | .s32 | .s16 | .s8 | .s4 => true
  | _ => false

/-- The unsigned integer types. -/
def isUnsignedInt : ElemType → Bool
  | .z32 | .z16 | .z8 | .z4 => true
  | _ => false

/-- The integer types. -/
def isIntType (t : ElemType) : Bool := isSignedInt t || isUnsignedInt t

/-- The binary and narrow floats. -/
def isFloatType : ElemType → Bool
  | .fp32 | .fp16 | .bf16 | .e5m2 | .e4m3 | .e3m2 | .e2m3 | .e2m1 => true
  | _ => false

/-- The five narrow floats (R71). -/
def isNarrowFloat : ElemType → Bool
  | .e5m2 | .e4m3 | .e3m2 | .e2m3 | .e2m1 => true
  | _ => false

/-- FP32, FP16 and BF16 (R64). -/
def isBinaryFloat : ElemType → Bool
  | .fp32 | .fp16 | .bf16 => true
  | _ => false

/-- What the top exponent codes of a float format mean (R64, R71). -/
inductive FloatSpecials where
  /-- An all-ones exponent is an infinity or a NaN. -/
  | ieee
  /-- Only the all-ones code is a NaN, and there is no infinity (E4M3). -/
  | nanOnly
  /-- Every code is a finite value (E3M2, E2M3, E2M1). -/
  | absent
  deriving DecidableEq, Repr

/-- A float layout: sign on top, then `expW` exponent bits, then `fracW` fraction bits. -/
structure FloatFmt where
  expW : Nat
  fracW : Nat
  bias : Nat
  specials : FloatSpecials
  deriving DecidableEq, Repr

/-- The layout of each float type (R64, R71); the integer types are given FP32's, and no caller asks for it. -/
def floatFmt : ElemType → FloatFmt
  | .fp16 => ⟨5, 10, 15, .ieee⟩
  | .bf16 => ⟨8, 7, 127, .ieee⟩
  | .e5m2 => ⟨5, 2, 15, .ieee⟩
  | .e4m3 => ⟨4, 3, 7, .nanOnly⟩
  | .e3m2 => ⟨3, 2, 3, .absent⟩
  | .e2m3 => ⟨2, 3, 1, .absent⟩
  | .e2m1 => ⟨2, 1, 1, .absent⟩
  | _ => ⟨8, 23, 127, .ieee⟩

/-- The sign bit's place, which is the width less one. -/
def signBit (f : FloatFmt) : Nat := f.expW + f.fracW

/-- Every pattern of `n` one bits. -/
def ones (n : Nat) : Nat := 2 ^ n - 1

/-- The bits `[hi:lo]` of a natural number. -/
def bitsAt (n hi lo : Nat) : Nat := (n >>> lo) % 2 ^ (hi + 1 - lo)

/-- The pattern of the largest finite magnitude (R64, R71). -/
def maxFiniteBits (f : FloatFmt) : Nat :=
  match f.specials with
  | .ieee => (ones f.expW <<< f.fracW) - 1
  | .nanOnly => ones (f.expW + f.fracW) - 1
  | .absent => ones (f.expW + f.fracW)

/-- The pattern of the positive infinity of an IEEE layout (R64). -/
def infBits (f : FloatFmt) : Nat := ones f.expW <<< f.fracW

/-- The default NaN (R64): a quiet NaN of positive sign with no other payload bit. -/
def defaultNan (f : FloatFmt) : Nat :=
  match f.specials with
  | .ieee => infBits f + 2 ^ (f.fracW - 1)
  | _ => ones (f.expW + f.fracW)

/-- Set the sign bit of a magnitude pattern. -/
def withSign (f : FloatFmt) (neg : Bool) (mag : Nat) : Nat := if neg then mag + 2 ^ signBit f else mag

/-- A decoded float. A finite value is (-1)^neg * man * 2^exp, and a NaN keeps its fraction field. -/
inductive FloatVal where
  | nan (neg : Bool) (frac : Nat) (signalling : Bool)
  | inf (neg : Bool)
  | fin (neg : Bool) (man : Nat) (exp : Int)
  deriving DecidableEq, Repr

/-- Decode a pattern of a float layout (R64, R65, R71). -/
def decodeFloat (f : FloatFmt) (bits : Nat) : FloatVal :=
  let neg := bits.testBit (signBit f)
  let e := bitsAt bits (f.expW + f.fracW - 1) f.fracW
  let frac := bits % 2 ^ f.fracW
  let finite : FloatVal :=
    if e = 0 then .fin neg frac (1 - f.bias - f.fracW)
    else .fin neg (2 ^ f.fracW + frac) ((e : Int) - f.bias - f.fracW)
  match f.specials with
  | .ieee =>
    if e = ones f.expW then
      if frac = 0 then .inf neg else .nan neg frac (!frac.testBit (f.fracW - 1))
    else finite
  | .nanOnly => if e = ones f.expW && frac = ones f.fracW then .nan neg frac false else finite
  | .absent => finite

/-- Is the value a NaN? -/
def FloatVal.isNan : FloatVal → Bool
  | .nan .. => true
  | _ => false

/-- Is the value a signalling NaN? -/
def FloatVal.isSnan : FloatVal → Bool
  | .nan _ _ s => s
  | _ => false

/-- Is the value a zero of either sign? -/
def FloatVal.isZero : FloatVal → Bool
  | .fin _ m _ => m == 0
  | _ => false

/-- The value's sign. -/
def FloatVal.isNeg : FloatVal → Bool
  | .nan n _ _ => n
  | .inf n => n
  | .fin n _ _ => n

/-- The five sticky flags as bits 4 to 0 (R70). -/
abbrev FFlags := BitVec 5
/-- Invalid operation (R70). -/
def flagNV : FFlags := 16
/-- Division by zero (R70). -/
def flagDZ : FFlags := 8
/-- Overflow (R70). -/
def flagOF : FFlags := 4
/-- Underflow (R70). -/
def flagUF : FFlags := 2
/-- Inexact (R70). -/
def flagNX : FFlags := 1

/-- A result pattern and the flags its operation raises. -/
structure FRes where
  bits : Nat
  flags : FFlags
  deriving DecidableEq, Repr

/-- Quieting sets the fraction's most significant bit and keeps sign and payload (R66). -/
def quietNan (f : FloatFmt) (neg : Bool) (frac : Nat) : Nat :=
  withSign f neg ((ones f.expW <<< f.fracW) + (frac ||| 2 ^ (f.fracW - 1)))

/-- Does the rounding step move the magnitude up? `half` is the first dropped bit, `rest` whether any later one is
set, `odd` the last kept bit (R68). -/
def roundsUp (mode : Rnd) (neg odd half rest : Bool) : Bool :=
  match mode with
  | .rne => half && (rest || odd)
  | .rtz => false
  | .rup => !neg && (half || rest)
  | .rdn => neg && (half || rest)
  | .rna => half

/-- Drop the low `sh` bits of `man` (with `sticky` more non-zero value below them) by a rounding mode: the rounded
significand and whether it is inexact. -/
def roundShift (mode : Rnd) (neg : Bool) (man sh : Nat) (sticky : Bool) : Nat × Bool :=
  match sh with
  | 0 => (man, sticky)
  | k + 1 =>
    let q := man >>> (k + 1)
    let half := man.testBit k
    let rest := sticky || man % 2 ^ k != 0
    (if roundsUp mode neg (q.testBit 0) half rest then q + 1 else q, half || rest)

/-- Overflow of a binary format (R69) and saturation of a narrow one (R72). -/
def overflowBits (t : ElemType) (mode : Rnd) (neg : Bool) : Nat :=
  let f := floatFmt t
  let toInf := match mode with
    | .rne | .rna => true
    | .rtz => false
    | .rup => !neg
    | .rdn => neg
  withSign f neg (if isBinaryFloat t && toInf then infBits f else maxFiniteBits f)

/-- The one rounding of the non-zero exact magnitude man * 2^exp, plus a positive amount below its last bit when
`sticky` (R69, R70, R72). A narrow destination always rounds to nearest even, for an integer source too (DEDUCED: log
entry 66). A caller that sets `sticky` gives at
least two more significant bits than the destination keeps. -/
def roundFinite (t : ElemType) (mode : Rnd) (neg : Bool) (man : Nat) (exp : Int) (sticky : Bool) : FRes :=
  let f := floatFmt t
  let mode := if isNarrowFloat t then Rnd.rne else mode
  let e := (Nat.log2 man : Int) + exp
  let emin : Int := 1 - f.bias
  let q := max e emin - f.fracW
  let (m, inexact) :=
    if q ≤ exp then (man <<< (exp - q).toNat, sticky)
    else roundShift mode neg man (q - exp).toNat sticky
  let nx := if inexact then flagNX else 0
  if m < 2 ^ f.fracW then
    ⟨withSign f neg m, if inexact then flagNX ||| flagUF else 0⟩
  else
    let (m, q) := if m = 2 ^ (f.fracW + 1) then (2 ^ f.fracW, q + 1) else (m, q)
    let field := (q + f.fracW + f.bias).toNat
    let mag := (field <<< f.fracW) + (m - 2 ^ f.fracW)
    if maxFiniteBits f < mag then ⟨overflowBits t mode neg, flagOF ||| flagNX⟩
    else ⟨withSign f neg mag, nx⟩

/-- An exact value rounded, where a zero takes the sign given. -/
def roundExact (t : ElemType) (mode : Rnd) (neg : Bool) (man : Nat) (exp : Int) (sticky : Bool) : FRes :=
  if man = 0 then ⟨withSign (floatFmt t) neg 0, 0⟩ else roundFinite t mode neg man exp sticky

/-- The default NaN with NV (R66). -/
def invalid (t : ElemType) : FRes := ⟨defaultNan (floatFmt t), flagNV⟩

/-- NV when some operand is a signalling NaN (R66). -/
def snanFlag (vs : List FloatVal) : FFlags := if vs.any FloatVal.isSnan then flagNV else 0

/-- The first NaN operand in operand order, quieted (R66); none when there is no NaN. -/
def propagateNan (t : ElemType) (vs : List FloatVal) : Option FRes :=
  match vs.find? FloatVal.isNan with
  | some (.nan neg frac _) => some ⟨quietNan (floatFmt t) neg frac, snanFlag vs⟩
  | _ => none

/-- The exact sum of two finite values as a signed integer times 2^exp. -/
def exactSum (n1 : Bool) (m1 : Nat) (e1 : Int) (n2 : Bool) (m2 : Nat) (e2 : Int) : Int × Int :=
  let e := min e1 e2
  let v1 : Int := ((m1 <<< (e1 - e).toNat : Nat) : Int)
  let v2 : Int := ((m2 <<< (e2 - e).toNat : Nat) : Int)
  ((if n1 then -v1 else v1) + (if n2 then -v2 else v2), e)

/-- The rounded sum of two finite values, with the zero rule of R69: an exact zero of operands of opposite sign is +0,
and -0 under RDN; operands of one sign keep it. -/
def roundSum (t : ElemType) (mode : Rnd) (n1 : Bool) (m1 : Nat) (e1 : Int) (n2 : Bool) (m2 : Nat) (e2 : Int) : FRes :=
  let (v, e) := exactSum n1 m1 e1 n2 m2 e2
  if v = 0 then ⟨withSign (floatFmt t) (if n1 = n2 then n1 else mode = .rdn) 0, 0⟩
  else roundFinite t mode (v < 0) v.natAbs e false

/-- The sum of two decoded values (R66, R69). -/
def addVals (t : ElemType) (mode : Rnd) (a b : FloatVal) : FRes :=
  match a, b with
  | .fin n1 m1 e1, .fin n2 m2 e2 => roundSum t mode n1 m1 e1 n2 m2 e2
  | .inf n1, .inf n2 => if n1 = n2 then ⟨withSign (floatFmt t) n1 (infBits (floatFmt t)), 0⟩ else invalid t
  | .inf n, _ => ⟨withSign (floatFmt t) n (infBits (floatFmt t)), 0⟩
  | _, .inf n => ⟨withSign (floatFmt t) n (infBits (floatFmt t)), 0⟩
  | _, _ => invalid t

/-- The value with its sign changed. -/
def FloatVal.negate : FloatVal → FloatVal
  | .nan n f s => .nan n f s
  | .inf n => .inf (!n)
  | .fin n m e => .fin (!n) m e

/-- FADD of one element (R166, R191). -/
def fAdd (t : ElemType) (mode : Rnd) (a b : Nat) : FRes :=
  let f := floatFmt t
  let (x, y) := (decodeFloat f a, decodeFloat f b)
  (propagateNan t [x, y]).getD (addVals t mode x y)

/-- FSUB of one element (R166, R191). -/
def fSub (t : ElemType) (mode : Rnd) (a b : Nat) : FRes :=
  let f := floatFmt t
  let (x, y) := (decodeFloat f a, decodeFloat f b)
  (propagateNan t [x, y]).getD (addVals t mode x y.negate)

/-- The exact product of two values, none where the product is invalid (R66). -/
def mulVals (x y : FloatVal) : Option FloatVal :=
  match x, y with
  | .fin n1 m1 e1, .fin n2 m2 e2 => some (.fin (n1 != n2) (m1 * m2) (e1 + e2))
  | .inf n1, .fin n2 m2 _ => if m2 = 0 then none else some (.inf (n1 != n2))
  | .fin n1 m1 _, .inf n2 => if m1 = 0 then none else some (.inf (n1 != n2))
  | .inf n1, .inf n2 => some (.inf (n1 != n2))
  | _, _ => none

/-- Round a decoded value that is not a NaN to a type. -/
def roundVal (t : ElemType) (mode : Rnd) : FloatVal → FRes
  | .fin n m e => roundExact t mode n m e false
  | .inf n => ⟨withSign (floatFmt t) n (infBits (floatFmt t)), 0⟩
  | .nan .. => invalid t

/-- FMUL of one element (R166, R191). -/
def fMul (t : ElemType) (mode : Rnd) (a b : Nat) : FRes :=
  let f := floatFmt t
  let (x, y) := (decodeFloat f a, decodeFloat f b)
  (propagateNan t [x, y]).getD
    (match mulVals x y with
     | some p => roundVal t mode p
     | none => invalid t)

/-- a * b + c, or a * b - c when `sub`, with one rounding (R66, R166). -/
def fFma (t : ElemType) (mode : Rnd) (sub : Bool) (a b c : Nat) : FRes :=
  let f := floatFmt t
  let (x, y, z) := (decodeFloat f a, decodeFloat f b, decodeFloat f c)
  (propagateNan t [x, y, z]).getD
    (match mulVals x y with
     | some p => addVals t mode p (if sub then z.negate else z)
     | none => invalid t)

/-- The quotient of two finite magnitudes to 64 bits below the divisor's weight, and whether more follows. -/
def quotMag (m1 m2 : Nat) : Nat × Bool := ((m1 <<< 64) / m2, (m1 <<< 64) % m2 != 0)

/-- FDIV of one element (R66, R69, R166). -/
def fDiv (t : ElemType) (mode : Rnd) (a b : Nat) : FRes :=
  let f := floatFmt t
  let (x, y) := (decodeFloat f a, decodeFloat f b)
  (propagateNan t [x, y]).getD
    (match x, y with
     | .fin n1 m1 e1, .fin n2 m2 e2 =>
       if m2 = 0 then
         if m1 = 0 then invalid t else ⟨withSign f (n1 != n2) (infBits f), flagDZ⟩
       else if m1 = 0 then ⟨withSign f (n1 != n2) 0, 0⟩
       else
         let (q, sticky) := quotMag m1 m2
         roundFinite t mode (n1 != n2) q (e1 - e2 - 64) sticky
     | .inf n1, .fin n2 _ _ => ⟨withSign f (n1 != n2) (infBits f), 0⟩
     | .fin n1 _ _, .inf n2 => ⟨withSign f (n1 != n2) 0, 0⟩
     | _, _ => invalid t)

/-- The integer square root below 2^n, bit by bit from bit n - 1 down, on top of a partial root. -/
def isqrtFrom (m : Nat) : Nat → Nat → Nat
  | 0, r => r
  | n + 1, r => isqrtFrom m n (if (r + 2 ^ n) * (r + 2 ^ n) ≤ m then r + 2 ^ n else r)

/-- The integer square root of a number below 2^256. -/
def isqrt (m : Nat) : Nat := isqrtFrom m 128 0

/-- The square root of a positive magnitude: significand, exponent and whether more follows. -/
def sqrtMag (man : Nat) (exp : Int) : Nat × Int × Bool :=
  let odd := exp % 2 != 0
  let (m, e) := if odd then (man <<< 81, exp - 81) else (man <<< 80, exp - 80)
  let r := isqrt m
  (r, e / 2, r * r != m)

/-- FSQRT of one element (R66, R166): the root of a value below -0 is invalid and the root of -0 is -0. -/
def fSqrt (t : ElemType) (mode : Rnd) (a : Nat) : FRes :=
  let f := floatFmt t
  let x := decodeFloat f a
  (propagateNan t [x]).getD
    (match x with
     | .fin n m e =>
       if m = 0 then ⟨withSign f n 0, 0⟩
       else if n then invalid t
       else
         let (r, re, sticky) := sqrtMag m e
         roundFinite t mode false r re sticky
     | .inf n => if n then invalid t else ⟨infBits f, 0⟩
     | .nan .. => invalid t)

/-- Compare two values that are not NaN: less, with -0 equal to +0. -/
def valLt (a b : FloatVal) : Bool :=
  match a, b with
  | .fin n1 m1 e1, .fin n2 m2 e2 => (exactSum n1 m1 e1 (!n2) m2 e2).1 < 0
  | .inf n1, .inf n2 => n1 && !n2
  | .inf n, _ => n
  | _, .inf n => !n
  | _, _ => false

/-- Equality of two values that are not NaN, with -0 equal to +0. -/
def valEq (a b : FloatVal) : Bool :=
  match a, b with
  | .fin n1 m1 e1, .fin n2 m2 e2 => (exactSum n1 m1 e1 (!n2) m2 e2).1 == 0
  | .inf n1, .inf n2 => n1 == n2
  | _, _ => false

/-- The order of MinNum and MaxNum (R166): as `valLt`, with -0 less than +0. -/
def valLtZero (a b : FloatVal) : Bool :=
  if a.isZero && b.isZero then a.isNeg && !b.isNeg else valLt a b

/-- MinNum, or MaxNum when `isMax` (R166): one NaN gives the other operand, two give the first, quieted. -/
def fMinMax (t : ElemType) (isMax : Bool) (a b : Nat) : FRes :=
  let f := floatFmt t
  let (x, y) := (decodeFloat f a, decodeFloat f b)
  let fl := snanFlag [x, y]
  match x, y with
  | .nan n fr _, .nan _ _ _ => ⟨quietNan f n fr, fl⟩
  | .nan .., _ => ⟨b, fl⟩
  | _, .nan .. => ⟨a, fl⟩
  | _, _ => if isMax then ⟨if valLtZero x y then b else a, 0⟩ else ⟨if valLtZero y x then b else a, 0⟩

/-- FABS: only the sign bit changes (R166). -/
def fAbs (t : ElemType) (a : Nat) : FRes := ⟨a % 2 ^ signBit (floatFmt t), 0⟩

/-- FNEG: only the sign bit changes (R166). -/
def fNeg (t : ElemType) (a : Nat) : FRes := ⟨a ^^^ 2 ^ signBit (floatFmt t), 0⟩

/-- FEQ (R167): NV only for a signalling NaN. -/
def fEq (t : ElemType) (a b : Nat) : FRes :=
  let (x, y) := (decodeFloat (floatFmt t) a, decodeFloat (floatFmt t) b)
  ⟨(!x.isNan && !y.isNan && valEq x y).toNat, snanFlag [x, y]⟩

/-- FLT (R167): NV for any NaN. -/
def fLt (t : ElemType) (a b : Nat) : FRes :=
  let (x, y) := (decodeFloat (floatFmt t) a, decodeFloat (floatFmt t) b)
  if x.isNan || y.isNan then ⟨0, flagNV⟩ else ⟨(valLt x y).toNat, 0⟩

/-- FLE (R167): NV for any NaN. -/
def fLe (t : ElemType) (a b : Nat) : FRes :=
  let (x, y) := (decodeFloat (floatFmt t) a, decodeFloat (floatFmt t) b)
  if x.isNan || y.isNan then ⟨0, flagNV⟩ else ⟨(valLt x y || valEq x y).toNat, 0⟩

/-- FUN (R167): 1 when either operand is a NaN. -/
def fUn (t : ElemType) (a b : Nat) : FRes :=
  let (x, y) := (decodeFloat (floatFmt t) a, decodeFloat (floatFmt t) b)
  ⟨(x.isNan || y.isNan).toNat, snanFlag [x, y]⟩

/-- FCLASS (R167): exactly one bit of 9:0. -/
def fClass (t : ElemType) (a : Nat) : Nat :=
  let f := floatFmt t
  match decodeFloat f a with
  | .nan _ _ s => if s then 2 ^ 8 else 2 ^ 9
  | .inf n => if n then 2 ^ 0 else 2 ^ 7
  | .fin n m _ =>
    if m = 0 then (if n then 2 ^ 3 else 2 ^ 4)
    else if m < 2 ^ f.fracW then (if n then 2 ^ 2 else 2 ^ 5)
    else (if n then 2 ^ 1 else 2 ^ 6)

/-- A value rounded to an integer by a mode: the integer, and whether that was inexact. -/
def toIntegral (mode : Rnd) (neg : Bool) (man : Nat) (exp : Int) : Int × Bool :=
  let (m, inexact) := if 0 ≤ exp then (man <<< exp.toNat, false) else roundShift mode neg man (-exp).toNat false
  (if neg then -(m : Int) else m, inexact)

/-- FRND (R168): round to an integral value of the same type; the sign of the operand stays. -/
def fRound (t : ElemType) (mode : Rnd) (a : Nat) : FRes :=
  let f := floatFmt t
  match decodeFloat f a with
  | .nan n fr s => ⟨quietNan f n fr, if s then flagNV else 0⟩
  | .inf n => ⟨withSign f n (infBits f), 0⟩
  | .fin n m e =>
    let (v, inexact) := toIntegral mode n m e
    ⟨(roundExact t .rne n v.natAbs 0 false).bits, if inexact then flagNX else 0⟩

/-- The least and the greatest value of an integer type (R62). -/
def intRange (t : ElemType) : Int × Int :=
  if isSignedInt t then (-(2 ^ (elemBits t - 1)), 2 ^ (elemBits t - 1) - 1) else (0, 2 ^ elemBits t - 1)

/-- The value of an integer element's pattern (R62). -/
def intValue (t : ElemType) (bits : Nat) : Int :=
  let w := elemBits t
  if isSignedInt t && bits.testBit (w - 1) then (bits % 2 ^ w : Nat) - (2 ^ w : Nat) else (bits % 2 ^ w : Nat)

/-- The pattern of an integer in `w` bits, modulo 2^w (R62). -/
def intBits (w : Nat) (v : Int) : Nat := (v % (2 ^ w : Nat)).toNat

/-- Saturate an integer into a type, setting NV when it does (R63, R168). -/
def satInt (t : ElemType) (v : Int) (inexact : Bool) : FRes :=
  let (lo, hi) := intRange t
  if v < lo then ⟨intBits (elemBits t) lo, flagNV⟩
  else if hi < v then ⟨intBits (elemBits t) hi, flagNV⟩
  else ⟨intBits (elemBits t) v, if inexact then flagNX else 0⟩

/-- A NaN's fraction moved to another fraction width by its most significant bits (R67). -/
def moveFrac (srcW dstW frac : Nat) : Nat :=
  if srcW ≤ dstW then frac <<< (dstW - srcW) else frac >>> (srcW - dstW)

/-- The result of converting a NaN to a float type (R67, R72). -/
def nanTo (dst : ElemType) (srcW : Nat) (neg : Bool) (frac : Nat) (snan : Bool) : FRes :=
  let f := floatFmt dst
  let fl := if snan then flagNV else 0
  match dst with
  | .e5m2 => ⟨withSign f neg 0x7E, fl⟩
  | .e4m3 => ⟨withSign f neg 0x7F, fl⟩
  | .e3m2 | .e2m3 | .e2m1 => ⟨0, flagNV⟩
  | _ => ⟨quietNan f neg (moveFrac srcW f.fracW frac), fl⟩

/-- The result of converting an infinity to a float type (R72). -/
def infTo (dst : ElemType) (neg : Bool) : FRes :=
  let f := floatFmt dst
  match f.specials with
  | .ieee => ⟨withSign f neg (infBits f), 0⟩
  | _ => ⟨withSign f neg (maxFiniteBits f), flagOF ||| flagNX⟩

/-- One element converted from a type to a type (R63, R67, R72, R168). DEDUCED: log entry 55. -/
def convert (src dst : ElemType) (mode : Rnd) (bits : Nat) : FRes :=
  if isFloatType src then
    let fs := floatFmt src
    match decodeFloat fs bits with
    | .nan n fr s =>
      if isIntType dst then ⟨0, flagNV⟩
      else nanTo dst fs.fracW n fr s
    | .inf n =>
      if isIntType dst then
        let (lo, hi) := intRange dst
        ⟨intBits (elemBits dst) (if n then lo else hi), flagNV⟩
      else infTo dst n
    | .fin n m e =>
      if isIntType dst then
        let (v, inexact) := toIntegral mode n m e
        satInt dst v inexact
      else roundExact dst mode n m e false
  else
    let v := intValue src bits
    if isIntType dst then satInt dst v false
    else roundExact dst mode (v < 0) v.natAbs 0 false

/-- One lane or element of a vector conversion (R193): a float converted to its own type returns its value, a NaN quieted with the
payload that it has. -/
def convertLane (src dst : ElemType) (mode : Rnd) (bits : Nat) : FRes :=
  if isFloatType src && src == dst then
    match decodeFloat (floatFmt src) bits with
    | .nan n fr s => ⟨quietNan (floatFmt src) n fr, if s then flagNV else 0⟩
    | _ => convert src dst mode bits
  else convert src dst mode bits

/-- The exact value of an element: its decoded value (R62, R71). -/
def elemVal (t : ElemType) (bits : Nat) : FloatVal :=
  if isFloatType t then decodeFloat (floatFmt t) bits
  else let v := intValue t bits; .fin (v < 0) v.natAbs 0

/-- A scaled element's value (R74): its value times 2^(s - 127), and a NaN for the NaN scale, whose sign and payload are
those of FP32's default NaN. DESIGN CHOICE: log entry 65. -/
def scaledVal (v : FloatVal) (scale : Nat) : FloatVal :=
  if scale = 255 then .nan false (2 ^ 22) false
  else match v with
    | .fin n m e => .fin n m (e + (scale : Int) - 127)
    | w => w

/-- Element `i` of a 64-byte line (R73); the 6-bit formats pack four elements in three bytes. -/
def lineElem (t : ElemType) (line : Nat) (i : Nat) : Nat :=
  (line >>> (i * elemBits t)) % 2 ^ elemBits t

/-- How many elements of a type a 64-byte line holds (R73). -/
def lineElems : ElemType → Nat
  | .e3m2 | .e2m3 => 84
  | t => 512 / elemBits t

/-- What a format byte of the line descriptor says (R76). -/
inductive LineFormat where
  | raw
  | elem (t : ElemType) (scaled : Bool)
  | plane (n p : Nat)
  | reserved
  deriving DecidableEq, Repr

/-- The format byte's codes (R76); every code not listed is reserved. -/
def lineFormat (code : Nat) : LineFormat :=
  match code with
  | 0x00 => .raw
  | 0x01 => .elem .fp32 false | 0x02 => .elem .fp16 false | 0x03 => .elem .bf16 false
  | 0x04 => .elem .e5m2 false | 0x05 => .elem .e4m3 false | 0x06 => .elem .e3m2 false
  | 0x07 => .elem .e2m3 false | 0x08 => .elem .e2m1 false | 0x09 => .elem .s16 false
  | 0x0A => .elem .s8 false | 0x0B => .elem .z8 false | 0x0C => .elem .s4 false | 0x0D => .elem .z4 false
  | 0x84 => .elem .e5m2 true | 0x85 => .elem .e4m3 true | 0x86 => .elem .e3m2 true
  | 0x87 => .elem .e2m3 true | 0x88 => .elem .e2m1 true | 0x8A => .elem .s8 true | 0x8C => .elem .s4 true
  | c =>
    if 0x40 ≤ c && c < 0x80 then
      let n := bitsAt c 5 3 + 1
      let p := c % 8
      if n = 1 || n ≤ p then .reserved else .plane n p
    else .reserved

/-- The value of the first `k` planes of an N-bit bit-plane integer, with the midpoint option (R79). -/
def planeValue (n k : Nat) (midpoint : Bool) (bits : Nat) : Int :=
  let top := bitsAt bits (n - 1) (n - k)
  let trunc : Int := (if top.testBit (k - 1) then (top : Int) - 2 ^ k else top) * 2 ^ (n - k)
  if midpoint && k < n then trunc + 2 ^ (n - k - 1) else trunc

/-- The monotone image of an element (R82). -/
def image (t : ElemType) (zeroFold : Bool) (e : Nat) : Nat :=
  let w := elemBits t
  let top := 2 ^ (w - 1)
  if isFloatType t then
    if zeroFold && e = top then top
    else if e.testBit (w - 1) then ones w - e else e ^^^ top
  else if isSignedInt t then e ^^^ top
  else e

/-- The image of an N-bit bit-plane value held as one N-bit integer (R82, R83). -/
def planeImage (n : Nat) (e : Nat) : Nat := e ^^^ 2 ^ (n - 1)

/-- A scaled element rounded to FP32 by RNE (R83, step 1). -/
def scaledToFp32 (v : FloatVal) : Nat :=
  match v with
  | .nan n fr s => (nanTo .fp32 23 n fr s).bits
  | w => (roundVal .fp32 .rne w).bits

/-- The image of a scaled element (R83): its FP32 value imaged at width 32. The NaN payload of a narrow element is
placed in the FP32 fraction's most significant bits as R67 does for a widening. -/
def scaledImage (t : ElemType) (scale : Nat) (zeroFold : Bool) (e : Nat) : Nat :=
  let v := scaledVal (match elemVal t e with
    | .nan n fr s => .nan n (moveFrac (floatFmt t).fracW 23 fr) s
    | w => w) scale
  image .fp32 zeroFold (scaledToFp32 v)

/-- The carry-save partial sum (R80): the two words as integers, the weight of bit 0 and the three flags. -/
structure Csp where
  sum : BitVec 112
  carry : BitVec 112
  exp : BitVec 16
  nan : Bool
  pinf : Bool
  ninf : Bool
  deriving DecidableEq, Repr

/-- The zero element with a given window exponent. -/
def cspZero (exp : BitVec 16) : Csp := ⟨0, 0, exp, false, false, false⟩

/-- An element as its 256 bits (R80). -/
def cspToBits (c : Csp) : BitVec 256 :=
  (0 : BitVec 13) ++ BitVec.ofBool c.ninf ++ BitVec.ofBool c.pinf ++ BitVec.ofBool c.nan ++ c.exp ++ c.carry ++ c.sum

/-- The element in 256 bits (R80). -/
def cspOfBits (b : BitVec 256) : Csp :=
  { sum := b.extractLsb' 0 112, carry := b.extractLsb' 112 112, exp := b.extractLsb' 224 16,
    nan := b.getLsbD 240, pinf := b.getLsbD 241, ninf := b.getLsbD 242 }

/-- The exact integer of the element's two words (R81). -/
def cspInt (c : Csp) : Int := c.sum.toInt + c.carry.toInt

/-- The element resolved to FP32, FP16 or BF16 by nearest even (R81). -/
def cspResolve (t : ElemType) (c : Csp) : Nat :=
  let f := floatFmt t
  if c.nan || (c.pinf && c.ninf) then defaultNan f
  else if c.pinf then infBits f
  else if c.ninf then withSign f true (infBits f)
  else
    let v := cspInt c
    (roundExact t .rne (v < 0) v.natAbs c.exp.toInt false).bits

end Sys2Proof.Machine
end

