-- ==== Sys2Proof/Machine/Memory.lean ====
section
/-! DEFINITION. Byte memory in its one canonical form: cells at strictly rising addresses, none of them zero, since an
unlisted address reads as zero (R140: scrubbed frames carry zero marks; R126, R218: local and slot data memory are
zero-filled; log entry 3). Little-endian multi-byte reads and writes (R4). -/

namespace Sys2Proof

/-- A memory: the listed bytes. -/
abbrev Memory := List Host.Cell

namespace Machine

/-- What an unlisted address reads as (log entry 3). -/
def unlistedByte : Byte := 0

/-- Read one byte. DESIGN CHOICE: log entry 3. -/
def Memory.read : Memory → Nat → Byte
  | [], _ => unlistedByte
  | (k, v) :: rest, a => if k = a then v else Memory.read rest a

/-- Put a cell in its place, before any later address. -/
def Memory.insert : Memory → Nat → Byte → Memory
  | [], a, b => [(a, b)]
  | (k, v) :: rest, a, b =>
    if a < k then (a, b) :: (k, v) :: rest
    else if a = k then (a, b) :: rest
    else (k, v) :: Memory.insert rest a b

/-- Remove an address's cell. -/
def Memory.remove : Memory → Nat → Memory
  | [], _ => []
  | (k, v) :: rest, a =>
    if a < k then (k, v) :: rest
    else if a = k then rest
    else (k, v) :: Memory.remove rest a

/-- Write one byte: the byte an unlisted address reads as leaves no cell. -/
def Memory.write (m : Memory) (a : Nat) (b : Byte) : Memory :=
  if b = unlistedByte then Memory.remove m a else Memory.insert m a b

/-- Addresses from `lo` on strictly rise and no cell holds the unlisted byte. -/
def Memory.wfFrom : Nat → Memory → Bool
  | _, [] => true
  | lo, (k, v) :: rest => lo ≤ k && v != unlistedByte && Memory.wfFrom (k + 1) rest

/-- The canonical form. -/
def Memory.wf (m : Memory) : Bool := Memory.wfFrom 0 m

/-- Read `n` bytes from `a` as a little-endian number (R4). -/
def Memory.readN (m : Memory) (a : Nat) : Nat → Nat
  | 0 => 0
  | n + 1 => (Memory.read m a).toNat + 256 * Memory.readN m (a + 1) n

/-- Write the `n` low bytes of a number from `a` on, least significant first (R4). -/
def Memory.writeN (m : Memory) (a : Nat) : Nat → Nat → Memory
  | 0, _ => m
  | n + 1, v => Memory.writeN (Memory.write m a (BitVec.ofNat 8 v)) (a + 1) n (v / 256)

/-- Read `n` bytes as a list, lowest address first. -/
def Memory.readBytes (m : Memory) (a : Nat) : Nat → List Byte
  | 0 => []
  | n + 1 => Memory.read m a :: Memory.readBytes m (a + 1) n

/-- Write a list of bytes, lowest address first. -/
def Memory.writeBytes (m : Memory) (a : Nat) : List Byte → Memory
  | [] => m
  | b :: bs => Memory.writeBytes (Memory.write m a b) (a + 1) bs

/-- Zero-fill: drop every cell of the range (R126). -/
def Memory.clear (m : Memory) (a n : Nat) : Memory := m.filter (fun c => c.1 < a || a + n ≤ c.1)

/-- The bytes of a number, least significant first. -/
def bytesOf : Nat → Nat → List Byte
  | 0, _ => []
  | n + 1, v => BitVec.ofNat 8 v :: bytesOf n (v / 256)

/-- A little-endian number from its bytes. -/
def ofBytes : List Byte → Nat
  | [] => 0
  | b :: bs => b.toNat + 256 * ofBytes bs

end Machine
end Sys2Proof
end

