-- ==== Sys2Proof/Syntax.lean ====
section
/-! DEFINITION. The instructions and the part's events: one constructor for each row of the opcode table. An instruction
carries the fields of its parcels (R86), and which of them a form reads its meaning says; an event carries what the
outside or the machine's own freedom decides (which token, which request, which view). -/

namespace Sys2Proof

/-- The fields of an instruction's parcels (R86). A field that the form's parcels do not hold is zero. -/
structure Operands where
  form : Form
  d : RegField
  a : RegField
  b : RegField
  c : RegField
  md : BitVec 4
  t : RegField
  imm : BitVec 16
  lit : BitVec 32
  deriving DecidableEq, Repr

/-- The hint region's parcels (R103): the low bits of its opcode, its FN field and the fields no one reads. -/
structure HintOperands where
  op : BitVec 2
  fn : BitVec 5
  rest : Operands
  deriving DecidableEq, Repr

/-- The instructions and events of the part, in the order of the opcode table. -/
inductive Instr where
  /-- R160: Adds the second source to x[A] modulo 2^64 and writes x[D]. -/
  | add (o : Operands)
  /-- R160: Subtracts the second source from x[A] modulo 2^64. -/
  | sub (o : Operands)
  /-- R160: Bitwise AND of x[A] and the second source. -/
  | and (o : Operands)
  /-- R160: Bitwise OR of x[A] and the second source. -/
  | or (o : Operands)
  /-- R160: Bitwise XOR of x[A] and the second source. -/
  | xor (o : Operands)
  /-- R160: x[A] AND NOT the second source. -/
  | andn (o : Operands)
  /-- R160: Shifts x[A] left by the low six bits of the second source. -/
  | shl (o : Operands)
  /-- R160: Shifts x[A] right with zero fill. -/
  | shr (o : Operands)
  /-- R160: Shifts x[A] right arithmetically. -/
  | sha (o : Operands)
  /-- R160: Rotates x[A] right. -/
  | rot (o : Operands)
  /-- R160: Signed minimum. -/
  | min (o : Operands)
  /-- R160: Signed maximum. -/
  | max (o : Operands)
  /-- R160: Unsigned minimum. -/
  | minz (o : Operands)
  /-- R160: Unsigned maximum. -/
  | maxz (o : Operands)
  /-- R160: Writes 1 if x[A] is signed-less than the second source. -/
  | slt (o : Operands)
  /-- R160: Writes 1 if x[A] is unsigned-less than the second source. -/
  | sltz (o : Operands)
  /-- R160: Writes 1 if the operands are equal. -/
  | seq (o : Operands)
  /-- R160: Writes 1 if the operands differ. -/
  | sne (o : Operands)
  /-- R161: 32-bit add, result sign-extended. -/
  | addW (o : Operands)
  /-- R161: 32-bit subtract, sign-extended. -/
  | subW (o : Operands)
  /-- R161: 32-bit AND, sign-extended. -/
  | andW (o : Operands)
  /-- R161: 32-bit OR, sign-extended. -/
  | orW (o : Operands)
  /-- R161: 32-bit XOR, sign-extended. -/
  | xorW (o : Operands)
  /-- R161: 32-bit AND NOT, sign-extended. -/
  | andnW (o : Operands)
  /-- R161: 32-bit shift left by b[4:0]. -/
  | shlW (o : Operands)
  /-- R161: 32-bit logical shift right. -/
  | shrW (o : Operands)
  /-- R161: 32-bit arithmetic shift right. -/
  | shaW (o : Operands)
  /-- R161: 32-bit rotate right. -/
  | rotW (o : Operands)
  /-- R161: 32-bit signed minimum. -/
  | minW (o : Operands)
  /-- R161: 32-bit signed maximum. -/
  | maxW (o : Operands)
  /-- R161: 32-bit unsigned minimum. -/
  | minzW (o : Operands)
  /-- R161: 32-bit unsigned maximum. -/
  | maxzW (o : Operands)
  /-- R161: 32-bit signed less-than test. -/
  | sltW (o : Operands)
  /-- R161: 32-bit unsigned less-than test. -/
  | sltzW (o : Operands)
  /-- R161: 32-bit equality test. -/
  | seqW (o : Operands)
  /-- R161: 32-bit inequality test. -/
  | sneW (o : Operands)
  /-- R162: Low 64 bits of the product. -/
  | mul (o : Operands)
  /-- R162: High 64 bits of the signed product. -/
  | mulh (o : Operands)
  /-- R162: High 64 bits of the unsigned product. -/
  | mulhz (o : Operands)
  /-- R162: Signed quotient with defined divide-by-zero and overflow results. -/
  | div (o : Operands)
  /-- R162: Unsigned quotient. -/
  | divz (o : Operands)
  /-- R162: Signed remainder. -/
  | rem (o : Operands)
  /-- R162: Unsigned remainder. -/
  | remz (o : Operands)
  /-- R163: Counts leading zero bits of x[A]. -/
  | clz (o : Operands)
  /-- R163: Counts trailing zero bits of x[A]. -/
  | ctz (o : Operands)
  /-- R163: Counts one bits of x[A]. -/
  | pop (o : Operands)
  /-- R163: Reverses the bits of x[A]. -/
  | brev (o : Operands)
  /-- R163: Reverses the bytes of x[A]. -/
  | bswap (o : Operands)
  /-- R163: Extracts a bit field described by the second source. -/
  | ext (o : Operands)
  /-- R163: Deposits x[A] into a bit field of x[D]. -/
  | dep (o : Operands)
  /-- R164: Copies x[A] to x[D]. -/
  | mov (o : Operands)
  /-- R164: Loads the second source into x[D]. -/
  | li (o : Operands)
  /-- R164: Selects x[A] when x[D] is non-zero, else the second source. -/
  | sel (o : Operands)
  /-- R164: Selects x[A] when x[D] is zero, else the second source. -/
  | selz (o : Operands)
  /-- R166: Scalar FP32 addition. -/
  | fadd (o : Operands)
  /-- R166: Scalar FP32 subtraction. -/
  | fsub (o : Operands)
  /-- R166: Scalar FP32 multiplication. -/
  | fmul (o : Operands)
  /-- R166: Fused a*b+c with c from x[D]. -/
  | fma (o : Operands)
  /-- R166: Fused a*b-c with c from x[D]. -/
  | fms (o : Operands)
  /-- R166: Scalar FP32 division. -/
  | fdiv (o : Operands)
  /-- R166: Scalar FP32 square root. -/
  | fsqrt (o : Operands)
  /-- R166: MinNum of two FP32 values. -/
  | fmin (o : Operands)
  /-- R166: MaxNum of two FP32 values. -/
  | fmax (o : Operands)
  /-- R166: Clears the sign bit. -/
  | fabs (o : Operands)
  /-- R166: Inverts the sign bit. -/
  | fneg (o : Operands)
  /-- R167: FP32 equality compare. -/
  | feq (o : Operands)
  /-- R167: FP32 less-than compare. -/
  | flt (o : Operands)
  /-- R167: FP32 less-or-equal compare. -/
  | fle (o : Operands)
  /-- R167: Writes 1 if either operand is a NaN. -/
  | funord (o : Operands)
  /-- R167: Writes a one-hot class of x[A]. -/
  | fclass (o : Operands)
  /-- R168: Converts x[A] from the source type to the destination type. -/
  | cvt (o : Operands)
  /-- R168: Rounds an FP32 value to an integral value. -/
  | frnd (o : Operands)
  /-- R169: Branches if equal. -/
  | beq (o : Operands)
  /-- R169: Branches if not equal. -/
  | bne (o : Operands)
  /-- R169: Branches if signed less. -/
  | blt (o : Operands)
  /-- R169: Branches if signed greater or equal. -/
  | bge (o : Operands)
  /-- R169: Branches if unsigned less. -/
  | bltz (o : Operands)
  /-- R169: Branches if unsigned greater or equal. -/
  | bgez (o : Operands)
  /-- R170: Jumps PC-relative. -/
  | jmp (o : Operands)
  /-- R170: Writes the return address to x31 and jumps. -/
  | jal (o : Operands)
  /-- R170: Jumps to a register target. -/
  | jr (o : Operands)
  /-- R171: Decrements x[D] and branches while non-zero. -/
  | loop (o : Operands)
  /-- R172: Issues once a token register is no longer pending. -/
  | waitt (o : Operands)
  /-- R172: Issues once a queue or inbox holds k tokens. -/
  | waitq (o : Operands)
  /-- R173: Ends an actor firing once nothing is pending and releases reserved tokens. -/
  | endFiring (o : Operands)
  /-- R173: Withdraws waiting AWAITs, waits, and empties the sequencer slot. -/
  | halt (o : Operands)
  /-- R214: Loads a sign-extended byte from device memory. -/
  | ldB (o : Operands)
  /-- R214: Loads a sign-extended half word. -/
  | ldH (o : Operands)
  /-- R214: Loads a sign-extended word. -/
  | ldW (o : Operands)
  /-- R214: Loads a double word. -/
  | ldD (o : Operands)
  /-- R214: Loads a zero-extended byte. -/
  | ldBz (o : Operands)
  /-- R214: Loads a zero-extended half word. -/
  | ldHz (o : Operands)
  /-- R214: Loads a zero-extended word. -/
  | ldWz (o : Operands)
  /-- R215: Loads a byte through the read-only path. -/
  | ldRob (o : Operands)
  /-- R215: Loads a half word through the read-only path. -/
  | ldRoh (o : Operands)
  /-- R215: Loads a word through the read-only path. -/
  | ldRow (o : Operands)
  /-- R215: Loads a double word through the read-only path. -/
  | ldRod (o : Operands)
  /-- R216: Stores a byte to device memory. -/
  | stB (o : Operands)
  /-- R216: Stores a half word. -/
  | stH (o : Operands)
  /-- R216: Stores a word. -/
  | stW (o : Operands)
  /-- R216: Stores a double word. -/
  | stD (o : Operands)
  /-- R217: Loads a byte from local or slot data memory. -/
  | ldlB (o : Operands)
  /-- R217: Loads a half word from local memory. -/
  | ldlH (o : Operands)
  /-- R217: Loads a word from local memory. -/
  | ldlW (o : Operands)
  /-- R217: Loads a double word from local memory. -/
  | ldlD (o : Operands)
  /-- R217: Stores a byte to local memory. -/
  | stlB (o : Operands)
  /-- R217: Stores a half word to local memory. -/
  | stlH (o : Operands)
  /-- R217: Stores a word to local memory. -/
  | stlW (o : Operands)
  /-- R217: Stores a double word to local memory. -/
  | stlD (o : Operands)
  /-- R219: Atomic add at the home. -/
  | amoadd (o : Operands)
  /-- R219: Atomic FP32 add at the home. -/
  | amofadd (o : Operands)
  /-- R219: Atomic signed minimum. -/
  | amomin (o : Operands)
  /-- R219: Atomic signed maximum. -/
  | amomax (o : Operands)
  /-- R219: Atomic unsigned minimum. -/
  | amominz (o : Operands)
  /-- R219: Atomic unsigned maximum. -/
  | amomaxz (o : Operands)
  /-- R219: Atomic AND. -/
  | amoand (o : Operands)
  /-- R219: Atomic OR. -/
  | amoor (o : Operands)
  /-- R219: Atomic XOR. -/
  | amoxor (o : Operands)
  /-- R219: Atomic swap. -/
  | amoswp (o : Operands)
  /-- R219: Atomic compare and swap against x[D]. -/
  | amocas (o : Operands)
  /-- R219: Atomic bounded increment. -/
  | amoinc (o : Operands)
  /-- R220: Orders earlier writes and atomics before later requests at its scope. -/
  | fence (o : Operands)
  /-- R221: Drops the colour's entries in the gallery read-only cache. -/
  | invro (o : Operands)
  /-- R222: Prefetches a line into the named cache level as a hint. -/
  | pref (o : Operands)
  /-- R224: Reads 8 bytes served only when the value meets a condition. -/
  | waitv (o : Operands)
  /-- R227: Bulk copy between local and device memory by the copy engine. -/
  | cpy (o : Operands)
  /-- R228: Copies elements between two shape records. -/
  | cpys (o : Operands)
  /-- R229: Fills a range with a repeated 8-byte pattern. -/
  | cpyf (o : Operands)
  /-- R230: Pushes tokens made from memory to an output queue. -/
  | cpyqPush (o : Operands)
  /-- R230: Pops tokens from a queue or inbox into memory. -/
  | cpyqPop (o : Operands)
  /-- R174: Pushes a token with an explicit tag and control to an output queue. -/
  | emit (o : Operands)
  /-- R174: Pushes a predicate token. -/
  | emitp (o : Operands)
  /-- R175: Reads token j of a queue without popping. -/
  | peek (o : Operands)
  /-- R176: Reads a queue head tag or the firing tag. -/
  | tagrd (o : Operands)
  /-- R177: Builds a tag by setting field k and clearing deeper fields. -/
  | tagmk (o : Operands)
  /-- R191: Lane-wise addition. -/
  | vadd (o : Operands)
  /-- R191: Lane-wise subtraction. -/
  | vsub (o : Operands)
  /-- R191: Lane-wise multiplication. -/
  | vmul (o : Operands)
  /-- R191: Lane-wise fused multiply-add into v[D]. -/
  | vfma (o : Operands)
  /-- R191: Lane-wise fused multiply-subtract. -/
  | vfms (o : Operands)
  /-- R191: Lane-wise minimum. -/
  | vmin (o : Operands)
  /-- R191: Lane-wise maximum. -/
  | vmax (o : Operands)
  /-- R191: Lane-wise absolute value. -/
  | vabs (o : Operands)
  /-- R191: Lane-wise negation. -/
  | vneg (o : Operands)
  /-- R191: Lane-wise AND. -/
  | vand (o : Operands)
  /-- R191: Lane-wise OR. -/
  | vor (o : Operands)
  /-- R191: Lane-wise XOR. -/
  | vxor (o : Operands)
  /-- R191: Lane-wise shift left. -/
  | vshl (o : Operands)
  /-- R191: Lane-wise logical shift right. -/
  | vshr (o : Operands)
  /-- R191: Lane-wise arithmetic shift right. -/
  | vsha (o : Operands)
  /-- R192: Lane-wise equality into a mask. -/
  | veq (o : Operands)
  /-- R192: Lane-wise less-than into a mask. -/
  | vlt (o : Operands)
  /-- R192: Lane-wise less-or-equal into a mask. -/
  | vle (o : Operands)
  /-- R192: Lane-wise unordered test into a mask. -/
  | vun (o : Operands)
  /-- R193: Converts the low lanes from one type to another. -/
  | vcvt (o : Operands)
  /-- R194: Rounds float lanes to integral values. -/
  | vrnd (o : Operands)
  /-- R194: Scales float lanes by 2^k. -/
  | vscl (o : Operands)
  /-- R194: Writes the exponent of each float lane. -/
  | vexp (o : Operands)
  /-- R195: Copies lanes. -/
  | vmov (o : Operands)
  /-- R195: Broadcasts a scalar into every lane. -/
  | vbc (o : Operands)
  /-- R195: Selects lanes by mask from two vectors. -/
  | vsel (o : Operands)
  /-- R195: Permutes lanes by an index vector. -/
  | vperm (o : Operands)
  /-- R195: Slides lanes by a signed count. -/
  | vslide (o : Operands)
  /-- R195: Writes x[A]+i into lane i. -/
  | viota (o : Operands)
  /-- R195: Inserts a scalar into one lane. -/
  | vins (o : Operands)
  /-- R195: Extracts one lane to a scalar. -/
  | vxtr (o : Operands)
  /-- R196: Sums active lanes over a fixed tree. -/
  | vrsum (o : Operands)
  /-- R196: Maximum of active lanes. -/
  | vrmax (o : Operands)
  /-- R196: Minimum of active lanes. -/
  | vrmin (o : Operands)
  /-- R200: Loads a vector from local memory. -/
  | vldl (o : Operands)
  /-- R200: Stores a vector to local memory. -/
  | vstl (o : Operands)
  /-- R202: Gathers lanes from device memory. -/
  | vldg (o : Operands)
  /-- R202: Scatters lanes to device memory. -/
  | vsts (o : Operands)
  /-- R200: Loads a 64-byte vector from device memory. -/
  | vld (o : Operands)
  /-- R200: Stores a 64-byte vector to device memory. -/
  | vst (o : Operands)
  /-- R203: Pops a wide token into a vector register. -/
  | vqrd (o : Operands)
  /-- R203: Pushes a vector as one wide token. -/
  | vowr (o : Operands)
  /-- R197: Approximate 2^a per lane. -/
  | vexp2f (o : Operands)
  /-- R197: Approximate log2 a per lane. -/
  | vlog2f (o : Operands)
  /-- R197: Approximate reciprocal per lane. -/
  | vrcp (o : Operands)
  /-- R197: Approximate reciprocal square root per lane. -/
  | vrsq (o : Operands)
  /-- R199: CORDIC sine of 16 FP32 lanes on row-0 tiles. -/
  | cordSin (o : Operands)
  /-- R199: CORDIC cosine. -/
  | cordCos (o : Operands)
  /-- R199: CORDIC atan2. -/
  | cordAtn (o : Operands)
  /-- R199: CORDIC tanh. -/
  | cordHyp (o : Operands)
  /-- R204: Mask AND. -/
  | mand (o : Operands)
  /-- R204: Mask OR. -/
  | mor (o : Operands)
  /-- R204: Mask XOR. -/
  | mxor (o : Operands)
  /-- R204: Mask AND NOT. -/
  | mandn (o : Operands)
  /-- R204: Mask NOT. -/
  | mnot (o : Operands)
  /-- R204: Counts set mask bits into x[D]. -/
  | mpop (o : Operands)
  /-- R204: Index of the lowest set mask bit. -/
  | mfst (o : Operands)
  /-- R204: Copies a mask to x[D]. -/
  | mmov (o : Operands)
  /-- R204: Sets a mask from a register or immediate. -/
  | mset (o : Operands)
  /-- R207: Loads a shape record from local memory. -/
  | shld (o : Operands)
  /-- R207: Stores a shape record to local memory. -/
  | shst (o : Operands)
  /-- R207: Builds a queue-channel shape record. -/
  | shbq (o : Operands)
  /-- R209: Applies a VALU function element-wise along shapes. -/
  | smap (o : Operands)
  /-- R209: Reduces a shape's elements in walk order. -/
  | sred (o : Operands)
  /-- R209: Converts elements between shapes. -/
  | scvt (o : Operands)
  /-- R209: Copies elements between shapes. -/
  | scpy (o : Operands)
  /-- R366: Acquires the matrix bank if needed and sets its configuration and strides. -/
  | mxcfg (o : Operands)
  /-- R367: Queues zeroing of the accumulator. -/
  | mxzero (o : Operands)
  /-- R368: Checks and queues one matrix pass. -/
  | mxmul (o : Operands)
  /-- R364: Queues a drain of all elements to device memory. -/
  | mxdrnMemory (o : Operands)
  /-- R364: Queues a drain of one row as wide tokens. -/
  | mxdrnQueue (o : Operands)
  /-- R364: Queues a drain of one row into vector registers. -/
  | mxdrnRegisters (o : Operands)
  /-- R370: Queues setting of the row and column masks. -/
  | mxmsk (o : Operands)
  /-- R371: Queues loading of a mask parameter block from local memory. -/
  | mxmpb (o : Operands)
  /-- R372: Issues once the node queue holds no operation of the firing. -/
  | mxwait (o : Operands)
  /-- R396: Acquires a channel if needed and configures a selection walk. -/
  | qscfg (o : Operands)
  /-- R397: Runs the transpose and plane steps up to a target plane. -/
  | qsstep (o : Operands)
  /-- R397: Runs the walk to its end. -/
  | qsrun (o : Operands)
  /-- R398: Reads one field of the walk state. -/
  | qsrd (o : Operands)
  /-- R399: Writes the selection state record and releases the channel. -/
  | qssav (o : Operands)
  /-- R399: Acquires a channel and restores a saved walk. -/
  | qsrst (o : Operands)
  /-- R400: ANDs a bit vector into the candidates before the first plane step. -/
  | qsmskAnd (o : Operands)
  /-- R400: Writes the candidate vector. -/
  | qsmskCandidates (o : Operands)
  /-- R400: Writes the at-or-beyond-prefix vector. -/
  | qsmskBeyond (o : Operands)
  /-- R408: Draws one weighted index with a keyed ChaCha8 value. -/
  | samp (o : Operands)
  /-- R409: Walks a draft tree against target samples and writes the accepted list. -/
  | acpt (o : Operands)
  /-- R410: Advances a sequence entry and writes its completion record. -/
  | cmit (o : Operands)
  /-- R407: Binds a sequence entry with a key from the entropy source. -/
  | seedFresh (o : Operands)
  /-- R407: Binds a sequence entry with an explicit key. -/
  | seedExplicit (o : Operands)
  /-- R407: Binds a sequence entry from a completion record for replay. -/
  | seedReplay (o : Operands)
  /-- R407: Zeroises a sequence entry. -/
  | seedClear (o : Operands)
  /-- R330: Checks and loads a region image onto its rectangle of tiles. -/
  | cfgldLoad (o : Operands)
  /-- R330: Unloads the region's context from every tile. -/
  | cfgldUnload (o : Operands)
  /-- R331: Drains other regions, checks the certificate and makes the context active. -/
  | cfgsw (o : Operands)
  /-- R332: Runs the certificate checks without change. -/
  | cfgck (o : Operands)
  /-- R333: Requests a change of one edge's depth. -/
  | cfged (o : Operands)
  /-- R340: Binds a stream port for a colour to a shape. -/
  | bind (o : Operands)
  /-- R342: Removes a colour's port binding. -/
  | unbind (o : Operands)
  /-- R342: Reads and clears one GATCNT counter of a GAT slot. -/
  | portwGatcnt (o : Operands)
  /-- R342: Reads the count of completions held in the region's queue. -/
  | portwCompletions (o : Operands)
  /-- R342: Reads and clears elements discarded at an output port. -/
  | portwDiscards (o : Operands)
  /-- R342: Sends a reply token to the host after earlier work completes. -/
  | portwReply (o : Operands)
  /-- R343: Arms the region, or re-arms it as a kernel boundary, optionally setting a section pass count. -/
  | arm (o : Operands)
  /-- R346: Sends one token into a colour's injection edge. -/
  | inj (o : Operands)
  /-- R344: Takes a completion from the region's completion queue. -/
  | awaitCompletion (o : Operands)
  /-- R344: Takes the head of the slot's inbox. -/
  | awaitInbox (o : Operands)
  /-- R344: Takes an inbox token if present, else a completion. -/
  | awaitEither (o : Operands)
  /-- R347: Closes admission, drains and performs a kernel boundary. -/
  | barr (o : Operands)
  /-- R334: Opens a colour in the colour table and copies its persistent state. -/
  | copen (o : Operands)
  /-- R336: Starts closing a colour and drops its louvre tokens. -/
  | cclose (o : Operands)
  /-- R335: Sets an open colour's quota. -/
  | cquota (o : Operands)
  /-- R337: Kills a colour and ends its firings. -/
  | ckill (o : Operands)
  /-- R338: Requests a lease on a colour's declared extents. -/
  | lease (o : Operands)
  /-- R339: Requests the end of a lease. -/
  | unlease (o : Operands)
  /-- R348: Places a start token in the pending-launch pool, waiting for an entry. -/
  | lnchW (o : Operands)
  /-- R348: Places a start token in the pool or fails at once. -/
  | lnchN (o : Operands)
  /-- R349: Sets and restarts the region's quantum. -/
  | qset (o : Operands)
  /-- R349: Expires the running quantum. -/
  | qyld (o : Operands)
  /-- R430: Copies a tile's traffic table to slot data memory. -/
  | tcrd (o : Operands)
  /-- R431: Sets the placement policy and restarts the swap clock. -/
  | swpol (o : Operands)
  /-- R432: Enables the region's placement. -/
  | swpenEnable (o : Operands)
  /-- R432: Disables placement and clears the tables. -/
  | swpenDisable (o : Operands)
  /-- R433: Forces a swap of a tile with its neighbour. -/
  | swpx (o : Operands)
  /-- R434: Moves swap-log records to slot data memory. -/
  | swplg (o : Operands)
  /-- R179: Ends the firing with a fault, or traps a sequencer slot. -/
  | trap (o : Operands)
  /-- R179: Breakpoint fault or trap. -/
  | brk (o : Operands)
  /-- R467: Service 1: enters the slot image's range as extent 15. -/
  | syscImageExtent (o : Operands)
  /-- R467: Service 2: posts a slot event to the host. -/
  | syscSlotEvent (o : Operands)
  /-- R467: Service 3: returns the package timestamp; on the root SYSC traps instead. -/
  | syscTimestamp (o : Operands)
  /-- R181: Returns from a sequencer trap handler. -/
  | eret (o : Operands)
  /-- R182: Waits a number of cycles. -/
  | idle (o : Operands)
  /-- R183: Reads a system register. -/
  | rdsr (o : Operands)
  /-- R183: Writes a system register that has no behaviour of its own. -/
  | wrsr (o : Operands)
  /-- R471: Loads an empty key slot. -/
  | keyld (o : Operands)
  /-- R471: Revokes leases naming a key slot, then zeroises it. -/
  | keyz (o : Operands)
  /-- R473: Locks a tenant interface and draws a nonce. -/
  | ifstLock (o : Operands)
  /-- R473: Moves a locked interface to RUN if its colour matches. -/
  | ifstRun (o : Operands)
  /-- R473: Returns an interface to CONFIG_UNLOCKED. -/
  | ifstStop (o : Operands)
  /-- R474: Writes an interface report. -/
  | ifrpt (o : Operands)
  /-- The hint parcel (R85): bits 31 to 2, ignored. -/
  | nop (bits : BitVec 30)
  /-- The hint region (R103). -/
  | hintRegion (o : HintOperands)
  /-- R104: An undecodable or illegal instruction faults the firing or traps the slot. -/
  | faultEntry (fetch : Option Word)
  /-- R475: Reset and bring-up through boot ROM, firmware verification, self-test and link training. -/
  | resetPart (status : Nat) (tiles links revoked : List Nat)
  /-- R457: Host request token is delivered to a slot inbox or to an interface. -/
  | requestToken (port page dest slot iface : Nat) (tag payload : Word)
  /-- R457: Host reads a control-space register. -/
  | controlRead (port off : Nat)
  /-- R478: Host writes a control-space register that has no behaviour of its own. -/
  | controlWrite (port off : Nat) (value : Word)
  /-- R457: Host writes whole lines of device memory. -/
  | memoryWrite (port pa : Nat) (bytes : List Byte)
  /-- R457: Host reads whole lines of device memory. -/
  | memoryRead (port pa n : Nat)
  /-- R457: Message of an unknown kind is discarded and counted. -/
  | unknownMessage
  /-- R460: Write to CTLSEM with bit 0 set takes free groups. -/
  | ctlsemAcquire (port mask : Nat)
  /-- R460: Write to CTLSEM with bit 0 clear frees held groups. -/
  | ctlsemRelease (port mask : Nat)
  /-- R460: Write 1 to VIOLADDR.V clears the logged violation. -/
  | violaddrClear (port : Nat)
  /-- R460: Read of VIOLADDR clears the violation count. -/
  | violaddrRead (port : Nat)
  /-- R472: Read of IFSTAT clears the drop count. -/
  | ifstatRead (port iface : Nat)
  /-- R473: Write to a frozen interface register, sending a locked or running interface to ERROR. -/
  | frozenRegisterWrite (port iface reg : Nat) (value : Word)
  /-- R493: Sets the event ring base, releasing held events. -/
  | evtbWrite (port : Nat) (value : Word)
  /-- R493: Host consumes event records. -/
  | evttailWrite (port : Nat) (value : Word)
  /-- R463: Host answers a page fault as mapped or declined. -/
  | evtack (port : Nat) (value : Word)
  /-- R461: A held event record is written to the ring once there is room. -/
  | eventRecordWrite (source : Nat)
  /-- R318: Root write fences a tile and ends the regions that use it. -/
  | tfence (tile : Nat)
  /-- R317: Write of the network control register, ignored as a whole if invalid. -/
  | netctlWrite (value : Word)
  /-- R146: Read of MERRST clears the error counts. -/
  | merrstRead
  /-- R146: Write 1 clears the ring overflow bit. -/
  | merrstOvfClear
  /-- R319: Read of GDROP clears the dropped-reply count. -/
  | gdropRead
  /-- R405: Read of SILLST clears its counters. -/
  | sillstRead (gallery : Nat)
  /-- R405: Write 1 clears the entropy failure bit. -/
  | sillstEfailClear (gallery : Nat)
  /-- R477: Firmware lowers or raises island operating points after a power estimate window. -/
  | operatingPointChange (est island : Nat)
  /-- R405: Entropy source fails a health test and posts an event. -/
  | entropyHealthFailure (source test : Nat)
  /-- R405: Entropy source passes its start-up tests and sets EOK. -/
  | entropyStartupPass (source : Nat)
  /-- R465: Token from a peer port is injected or dropped by route. -/
  | peerTokenArrival (port region : Nat) (tag : Word) (ctl : Byte) (wide : Bool) (payload : Vec) (clock : List Nat)
  /-- R59: Peer or host acknowledges a system-scope write. -/
  | systemScopeAcknowledge (id who : Nat)
  /-- R246: Receiver discards a bad flit and requests a resend. -/
  | crcMismatch (link num : Nat)
  /-- R246: 64 consecutive resends report the link as failed. -/
  | linkFailed (link : Nat)
  /-- R252: A token reaches an input port and pairs, is stored, or removes sticky entries. -/
  | tokenArrival (arrivals : List (Nat × Nat × Nat × Nat))
  /-- R283: MAP operator fires on a complete set. -/
  | mapFiring (tile slot colour : Nat)
  /-- R287: RED adds a token in tag order and emits on close. -/
  | redFiring (tile slot colour : Nat)
  /-- R290: NRM resolves CSP elements to a float. -/
  | nrmFiring (tile slot colour : Nat)
  /-- R292: LUT evaluates a piecewise-linear table. -/
  | lutFiring (tile slot colour : Nat)
  /-- R293: STE routes or absorbs a token by predicate. -/
  | steFiring (tile slot colour : Nat)
  /-- R294: MRG forwards a token by predicate or arrival. -/
  | mrgFiring (tile slot colour : Nat)
  /-- R295: JON compares two stream heads and emits or drops. -/
  | jonComparison (tile slot tag : Nat)
  /-- R297: GEN fires on a trigger token and starts its sequence. -/
  | genTrigger (tile slot colour : Nat)
  /-- R297: GEN emits the next token of its sequence. -/
  | genEmit (tile slot : Nat)
  /-- R298: TAG pushes or pops a nesting field. -/
  | tagFiring (tile slot colour : Nat)
  /-- R299: LDM issues a memory read for a set. -/
  | ldmFiring (tile slot colour : Nat)
  /-- R299: LDM's read returns and its token is sent. -/
  | ldmResult (op : Nat)
  /-- R300: STM issues a write or atomic for a set. -/
  | stmFiring (tile slot colour : Nat)
  /-- R300: STM's request completes and its completion token is sent. -/
  | stmCompletion (op : Nat)
  /-- R255: Entry casement receives a start, sticky or purge token. -/
  | gatEntryFiring (tile slot colour : Nat)
  /-- R255: A waiting start token is admitted and draws an F0 value. -/
  | louvreAdmit (region colour : Nat)
  /-- R258: Exit casement forwards a result token to its output, stream port or peer. -/
  | exitResultForward (tile slot colour : Nat)
  /-- R258: Exit casement receives a done token and starts the retire sweep. -/
  | exitDoneFiring (tile slot colour : Nat)
  /-- R258: A tile applies the sweep and acknowledges once its requests complete. -/
  | sweepAcknowledge (region colour f0 tile : Nat)
  /-- R259: Exit emits the completion and returns the tag in one cycle. -/
  | completionEmit (region colour f0 : Nat)
  /-- R264: A stalled colour's borrowed entries are spilled to its sump. -/
  | stallSpill (tile ctx colour : Nat) (write : Bool)
  /-- R267: A presence-filter hit reads the sump and fires or restores records. -/
  | sumpRefill (tile ctx buf colour : Nat)
  /-- R341: Stream unit reads an instance's input elements and sends tokens. -/
  | streamPortRead (region colour f0 port : Nat)
  /-- R341: Output port writes elements from a forwarded token. -/
  | streamPortWrite (region colour f0 port : Nat)
  /-- R148: Arbiter issues an actor firing and reserves its tokens. -/
  | actorFiringIssue (tile slot binding colour : Nat)
  /-- R155: A firing reaching its budget during pre-emption is suspended and saved. -/
  | firingBudgetSuspend (core : Nat)
  /-- R30: A firing reaching 2^24 cycles ends with the watchdog fault. -/
  | watchdogExpiry (core : Nat)
  /-- R31: Region quantum expires and pre-emption begins. -/
  | quantumExpiry (region : Nat)
  /-- R31: After suspension, the chosen configuration is made active. -/
  | blockSchedulerActivate (region : Nat)
  /-- R182: IDLE's count expires or an inbox arrival ends it. -/
  | idleEnd (core : Nat)
  /-- R96: A request completes and its completion value is written. -/
  | doneCompletion (op : Nat)
  /-- R344: A waiting AWAIT takes a completion or inbox token. -/
  | awaitTake (cmd : Nat)
  /-- R348: Launch engine leases and injects a pool entry. -/
  | pendingLaunchProcess (cmd : Nat)
  /-- R315: A memory reply arrives, adjusting the window and dropping stale generations. -/
  | memoryReply (op index : Nat) (marked : Bool)
  /-- R47: Machine issues a request whose arcs are met. -/
  | zaluloIssue (op index : Nat) (merge : Bool)
  /-- R48: Machine delivers an issued write to a view. -/
  | zaluloDeliver (write view : Nat)
  /-- R52: Read-only cache fills an entry. -/
  | roCacheFill (gallery colour unit key : Nat)
  /-- R52: Read-only cache drops an entry. -/
  | roCacheDrop (gallery colour unit : Nat)
  /-- R53: Machine performs an atomic at its home. -/
  | zaluloAtomic (op index : Nat) (merge : Bool)
  /-- R56: A fence completes once earlier writes are applied. -/
  | fenceComplete (op : Nat)
  /-- R226: Copy engine moves a copy's bytes. -/
  | copyEngineTransfer (op index : Nat) (write : Bool)
  /-- R136: Lease service starts migrating a page. -/
  | migrationStart (tctx va frame tier : Nat)
  /-- R136: A copy round recopies marked lines. -/
  | migrationRound (id : Nat)
  /-- R136: Final round ends and the home moves. -/
  | migrationCommit (id : Nat)
  /-- R136: Migration is abandoned after eight rounds. -/
  | migrationAbandon (id : Nat)
  /-- R138: Host acknowledges the new mapping and the old frame is scrubbed. -/
  | oldFrameRelease (frame : Nat)
  /-- R139: A freed frame is scrubbed and admitted to the free list. -/
  | frameScrub (frame : Nat)
  /-- R143: ECC corrects an error and counts it. -/
  | correctedError
  /-- R144: Uncorrectable error poisons the line and appends a record. -/
  | uncorrectableError (level views addr : Nat)
  /-- R145: CXL device reports a poisoned line. -/
  | cxlPoisonReport (addr : Nat)
  /-- R133: Lease service grants or refuses after page faults and migrations. -/
  | leaseComplete (cmd : Nat)
  /-- R330: Region image has been streamed and checked. -/
  | cfgldComplete (cmd : Nat)
  /-- R331: After drains and checks, contexts are flipped. -/
  | cfgswFlip (cmd : Nat)
  /-- R310: After the edge drains, the new depth is checked and written. -/
  | cfgedApply (cmd : Nat)
  /-- R336: Colour's last instance retires and the colour is closed. -/
  | ccloseFinish (cmd : Nat)
  /-- R337: Colour's requests complete and its entries and instances are removed. -/
  | ckillFinish (cmd : Nat)
  /-- R347: Region drains and admission reopens after the boundary. -/
  | barrReopen (cmd : Nat)
  /-- R339: No instance holds the lease and it ends. -/
  | unleaseEnd (cmd : Nat)
  /-- R342: Instances admitted under the binding have retired. -/
  | unbindComplete (cmd : Nat)
  /-- R471: Instances of revoked leases end and the key slot is zeroised. -/
  | keyzZeroise (cmd : Nat)
  /-- R453: Loader service checks and loads a Skeov image. -/
  | loaderServiceLoad (pa size tctx : Nat) (own : Bool)
  /-- R356: A waiting MXCFG takes a free matrix bank. -/
  | mxBankAcquire (core : Nat)
  /-- R359: A queued pass fetches operands and accumulates. -/
  | mxPass (tile ctx : Nat)
  /-- R365: A queued non-pass MX operation takes effect. -/
  | mxQueueOperation (tile ctx : Nat)
  /-- R363: A queued drain delivers the accumulator. -/
  | mxDrainRun (tile ctx : Nat)
  /-- R378: A free-running node starts a colour's chain. -/
  | chainStart (tile ctx colour : Nat)
  /-- R378: A chain pops its next address token and runs a pass. -/
  | chainPass (tile ctx : Nat)
  /-- R378: After the last pass the node drains tokens and resets. -/
  | chainDrain (tile ctx : Nat)
  /-- R386: A waiting party acquires a free selection channel. -/
  | qsChannelAcquire (core : Nat)
  /-- R390: Transpose pass images a chunk into planes. -/
  | qsTransposeChunk (gallery channel : Nat)
  /-- R391: A plane step decides one bit of the result. -/
  | qsPlaneStep (gallery channel : Nat)
  /-- R419: Swap instant evaluates pairs, halves tables and starts swaps. -/
  | swapInstant (region : Nat)
  /-- R424: Both tiles reach a firing boundary and transfer begins. -/
  | swapBoundaryReached (swap : Nat)
  /-- R423: Boundary wait exceeds 8,192 cycles and the swap is abandoned. -/
  | swapBoundaryTimeout (swap : Nat)
  /-- R423: Transfer ends and alias tables exchange the two tiles. -/
  | swapFlip (swap : Nat)
  /-- R426: Old site forwards a late token over the joining link. -/
  | transomForward (swap src edge colour : Nat)
  /-- R426: All markers arrived; drain tokens sent and the transom closes. -/
  | transomClose (swap tile : Nat)
  /-- R59: A write or atomic arriving over a peer port is issued in the receiving package by that port's party. -/
  | peerMemoryRequest (port fn pa size data cmp : Nat) (clock : List Nat)
  /-- R208: The tile's stream unit walks an asynchronous STRM instruction's shape records, moving elements while the firing continues. -/
  | streamUnitTransfer (op : Nat) (merge : Bool)
  /-- R469: An SPDM 1.2 attestation message arrives at the root and is answered. -/
  | spdmRequest (message body : Nat)
  deriving DecidableEq, Repr

end Sys2Proof
end

