-- ==== Sys2Proof/Machine/State.lean ====
section
/-! DEFINITION. The state of the GLB960 as plain data, part by part: the programmable engines, the Zalulo machine, the
tiles and their fabric, the matrix nodes, the sills, the placement engine, the regions, the host side; the reasons a
step can stop; and the state after reset. -/

namespace Sys2Proof.Machine

/-! ### Tokens -/

/-- A vector clock of the Zalulo machine (R41): 20 entries, one per domain; a missing entry is zero. -/
abbrev Clock := List Nat

/-- A token (R240, R241): tag, control byte, payload, and the merged clocks of the requests that its sender had
completed when it was sent, which the Token row of R44 carries to the party that fires on it. -/
structure Token where
  tag : Word
  ctl : Byte
  wide : Bool
  payload : Vec
  clock : Clock
  /-- The pool entry that waits for the token's admission (R348). -/
  launch : Option Nat := none
  deriving DecidableEq, Repr

/-- A token in an edge buffer or an input queue: its place in arrival order, the cycle it arrived, the firing slot
that has reserved it (R148), and the edge it came on. -/
structure Held where
  tok : Token
  seq : Nat
  cycle : Nat
  reserved : Option Nat
  /-- The edge whose credits the token holds (R303): its source's logical tile, its index. -/
  src : Option (Nat × Nat)
  /-- It has completed a comparison of JON on its arrival, for which it waits in its buffer (R262). -/
  met : Bool := false
  deriving DecidableEq, Repr

/-! ### Extents and leases -/

/-- An extent record (R131). -/
structure Extent where
  /-- The migrations that have moved a part of it since it was resolved, oldest first: source, destination, size (R138). -/
  moved : List (Nat × Nat × Nat) := []
  vbase : Nat
  size : Nat
  pbase : Nat
  key : Nat
  rd : Bool
  wr : Bool
  stb : Bool
  tier : Nat
  adp : Bool
  lease : Nat
  valid : Bool
  deriving DecidableEq, Repr

/-! ### The programmable engines -/

/-- A failed range of a firing (R232). -/
structure FailedRange where
  device : Bool
  addr : Nat
  size : Nat
  deriving DecidableEq, Repr

/-- A read that was served without merging its clock (R55): the bytes, and whether it was an atomic. -/
structure ReadMark where
  pa : Nat
  size : Nat
  writes : Bool
  deriving DecidableEq, Repr

/-- A local write of a firing or a slot, with the bytes it replaced (R51). -/
structure LocWrite where
  num : Nat
  addr : Nat
  size : Nat
  old : Nat
  deriving DecidableEq, Repr

/-- What a firing or a slot remembers of its reads and of its local writes, for the arcs that a later request may have with
them (R44, R51, R55). -/
structure Trace where
  /-- The registers whose value depends on a read that was served without a merge: x registers by number, v from 64, m from
  96, h from 112, the control flow at 127, done registers from 128. -/
  taint : List Nat := []
  /-- Does the core's latest instruction depend on one; and the registers that take it as their own with the next one. -/
  dep : Bool := false
  last : List Nat := []
  /-- Reads served without a merge. -/
  reads : List ReadMark := []
  /-- Local writes, newest first, and how many there have been. -/
  writes : List LocWrite := []
  count : Nat := 0
  /-- The local writes that stand before an instruction that names a done register as its `after` (R51). -/
  upTo : AMap Nat := []
  deriving DecidableEq, Repr

/-- A firing's identity and counters (R148, R154, R155, R184). -/
structure Firing where
  region : Nat
  ctx : Nat
  colour : Nat
  bnd : Nat
  tag : Word
  started : Nat
  fcycBase : Nat
  fflags : BitVec 5
  pops : List Nat
  pushes : List Nat
  failed : List FailedRange
  /-- The ranges of its scratch slice that the firing has written, and the free values that its other bytes read as (R126;
  the number is the model's own, log entry 2). -/
  wrote : List (Nat × Nat)
  scratch : Nat
  trace : Trace
  deriving DecidableEq, Repr

/-- A sequencer slot's trap registers (R185), and whether TVEC has been written since load (R321). -/
structure TrapRegs where
  tvec : Word
  tvecSet : Bool
  tepc : Word
  act : Bool
  code : Byte
  tval : Word
  tgal : BitVec 4
  deriving DecidableEq, Repr

/-- What a firing slot or a sequencer slot is doing. -/
inductive Run where
  /-- No firing, or no program. -/
  | empty
  /-- Issuing instructions. -/
  | running
  /-- Waiting in IDLE since a cycle, for a count of cycles; the address of the next instruction, and whether a token's
  arrival or a completion has ended the wait early (R182). -/
  | idle (since count : Nat) (next : Word) (woken : Bool)
  /-- A sequencer slot held by a synchronous command until that command completes (R326). -/
  | held (cmd : Nat)
  /-- The firing has ended, or the program has double-trapped: it issues nothing more and leaves once what it has issued has
  completed (R100, R181, R380). -/
  | ending
  deriving DecidableEq, Repr

/-- A firing slot of an actor core, or a program slot of a sequencer (R91, R150, R320). -/
structure Core where
  run : Run
  pc : Word
  x : Vector Word 64
  v : Vector Vec 32
  m : Vector Word 16
  h : Vector Vec 8
  /-- The x registers whose completion value or result has not been written yet (R96, R99). -/
  pendX : Word
  /-- Those of them that a done register's completion value is awaited in (R96). -/
  pendT : Word
  /-- The v registers that await a result. -/
  pendV : BitVec 32
  /-- The m registers that await a result. -/
  pendM : BitVec 16
  /-- The h registers that await a result. -/
  pendH : BitVec 8
  firing : Firing
  trap : TrapRegs
  /-- LDEPTH.D (R323). -/
  ldepth : BitVec 3
  /-- The inbox, oldest first (R324). -/
  inbox : List Token
  /-- The slot's data memory (R218), and its poisoned lines: a bit for each 8-byte unit (R144). -/
  data : Memory
  dataPoison : AMap Nat
  /-- The slot's extent table (R210). -/
  extents : AMap Extent
  /-- The code area (R90): its virtual base and size, and the extent that maps it (R321, R445). -/
  codeBase : Nat
  codeSize : Nat
  codeExtent : Extent
  /-- The range of the image that loaded the slot (R467, service 1). -/
  image : Option Extent
  /-- The clocks that tokens taken by an asynchronous AWAIT hold for the requests that name its done register (R344). -/
  arcs : AMap Clock
  deriving DecidableEq, Repr

/-! ### The Zalulo machine -/

/-- A stamp (R47): the domain, its sequence number and the clock. -/
structure Stamp where
  dom : Nat
  num : Nat
  clock : Clock
  deriving DecidableEq, Repr

/-- The keys that a line's bytes are plain under (R140, R141), as tags: 0 for none, otherwise one more than the key. `own` gives the
tag of each byte that a write has placed, by its place in the line, and `fill` that of the others, which the line's first write
filled with zeros: of the writes applied the one with the smallest stamp, `since`. -/
structure LineKeys where
  fill : Nat
  since : Stamp
  own : AMap Nat
  deriving DecidableEq, Repr

/-- A domain's view (R40): the value of each byte, its stamp, and the poison marks of its lines (R144), one bit for
each 8-byte unit. A line's descriptor stands in the view as two bytes above the physical space (R75, R78); it and each unit's
poison mark have stamps of their own. `tags` gives a line's keys (R141); an unlisted line has its zero mark set (R140). -/
structure View where
  mem : Memory
  stamps : AMap Stamp
  poison : AMap Nat
  tags : AMap LineKeys
  deriving DecidableEq, Repr

/-- The scope of a request (R42). -/
inductive Scope where
  | tile | gallery | device | system
  deriving DecidableEq, Repr

/-- The instance on whose behalf a request is made: its region, colour and F0 value (R258). -/
structure InstKey where
  region : Nat
  colour : Nat
  f0 : Nat
  deriving DecidableEq, Repr

/-- An issued write that some view has not yet applied (R47, R48, R482). -/
structure WriteRec where
  id : Nat
  party : Nat
  pa : Nat
  size : Nat
  data : Nat
  /-- The byte enables (R200). -/
  be : Nat
  /-- The key that it was made under, as `View.tags` gives keys (R141). -/
  key : Nat
  /-- The descriptor placed with bytes 0 to 7 of a line (R78): format, scale. -/
  desc : Option (Nat × Nat)
  /-- Part of a write that covers the whole line, which ends its poison (R144). -/
  whole : Bool
  poison : Bool
  stamp : Stamp
  delivered : List Nat
  applied : List Nat
  /-- The peers and the host (number 8) that have yet to acknowledge a system-scope write (R59). -/
  acks : List Nat
  deriving DecidableEq, Repr

/-- What a request does (R42, R44). -/
inductive ReqKind where
  | read | readOnly | write | atomic | fence
  deriving DecidableEq, Repr

/-- Where a request of an operation stands. -/
inductive ReqState where
  | buffered
  | issued
  | served (value : Nat) (poisoned : Bool)
  | written (id : Nat)
  /-- An atomic that has been performed: its old value and its write, if it made one (R53). -/
  | performed (value : Nat) (id : Option Nat)
  deriving DecidableEq, Repr

/-- One machine request, of at most 8 bytes (R43). -/
structure Req where
  kind : ReqKind
  va : Nat
  pa : Nat
  size : Nat
  data : Nat
  /-- The byte enables (R200). -/
  be : Nat
  key : Nat
  desc : Option (Nat × Nat)
  whole : Bool
  poison : Bool
  state : ReqState
  /-- Its reply has reached the tile (R315). -/
  replied : Bool := false
  deriving DecidableEq, Repr

/-- What becomes of an operation's values when it completes. -/
inductive Sink where
  /-- Nothing: a write, a fence. -/
  | discard
  /-- An x register, extended from `bytes` bytes (R214); a queue-mapped one pushes a token (R94). -/
  | xreg (r : RegField) (bytes : Nat) (signed : Bool)
  /-- A v register: request i gives the bits from bit `pos i` on, unpacked where the elements are of 6 bits; the bits of
  `keep` are `base`'s (R200 to R202). -/
  | vreg (r : RegField) (base keep : Vec) (pos : List Nat) (unpack : Bool)
  /-- An h register (R207). -/
  | hreg (r : RegField)
  /-- An LDM slot's result (R299): tile, context, slot, the set's tag and control, and whether the output is wide. -/
  | ldm (tile ctx slot : Nat) (tag : Word) (last wide typed : Bool)
  /-- An STM slot's completion (R300). -/
  | stm (tile ctx slot : Nat) (tag : Word) (last : Bool)
  /-- An atomic that arrived over a peer port: its old value goes back to the sender (R59). -/
  | peer (port : Nat)
  deriving DecidableEq, Repr

/-- A party's memory operation: the requests of one instruction, which share one set of arcs (R43, R212). -/
structure MemOp where
  id : Nat
  party : Nat
  /-- The core that waits for it; none for an operator's or a port's request. -/
  core : Option Nat
  reqs : List Req
  /-- The requests that a walk of shape records has still to make, for the Same location row of R44. -/
  future : List Req
  /-- The clock of a copy or of a unit's operation, which starts as the issuing party's (R226); none: the party's own. -/
  own : Option Clock
  scope : Scope
  acquire : Bool
  release : Bool
  isFence : Bool
  /-- The operations that must complete before a request of this one is issued (R44). -/
  arcs : List Nat
  /-- The function of an atomic (R219): FN, and the compare value. -/
  amo : Nat
  cmp : Nat
  /-- The condition of a WAITV (R224); none for every other operation. -/
  cond : Option Nat
  /-- A WAITV's `MOD` (R224), and whether its read is an arc source in the run being made (R55). -/
  md : Nat
  eager : Bool
  /-- Was one of its reads served without a merge (R55)? -/
  unmerged : Bool := false
  /-- It follows, by an arc, a read that was served without a merge: in the run being made the read is no arc source, so that the
  request is never issued (R55). -/
  barred : Bool := false
  /-- The clock that it has carried so far: its writes' stamps, and the clock at its reads' returns (R44, Token row). -/
  took : Clock := []
  sink : Sink
  done : RegField
  result : Nat
  status : Nat
  /-- A copy, stream, node or sill operation that has more requests to make. -/
  pending : Bool
  /-- Its requests are made one by one by a unit, and only those that are outstanding are listed. -/
  unit : Bool
  /-- The writes and atomics that a fence waits for (R56). -/
  waits : List Nat
  /-- The peers and the host (number 8) that have yet to acknowledge a system-scope fence (R59). -/
  acks : List Nat
  /-- The control port whose memory write it is (R458). -/
  hostPort : Option Nat
  inst : Option InstKey
  /-- The generation that the request carries (R34). -/
  gen : Nat
  /-- The colour tag of a read-only-path read: 1,024 times the region plus the colour (R52). -/
  tagCol : Nat
  /-- The tile whose window counts the requests (R315). -/
  tile : Option Nat
  /-- The address of the instruction that made it (R158, R181). -/
  pc : Word
  deriving DecidableEq, Repr

/-- An entry of a gallery's read-only cache (R52): the colour tag, the 8-byte unit, its value and its poison. -/
structure RoEntry where
  /-- The key that its value was read under, as `View.line` names keys (R50, R141). -/
  key : Nat
  col : Nat
  pa : Nat
  value : Nat
  poisoned : Bool
  clock : Clock
  deriving DecidableEq, Repr

/-- The Zalulo machine (R38 to R59). -/
structure Zalulo where
  /-- The 20 views. -/
  views : AMap View
  /-- The write counters of the domains. -/
  counters : AMap Nat
  /-- The vector clocks of the parties. -/
  clocks : AMap Clock
  /-- The merged clocks of each party's completed requests. -/
  doneClocks : AMap Clock
  /-- The operations that have not completed, oldest first. -/
  ops : List MemOp
  /-- The writes that some view has not applied, in issue order. -/
  writes : List WriteRec
  /-- The read-only caches of the galleries. -/
  roCache : AMap (List RoEntry)
  /-- The number of the next operation or write. -/
  nextId : Nat
  deriving DecidableEq, Repr

/-! ### Tiles and their fabric -/

/-- The states of a tile context (R311). -/
inductive CtxState where
  | empty | loading | loaded | active | suspending
  deriving DecidableEq, Repr

/-- An actor binding (R147, R279): its entry as a byte offset into the code area, and its rates. -/
structure Binding where
  entry : Nat
  qRates : List Nat
  oRates : List Nat
  deriving DecidableEq, Repr

/-- What a matching-store entry is: a waiting token, RED's accumulator, with its next index and the index of the token that carried
`CTL.LAST` (R287), or PUSHC's counter (R298). -/
inductive EntryKind where
  | token
  | acc (next : Nat) (last : Option Nat)
  | counter (next : Nat)
  deriving DecidableEq, Repr

/-- A matching-store entry (R249, R262): its token, port, place in arrival order and arrival cycle, whether the token's
payload still holds its edge's credits (R303), the cycle its spill began (R265), and the cycle in which it entered the store
(R252). -/
structure Entry where
  kind : EntryKind
  slot : Nat
  port : Nat
  tok : Token
  seq : Nat
  cycle : Nat
  edge : Option (Nat × Nat)
  spill : Option Nat
  since : Nat := 0
  deriving DecidableEq, Repr

/-- The counters of a GAT slot (R260). -/
structure GatCnt where
  bad : Nat
  drop : Nat
  late : Nat
  left : Nat
  purge0 : Nat
  refill : Nat
  deriving DecidableEq, Repr

/-- A GEN slot's sequence in progress (R297): the trigger and how many tokens it has emitted. -/
structure GenRun where
  trigger : Token
  count : Nat
  deriving DecidableEq, Repr

/-- A JON slot's walk of one colour and tag (R295, R296): whether each stream has ended, the pair and the coordinate
held back until it is known whether they are the last, and the cycle of its last comparison. -/
structure JonRun where
  slot : Nat
  tag : Word
  endA : Bool
  endB : Bool
  held : Option (Token × Token)
  clock : Clock
  cycle : Nat := 0
  deriving DecidableEq, Repr

/-- The outputs of an LDM or STM firing that wait for its request, or for their turn in issue order (R281, R299): the
operation they still wait for, the clocks of the firing's set, and the tokens with their edges. -/
structure OutWait where
  slot : Nat
  colour : Nat
  op : Option Nat
  clock : Clock
  outs : List (Nat × Token)
  deriving DecidableEq, Repr

/-- A member of a complete operand set: its port, its token, whether it still holds a matching-store entry (R262), and the
edge whose credits it holds (R303). -/
structure SetTok where
  port : Nat
  tok : Token
  stored : Bool
  edge : Option (Nat × Nat)
  deriving DecidableEq, Repr

/-- A complete operand set that waits for the arbiter (R24, R249, R262): its slot, its colour, the cycle and the order
in which it became complete, and its rank among the sets of that cycle (R294). -/
structure OpSet where
  slot : Nat
  colour : Nat
  seq : Nat
  cycle : Nat
  toks : List SetTok
  rank : Nat := 0
  deriving DecidableEq, Repr

/-! ### The matrix node -/

/-- An accumulator element (R355): the carry-save sum, the poison bit and the logged address. -/
structure AccElem where
  csp : Csp
  poisoned : Bool
  logged : Option Nat
  deriving DecidableEq, Repr

/-- Who owns a bank (R355): a firing slot's core, or a colour. -/
inductive BankOwner where
  | none
  | core (c : Nat)
  | colour (c : Nat)
  deriving DecidableEq, Repr

/-- A decoded operand element of the node (R358, R359). -/
inductive MxElem where
  | val (neg : Bool) (man : Nat) (exp : Int)
  | inf (neg : Bool)
  | nan
  | poisoned (pa : Nat)
  deriving DecidableEq, Repr

/-- A row of an operand or of a memory drain: its virtual and its physical address, and its key slot (R357, R364). -/
structure MxRow where
  va : Nat
  pa : Nat
  key : Nat
  deriving DecidableEq, Repr

/-- An operation of the node queue (R365), its operands read at issue: a pass carries the rows that it fetches, and the
configuration under which it was issued (R366, R368). -/
inductive MxOp where
  | cfg (word stride : Word)
  | zero
  | mul (aRows bRows : List MxRow) (hold : Bool) (word : Word)
  /-- A drain to memory: its rows. -/
  | drainMem (rows : List MxRow) (form : BitVec 16)
  /-- A drain to a queue: the row, the tag and the tokens sent. -/
  | drainQueue (queue row : Nat) (tag : Word) (sent : Nat) (form : BitVec 16)
  /-- A drain to vector registers. -/
  | drainRegs (d : RegField) (row : Nat) (form : BitVec 16)
  | msk (row col : BitVec 32)
  | mpb (addr : Nat)
  deriving DecidableEq, Repr

/-- A queued node operation: its owner core, its done register, the machine operation of a pass or a drain, and its
instruction's address (R365, R373), and the local writes that stand before it (R51). -/
structure MxQueued where
  core : Nat
  op : MxOp
  done : RegField
  memOp : Option Nat
  pc : Word
  before : Nat
  deriving DecidableEq, Repr

/-- A bank (R355). The accumulator and the element mask list only what differs from the taken value. -/
structure Bank where
  acc : AMap AccElem
  word : Word
  stride : Word
  rowMask : BitVec 32
  colMask : BitVec 32
  elemMask : AMap (BitVec 32)
  policy : Nat
  /-- The held A (R368): its class and its decoded elements, row by row. -/
  held : Option (Nat × List (List MxElem))
  owner : BankOwner
  queue : List MxQueued
  /-- The clocks of the reads that the accumulator depends on (R44, Dependency; R373). -/
  clock : Clock
  /-- The passes left of a free-running chain (R378). -/
  chain : Nat
  /-- The machine operation that fetches the rows of a chain's pass (R373, R378). -/
  chainOp : Option Nat
  /-- The chain's last token, which its drain carries, and the drain tokens sent (R378). -/
  drain : Option (Token × Nat)
  /-- Ownership has ended: the bank is reset when the queue is empty (R356). -/
  leaving : Bool
  /-- The owner's remaining operations have no results: it faulted or was killed (R356). -/
  discard : Bool
  deriving DecidableEq, Repr

/-- A tile's matrix section record (R376). -/
structure SectionRec where
  sec : Nat
  fld : Nat
  outEdge : Nat
  inq : Nat
  stride : Word
  word : Word
  deriving DecidableEq, Repr

/-- One configuration context of a tile (R270 to R279, R311): the loaded image, and the running state that belongs to
the context. -/
structure TileCtx where
  state : CtxState
  /-- Marked suspended (R311). -/
  suspended : Bool
  region : Nat
  ltile : Nat
  slots : AMap (Word × Word)
  edges : AMap Word
  binds : AMap Binding
  luts : AMap Memory
  tagw : List Nat
  codeBase : Nat
  codeSize : Nat
  dsum : Nat
  row0 : Bool
  fuse : Bool
  /-- The context's block of local memory (R125). -/
  blockBase : Nat
  blockSize : Nat
  scr : Nat
  lsize : Nat
  /-- The local address of each colour's persistent-state area (R125). -/
  areas : AMap Nat
  /-- The local address and the record count of each colour's sump area (R125, R266). -/
  sumps : AMap (Nat × Nat)
  store : List Entry
  /-- The sump records of every colour (R264 to R268). -/
  sumped : List Entry
  /-- Input buffers 0 to 254, and 256 + n for queue qn (R272). -/
  buffers : AMap (List Held)
  /-- The sender's credits in use on each of the tile's edges (R303). -/
  spent : AMap Nat
  /-- The output stages: the tokens of each edge that wait for reserved depth, oldest first (R281). -/
  stage : AMap (List Token)
  /-- The completion that goes out, on the edge given, with the token that waits in an edge's output stage (R273). -/
  ords : AMap (Nat × Token)
  /-- The next `FLIT.SEQ` of each edge's link (R242). -/
  flitSeq : AMap Nat
  /-- The reductions, by slot and outer tag, that have lost a token (R289). -/
  spoiled : List (Nat × Word)
  gens : AMap GenRun
  jons : List JonRun
  outs : List OutWait
  /-- The complete operand sets that wait to be issued, and each arbiter's colours in their order, with the opportunities that each
  has used in this round (R24; 24 is the actor core's, 25 the matrix node's). -/
  ready : List OpSet
  turn : AMap (AMap Nat)
  /-- The first cycle in which each operator slot may issue again (R9, R24). -/
  issuedAt : AMap Nat := []
  /-- The suspended firings of the context, by firing slot: what the save record does not hold (R155). -/
  saved : AMap Firing
  /-- The requests of a suspended firing that wait behind a withdrawn WAITV, by firing slot, in issue order; none stands for the next
  withdrawn WAITV record (R224). -/
  parked : AMap (List (Option MemOp)) := []
  /-- The cycle of each colour's last firing and of its last spill's start (R264). -/
  lastFire : AMap Nat
  lastSpill : AMap Nat
  gatcnt : AMap GatCnt
  /-- Edges closed by a CFGED in progress (R310). -/
  closed : List Nat
  /-- The word of the edge that feeds each input queue (R147, R272). -/
  qWords : AMap Word
  bank : Bank
  mxs : Option SectionRec
  /-- The node's remaining pass count, set by ARM (R343, R378). -/
  passes : Nat
  /-- The instants of its region for which the occupant is in cooldown (R422). -/
  cooldown : Nat := 0
  deriving DecidableEq, Repr

/-! ### The sill -/

/-- The walk options (R394). -/
structure WalkCfg where
  pb : Nat
  w32 : Bool
  pln : Bool
  zf : Bool
  asc : Bool
  wgt : Bool
  ty : Nat
  deriving DecidableEq, Repr

/-- A walk: the selection state record's fields (R393), the column's address apart from the weight sum, and the
candidate mask where it is held in engine SRAM. -/
structure Walk where
  src : Nat
  cw : Nat
  area : Nat
  wgtAddr : Nat
  rem : Nat
  part : Nat
  pcnt : Nat
  cnt : Nat
  pfx : Nat
  pos : Nat
  /-- N as written; 0 means 2^32. -/
  num : Nat
  cfg : WalkCfg
  col : Nat
  pln : Nat
  valid : Bool
  tp : Bool
  msk : Bool
  fin : Bool
  oor : Bool
  pois : Bool
  bnd : Bool
  one : Bool
  /-- The candidates: the words of the mask that are not all ones below N, by 64-element group. -/
  cand : AMap Nat
  deriving DecidableEq, Repr

/-- What a channel has been asked to do (R395, R397, R400). -/
inductive QsLong where
  | step (planes : Nat)
  | run
  | mask (mode : Nat) (addr : Nat)
  deriving DecidableEq, Repr

/-- A long operation in progress on a channel (R395), and its machine operation. -/
structure QsJob where
  what : QsLong
  op : Nat
  /-- The reads of the next chunk have been made (R412). -/
  reading : Bool := false
  deriving DecidableEq, Repr

/-- A selection channel (R386). -/
structure Channel where
  owner : Option Nat
  walk : Option Walk
  job : Option QsJob
  /-- Mask blocks of engine SRAM held (R387). -/
  blocks : Nat
  deriving DecidableEq, Repr

/-- A sequence entry (R403). -/
structure SeqEntry where
  valid : Bool
  seq : Nat
  col : Nat
  pos : Nat
  step : Nat
  key : Nat
  replay : Bool
  deriving DecidableEq, Repr

/-- SILLST (R405); entry 16 of the galleries holds the state of the root's own entropy source (R479). -/
structure SillSt where
  spec : Nat
  efc : Nat
  efail : Bool
  eok : Bool
  deriving DecidableEq, Repr

/-! ### Regions -/

/-- A BIND of one port and colour (R340). -/
structure PortBind where
  shape : Vec
  stride : Int
  scope : Scope
  serial : Nat
  deriving DecidableEq, Repr

/-- A colour of a region: its colour-table row (R254), its lease, its louvre and tag pool (R255, R256), its bindings. -/
structure Colour where
  stall : Nat
  xslot : Nat
  xtile : Nat
  nslot : Nat
  ntile : Nat
  cap : Nat
  share : Nat
  quota : Nat
  key : Nat
  tctx : Nat
  tenant : Nat
  /-- COLT.STATE: 0 closed, 1 open, 2 closing, 3 killed. -/
  state : Nat
  lease : Option Nat
  /-- Tokens waiting in the louvre, oldest first, each with its credits still held (R255, R257). -/
  louvre : List Held
  /-- The F0 values drawn and not returned (R256). -/
  drawn : List Nat
  binds : AMap PortBind
  /-- Elements discarded at each output port (R342, window 7). -/
  discards : AMap Nat
  deriving DecidableEq, Repr

/-- A unit of 8 bytes that a stream unit is gathering for one write (R208): the value, a mask of the bits written so far, the
line's descriptor, and whether the walk covers the whole line. -/
structure UnitWrite where
  va : Nat
  pa : Nat
  key : Nat
  value : Nat
  bits : Nat
  desc : Option (Nat × Nat)
  whole : Bool
  deriving DecidableEq, Repr

/-- A stream unit's progress on one port for one instance (R341). -/
structure PortRun where
  port : Nat
  next : Nat
  ended : Bool
  /-- An input port's elements gathered for its next token, or how many elements of its first token an output port has
  written, and the first poisoned line among the gathered. -/
  hand : Nat
  bad : Option Nat
  /-- An output port's tokens that it has yet to write, and the operations of its writes that may be incomplete. -/
  toks : List Token
  writes : List Nat
  /-- The units of 8 bytes that an output port is gathering for one write each (R78, R208). -/
  units : List UnitWrite := []
  deriving DecidableEq, Repr

/-- How an instance ends: its completion's control byte and payload (R158, R259). -/
structure Verdict where
  err : Bool
  payload : Vec
  /-- The cycle and the `TAG.NEST` of the event that gave it (R17). -/
  cycle : Nat := 0
  nest : Nat := 0
  deriving DecidableEq, Repr

/-- An admitted instance (R255 to R261). -/
structure Inst where
  colour : Nat
  f0 : Nat
  tag : Word
  admitted : Nat
  extents : AMap Extent
  binds : AMap PortBind
  ports : List PortRun
  results : Nat
  verdict : Option Verdict
  /-- The place of the exit casement's firing that ended it, in the order of firings (R281). -/
  fired : Option Nat
  /-- Tiles that have not acknowledged the retire sweep; none before the sweep (R258). -/
  sweep : Option (List Nat)
  /-- The tiles that have removed the instance's entries (R258). -/
  swept : List Nat := []
  /-- The clocks that the completion carries: of the tokens that the exit received, and of the stream writes. -/
  clock : Clock
  deriving DecidableEq, Repr

/-- A colour row of an image (R444). -/
structure ColourRow where
  first : Nat
  last : Nat
  quota : Nat
  share : Nat
  cap : Nat
  ntile : Nat
  nslot : Nat
  xtile : Nat
  xslot : Nat
  deriving DecidableEq, Repr

/-- An extent declaration of an image (R445). -/
structure ExtDecl where
  vbase : Nat
  size : Nat
  acc : Nat
  adp : Bool
  dig : Nat
  deriving DecidableEq, Repr

/-- A certificate range (R305). -/
structure CertRange where
  first : Nat
  last : Nat
  lim : Nat
  share : Nat
  cap : Nat
  nosp : Bool
  deriving DecidableEq, Repr

/-- A certificate tile record (R306). -/
structure CertTile where
  dsum : Nat
  minst : Nat
  localBytes : Nat
  scr : Nat
  we : AMap Nat
  deriving DecidableEq, Repr

/-- What a region keeps of its loaded image (R443 to R447, R304). -/
structure RegionImage where
  w : Nat
  h : Nat
  ctx : Nat
  tagw : List Nat
  fuse : Bool
  rows : List ColourRow
  decls : AMap ExtDecl
  /-- The base-model digests, 512 bits each (R443). -/
  digests : List Nat
  /-- Stream ports: logical tile, output?, shape address (R446). -/
  ports : AMap (Nat × Bool × Nat)
  quotaAll : Nat
  ranges : List CertRange
  tiles : AMap CertTile
  lsize : Nat
  deriving DecidableEq, Repr

/-- A region's state (R329). -/
inductive RegionState where
  | unloaded | loaded | active | armed | suspended | parked
  deriving DecidableEq, Repr

/-- A placement swap policy of a region (R431, R432). -/
structure SwapPolicy where
  enabled : Bool
  thr : Nat
  cool : Nat
  ivl : Nat
  clock : Nat
  phase : Nat
  deriving DecidableEq, Repr

/-- A region (R9, R329). -/
structure Region where
  state : RegionState
  gen : Nat
  ctx : Nat
  origin : Nat
  image : RegionImage
  /-- The alias table: the physical tile of each logical tile that has moved (R417, R423). -/
  moved : AMap Nat
  colours : AMap Colour
  insts : List Inst
  /-- The completion queue, oldest first (R344). -/
  queue : List Token
  /-- Admission closed by BARR, or by a pre-emption in progress. -/
  barred : Bool
  preempting : Bool
  /-- The quantum (R349): cycles, 0 for none, and the cycle at which the running one began. -/
  quantum : Nat
  qStart : Nat
  policy : SwapPolicy
  /-- The sender's credits in use on the injection edges, by edge's tile and index (R303, R346). -/
  retired : Nat
  deriving DecidableEq, Repr

/-- A lease (R131, R134, R338). -/
structure Lease where
  num : Nat
  region : Nat
  colour : Nat
  tctx : Nat
  key : Nat
  home : Nat
  extents : AMap Extent
  revoked : Bool
  deriving DecidableEq, Repr

/-! ### The placement engine -/

/-- An entry of a traffic table (R417): the peer's logical tile and its count; only valid entries are listed. -/
structure Traffic where
  peer : Nat
  cnt : Nat
  deriving DecidableEq, Repr

/-- The step a swap is in (R423). -/
inductive SwapStep where
  | waiting
  | boundary
  | transfer
  | transom
  deriving DecidableEq, Repr

/-- A swap in progress (R423, R426): its two physical tiles, and who asked for it. The tokens that the two old sites still
have to forward are the late flights that name it. -/
structure Swap where
  id : Nat
  region : Nat
  lo : Nat
  hi : Nat
  /-- The logical tiles that stood on `lo` and `hi` before the swap. -/
  la : Nat
  lb : Nat
  step : SwapStep
  /-- The cycle of its instant or of SWPX's commit, and the cycle in which step 1 began. -/
  began : Nat
  start : Nat
  gain : Int
  cmd : Option Nat
  /-- The logical tiles whose transom has not closed. -/
  holds : List Nat
  deriving DecidableEq, Repr

/-- A swap-log record (R434). -/
structure SwapLog where
  gain : Nat
  lta : Nat
  ltb : Nat
  pha : Nat
  kind : Nat
  cyc : Nat
  deriving DecidableEq, Repr

/-- A region's swap log: the records, oldest first, and the lost count (R434). -/
structure SwapRing where
  recs : List SwapLog
  lost : Nat
  deriving DecidableEq, Repr

/-! ### Operations in flight -/

/-- The kind of a copy (R227 to R230), with its operands read at issue. -/
inductive CopyKind where
  | copy (src dst : Nat) (srcDev dstDev : Bool)
  | shapes (dst src : Vec)
  | fill (dst : Nat) (pattern : Word) (dstDev : Bool)
  | push (queue src : Nat) (srcDev last : Bool)
  | pop (queue dst : Nat) (dstDev : Bool)
  deriving DecidableEq, Repr

/-- A unit of 8 bytes that a copy has read: its value, its poison, and the line's descriptor where the copy carries it (R226,
R227). -/
structure CopyPart where
  value : Nat
  poison : Bool
  desc : Option (Nat × Nat)
  deriving DecidableEq, Repr

/-- What a copy or a stream unit has still to place in a unit of 8 local bytes (R51): the value, the bytes it covers, those
of them that the firing has not written since, and whether the data is poisoned. -/
structure LocUnit where
  value : Nat
  covers : Nat
  live : Nat
  bad : Bool
  deriving DecidableEq, Repr

/-- A unit of 8 bytes that a stream unit has read: the operand, the address, the value (R208). -/
structure UnitRead where
  operand : Nat
  pa : Nat
  value : Nat
  deriving DecidableEq, Repr

/-- A copy in flight (R225, R226, R231): its operation, the core that issued it, its length in bytes, elements or tokens,
the extent table that its addresses are checked against (R210), the units that a CPYS reads and writes, the units read by
number and the places of the units written, the tokens popped or pushed, and the destination bytes that poisoned data
supplied. -/
structure Copy where
  op : Nat
  core : Nat
  kind : CopyKind
  len : Nat
  extents : AMap Extent
  shapes : List Nat × List Nat
  buf : AMap CopyPart
  done : List Nat
  tokens : Nat
  bad : List FailedRange
  /-- Its local writes, which the firing sees at its completion, and the firing's local writes that it sees in any case
  (R51). -/
  loc : AMap LocUnit
  before : Nat
  deriving DecidableEq, Repr

/-- What an exception says (R157): the code, the detail, the address where there is one, and whether it is a local
address. -/
structure Exc where
  code : Nat
  detail : Nat
  addr : Option Nat
  loc : Bool
  deriving DecidableEq, Repr

/-- A STRM instruction in progress (R208, R209): FN, the function, the records, SRED's destination and running value, the
element reached, its result where it has been computed and not yet written, the token in hand of each source queue, and
the lanes gathered for a wide output queue. -/
structure StreamJob where
  op : Nat
  core : Nat
  fn : Nat
  f : Nat
  rnd : Rnd
  hd : Vec
  ha : Vec
  hb : Vec
  d : RegField
  acc : Option Int
  next : Nat
  stage : Option Nat
  hand : AMap Vec
  out : Vec
  /-- The units read for the element, and the units that it gathers to write (R208). -/
  units : List UnitRead
  writes : List UnitWrite
  /-- As for a copy (R51). -/
  loc : AMap LocUnit
  before : Nat
  /-- The fault that the walk has found, taken once what the earlier elements wrote is placed (R208). -/
  fail : Option Exc
  deriving DecidableEq, Repr

/-- What a waiting command has still to do. -/
inductive CmdKind where
  /-- CFGLD: its image, its origin, and whether the contexts are Loading (R311). -/
  | cfgld (image origin : Nat) (loading : Bool)
  | cfgsw
  | cfged (edge tile depth : Nat)
  | cclose (dropped : Nat)
  | ckill (ended : Nat)
  | lease (row : Word) (slt : Bool)
  | unlease (num : Nat)
  | unbind (port serial : Nat)
  | rearm (sec : Nat) (count : Option Nat) (start : Nat)
  | barr (retired : Nat)
  | await (src : Nat) (anyCol : Bool) (addr : Nat) (d : RegField)
  | inj (tok : Token)
  | lnch (level : Nat) (tok : Token)
  | keyz (slot : Nat)
  | swpx (ltile dir : Nat)
  /-- SAMP (R408): `x[D]`, the request's fields, whether it has a set, and U once the entry has been read. -/
  | samp (d : RegField) (draw ent n : Nat) (hasSet : Bool) (u : Option Nat)
  /-- ACPT (R409). -/
  | acpt (d : RegField) (n out : Nat)
  /-- CMIT (R410), until its commit, with the record's place. -/
  | cmit (draws cnt ent tok addr : Nat) (rec : Nat × Nat)
  /-- SEED mode 2 (R407). -/
  | seed (ent : Nat)
  /-- A gallery slot's SYSC that the root's service has yet to answer (R180, R467). -/
  | sysc (n : Nat) (a b : Word)
  deriving DecidableEq, Repr

/-- A command in progress (R325 to R328): the slot that issued it, its instruction's address, its done register (0: the
slot is held), its region, context and colour, the region's generation at commit, and what it still has to do. -/
structure Cmd where
  id : Nat
  core : Nat
  /-- The gallery whose regions and pool the slot commanded at its issue (R322, R348). -/
  gal : Nat
  pc : Word
  next : Word
  done : RegField
  region : Nat
  ctx : Nat
  colour : Nat
  gen : Nat
  kind : CmdKind
  /-- The units that a CFGLD has read so far: its region image's, then its persistent-state image's (R455). -/
  got : List Word := []
  deriving DecidableEq, Repr

/-- An entry of a pending-launch pool (R348). -/
structure Launch where
  cmd : Nat
  level : Nat
  shared : Bool
  region : Nat
  colour : Nat
  tok : Token
  injected : Bool
  deriving DecidableEq, Repr

/-! ### Tiles, galleries, the root and the host -/

/-- A tile (R1, R121, R315, R417). -/
structure Tile where
  fenced : Bool
  loc : Memory
  /-- The poisoned lines of local memory, a bit for each 8-byte unit (R144). -/
  locPoison : AMap Nat
  ctxs : AMap TileCtx
  traffic : List Traffic
  /-- The outstanding-request window W, the unmarked replies in a row and the replies since the last halving, which
  saturate at 255 (R315). -/
  win : Nat
  unmarked : Nat
  sinceHalf : Nat
  /-- The cycle at which the CORDIC unit is free (R199). -/
  cordFree : Nat
  deriving DecidableEq, Repr

/-- A gallery's sill, launch pool and selection channels (R348, R385, R386). -/
structure Gallery where
  channels : AMap Channel
  entries : AMap SeqEntry
  sillst : SillSt
  pool : List Launch
  /-- The cores that wait for a channel: since which cycle, and at which instruction (R386). -/
  asks : AMap (Nat × Word)
  deriving DecidableEq, Repr

/-- A load request that the loader service is serving (R321, R453, R454): the request, the bytes of the service's own copy so far, and,
once the file has passed, the range that it is loaded to and the operation of its sections' writes. -/
structure Load where
  pa : Nat
  size : Nat
  tctx : Nat
  own : Bool
  got : List Byte
  img : Option Extent
  op : Nat
  deriving DecidableEq, Repr

/-- The root sequencer's registers and services (R127, R145, R146, R317, R319, R470, R471). -/
structure Root where
  tctxb : Nat
  merrb : Nat
  bmdb : Nat
  netMode : Bool
  netThr : Nat
  netWmax : Nat
  netWmin : Nat
  gdrop : Nat
  merrCe : Nat
  merrUe : Nat
  merrOvf : Bool
  merrHead : Nat
  /-- The records of the memory-error ring written and not yet read, for MERRST.OVF. -/
  merrHeld : Nat
  /-- The key slots that are not empty: 512 bits, data key below tweak key (R471). -/
  keys : AMap Nat
  /-- The last timestamp used by each event source (R462). -/
  lastT : AMap Nat
  /-- Abandoned migrations (R136). -/
  abandoned : Nat
  /-- The image-signing keys that a firmware update has revoked, by their place among those installed (R468). -/
  revokedKeys : List Nat
  /-- The identity key pair, modulus and private exponent, once the first power-on has generated it (R468). -/
  identity : Option (Nat × Nat)
  /-- How many resets the part has had: the firmware may have been updated before each (R468). -/
  boots : Nat
  /-- The load request that the loader service is serving (R453, R454). -/
  load : Option Load
  deriving DecidableEq, Repr

/-- A tenant interface (R472). -/
structure Iface where
  cb : Word
  ext : Word
  key : Word
  apb : Word
  drop : Nat
  st : Nat
  nonce : Nat
  deriving DecidableEq, Repr

/-- An event record (R461): its source, kind, sequence number and 128 bits of data. -/
structure EventRec where
  src : Nat
  kind : Nat
  num : Nat
  data : Nat
  deriving DecidableEq, Repr

/-- What the part sends back to the host or on to a peer. -/
inductive Sent where
  /-- A reply token (R342, window 8). -/
  | reply (tag payload : Word)
  /-- The answer to a control read. -/
  | value (port : Nat) (v : Word)
  /-- The response to a control write: normal, or an error. -/
  | ack (port : Nat) (ok : Bool)
  /-- The lines that a memory read returns. -/
  | lines (port : Nat) (bytes : List Byte)
  /-- A token sent to a peer port (R465). -/
  | peer (port region gal : Nat) (tok : Token)
  /-- The answer to a loader request: its status (R453, R454). -/
  | loaded (status : Nat)
  /-- An SPDM answer: the request's code and the answer's bits (R469). -/
  | spdm (code : Nat) (answer : Nat)
  /-- The old value of an atomic that a peer package sent (R59). -/
  | peerValue (port value : Nat)
  /-- The acknowledgement of a write that arrived over a peer port, or over the host port, number 8 (R59). -/
  | written (link : Nat)
  /-- A system-scope write of the part's to the shared pool, on a peer port: its number, which the peer acknowledges, its place, its bytes
  and its clock (R59, R464). -/
  | poolWrite (port id pa size data be : Nat) (clock : Clock)
  /-- A flit resend request on a link (R246). -/
  | resend (link num : Nat)
  deriving DecidableEq, Repr

/-- A decoder of the CXL ports (R122, R123, R466): a physical range, its ports and its granule. -/
structure Hdm where
  base : Nat
  size : Nat
  ports : List Nat
  granule : Nat
  deriving DecidableEq, Repr

/-- The host side: control space, events, links (R457 to R466, R472 to R477, R493). -/
structure HostSide where
  /-- CTLSEM.OWN: the groups held, 1 for port 0 and 2 for port 1. -/
  own : AMap Nat
  /-- The cycle after that of control port 1's last write of CTLSEM; 0 before the first (R460). -/
  semNext : Nat
  violV : Bool
  violPort : Nat
  violCnt : Nat
  violAddr : Nat
  bootStep : Nat
  bootStat : Nat
  plimW : Nat
  plimEst : Nat
  evtb : Nat
  evthead : Nat
  evttail : Nat
  /-- Event records not yet in the ring, in the order they were produced (R461). -/
  events : List EventRec
  /-- Host memory, as far as the part writes it (the event ring). -/
  mem : Memory
  ifaces : AMap Iface
  /-- Peer-route entries (R464). -/
  routes : AMap (BitVec 128)
  /-- Control registers of group 3 as written (R459, R466). -/
  cxl : AMap Word
  hdm : List Hdm
  /-- The peer ports whose packages share the CXL pool (R59). -/
  peers : List Nat
  linkErr : AMap Nat
  /-- Host memory reads that were served without merging their clock (R55). -/
  reads : List ReadMark
  /-- The flit in hand that is being resent, by link, with its resends in a row, and the link's resends in all (R246). -/
  resends : AMap (Nat × Nat)
  retries : AMap Nat
  sent : List Sent
  /-- The operating point of each island (R477). -/
  points : AMap Nat
  /-- The SPDM session (R469): 0 none, 1 keys exchanged, 2 established. -/
  session : Nat
  deriving DecidableEq, Repr

/-- A page migration in progress (R136). -/
structure Migration where
  id : Nat
  pte : Nat
  src : Nat
  dst : Nat
  size : Nat
  tier : Nat
  round : Nat
  began : Nat
  /-- The copy so far, by line: the age of the source's line when it was last copied. -/
  copied : AMap Nat
  deriving DecidableEq, Repr

/-- A page fault that waits for the host's answer (R133, R463). -/
structure PageFault where
  num : Nat
  cmd : Nat
  va : Nat
  tctx : Nat
  /-- none: unanswered; true: mapped; false: declined. -/
  verdict : Option Bool
  deriving DecidableEq, Repr

/-- The lease service: leases, page faults, migrations, frames (R131 to R139). -/
structure LeaseService where
  leases : List Lease
  next : Nat
  faults : List PageFault
  migrations : List Migration
  /-- Committed migrations whose old frame the host has not released: old frame, new frame, size (R138). -/
  redirects : List (Nat × Nat × Nat)
  /-- Frames that wait for their scrub: base and size (R139). -/
  scrub : List (Nat × Nat)
  /-- The free list: base and size. -/
  free : List (Nat × Nat)
  deriving DecidableEq, Repr

/-- A token on its way along an edge (R243, R247): the region and its generation, the edge's source and index. -/
structure Flight where
  region : Nat
  gen : Nat
  src : Nat
  edge : Nat
  tok : Token
  /-- The swap whose old site forwards the token (R426), and whether the token has reached the old site. -/
  late : Option Nat := none
  arrived : Bool := false
  /-- The cycle in which it was sent (R352), and the `FLIT.SEQ` of its first flit (R242). -/
  sent : Nat := 0
  seq : Nat := 0
  /-- Discarded by its receiver after a CRC mismatch: the sender has to resend it (R246). -/
  discarded : Bool := false
  deriving DecidableEq, Repr

/-- What happens next, where the spec leaves it open: an engine issues, an event comes, time passes, or units that work beside a
firing stop or begin to see its latest local writes (R51). -/
inductive Choice where
  | engine (core : Nat)
  | event (i : Instr)
  | tick (n : Nat)
  | unseen (n : Nat)
  deriving DecidableEq, Repr

/-! ### The whole part -/

/-- The state of the part. -/
structure State where
  /-- The package timestamp: cycles at 1.1 GHz since reset (R462). -/
  cycle : Nat
  /-- The engine whose instruction executes: gallery g's slot s is 8g + s, root slot s is 128 + s, firing slot j of
  tile t is 256 + 4t + j. -/
  cur : Nat
  /-- What happens next; when it is empty, `cur` issues (log entry 1). -/
  sched : List Choice
  /-- How many of a firing's latest local writes its copies, its stream unit and its matrix node do not see, of those that no `after`
  puts before them (R51; the model's own, log entry 68). -/
  unseen : Nat
  /-- The count of free values read (the model's own; log entry 2). -/
  freeCount : Nat
  cores : AMap Core
  z : Zalulo
  tiles : AMap Tile
  gals : AMap Gallery
  regions : AMap Region
  ls : LeaseService
  cmds : List Cmd
  /-- Tokens on their way, in the order they were sent. -/
  flights : List Flight
  /-- The operator slots (tile, context, slot) that took an entry which can pair from the next cycle on (R252). -/
  fresh : List (Nat × Nat × Nat)
  /-- The tokens that have reached the tile that sent them and have yet to meet their ports (region, source tile, edge, colour), and the
  cycle whose arrivals they are (R252, R352). -/
  due : List (Nat × Nat × Nat × Nat)
  dueAt : Nat
  /-- The firing slot that issued last on each tile's actor core (R149). -/
  lastIssue : AMap Nat
  copies : List Copy
  streams : List StreamJob
  swaps : List Swap
  rings : AMap SwapRing
  root : Root
  host : HostSide
  /-- The number of the next arrival, command, swap or migration. -/
  serial : Nat
  deriving DecidableEq, Repr

/-! ### Reset -/

/-- The extent record that maps nothing (R321: the extent table is empty). -/
def Extent.none : Extent :=
  { vbase := 0, size := 0, pbase := 0, key := 0, rd := false, wr := false, stb := false, tier := 0, adp := false,
    lease := 0, valid := false }

/-- No firing. -/
def Firing.none : Firing :=
  { region := 0, ctx := 0, colour := 0, bnd := 0, tag := 0, started := 0, fcycBase := 0, fflags := 0,
    pops := List.replicate 8 0, pushes := List.replicate 8 0, failed := [], wrote := [], scratch := 0,
    trace := {} }

/-- A slot's trap registers at reset (R185); TVEC's reset is X, and zero is the model's choice. DESIGN CHOICE: log entry
4. -/
def TrapRegs.reset : TrapRegs :=
  { tvec := 0, tvecSet := false, tepc := 0, act := false, code := 0, tval := 0, tgal := 0 }

/-- An empty slot (R150, R320, R321): LDEPTH.D resets to 1 (R323). The registers of an empty slot are zero by the
model's choice (log entry 4); a load or a firing's start writes them all. -/
def Core.reset : Core :=
  { run := .empty, pc := 0, x := Vector.replicate 64 0, v := Vector.replicate 32 0, m := Vector.replicate 16 0,
    h := Vector.replicate 8 0, pendX := 0, pendT := 0, pendV := 0, pendM := 0, pendH := 0, firing := Firing.none,
    trap := TrapRegs.reset, ldepth := 1, inbox := [], data := [], dataPoison := [], extents := [], codeBase := 0, codeSize := 0,
    codeExtent := Extent.none, image := Option.none, arcs := [] }

/-- A view at reset (R40): every byte its initial value, with the null stamp. -/
def View.reset : View := { mem := [], stamps := [], poison := [], tags := [] }

/-- The Zalulo machine at reset (R40, R41). -/
def Zalulo.reset : Zalulo :=
  { views := [], counters := [], clocks := [], doneClocks := [], ops := [], writes := [], roCache := [], nextId := 0 }

/-- A zero accumulator element (R355). -/
def AccElem.zero : AccElem := { csp := cspZero 0, poisoned := false, logged := Option.none }

/-- A bank with every item at its taken value and no owner (R355, R356). -/
def Bank.taken : Bank :=
  { acc := [], word := 0, stride := 0, rowMask := BitVec.allOnes 32, colMask := BitVec.allOnes 32, elemMask := [],
    policy := 0, held := Option.none, owner := .none, queue := [], clock := [], chain := 0, chainOp := Option.none, drain := Option.none,
    leaving := false, discard := false }

/-- An Empty context (R311). -/
def TileCtx.empty : TileCtx :=
  { state := .empty, suspended := false, region := 0, ltile := 0, slots := [], edges := [], binds := [], luts := [],
    tagw := [], codeBase := 0, codeSize := 0, dsum := 0, row0 := false, fuse := false, blockBase := 0, blockSize := 0,
    scr := 0, lsize := 0, areas := [], sumps := [], store := [], sumped := [], buffers := [], spent := [], stage := [], ords := [], flitSeq := [],
    spoiled := [], gens := [],
    jons := [], outs := [], ready := [], turn := [], saved := [], lastFire := [], lastSpill := [], gatcnt := [], closed := [], qWords := [], bank := Bank.taken,
    mxs := Option.none, passes := 0 }

/-- A tile at reset: its window starts at NETCTL.WMAX's reset value (R315, R317; log entry 4). -/
def Tile.reset : Tile :=
  { fenced := false, loc := [], locPoison := [], ctxs := [], traffic := [], win := 64, unmarked := 0, sinceHalf := 255,
    cordFree := 0 }

/-- A free channel (R386). -/
def Channel.free : Channel := { owner := Option.none, walk := Option.none, job := Option.none, blocks := 0 }

/-- A zeroised sequence entry (R403). -/
def SeqEntry.zero : SeqEntry := { valid := false, seq := 0, col := 0, pos := 0, step := 0, key := 0, replay := false }

/-- A gallery at reset (R403, R405). -/
def Gallery.reset : Gallery :=
  { channels := [], entries := [], sillst := { spec := 0, efc := 0, efail := false, eok := false }, pool := [], asks := [] }

/-- A closed colour (R254). -/
def Colour.closed : Colour :=
  { stall := 0, xslot := 0, xtile := 0, nslot := 0, ntile := 0, cap := 0, share := 0, quota := 0, key := 0, tctx := 0,
    tenant := 0, state := 0, lease := Option.none, louvre := [], drawn := [], binds := [], discards := [] }

/-- No image. -/
def RegionImage.none : RegionImage :=
  { w := 0, h := 0, ctx := 0, tagw := [], fuse := false, rows := [], decls := [], digests := [], ports := [],
    quotaAll := 0, ranges := [], tiles := [], lsize := 0 }

/-- The policy after CFGLD (R431). -/
def SwapPolicy.reset : SwapPolicy := { enabled := false, thr := 64, cool := 4, ivl := 16, clock := 0, phase := 0 }

/-- An Unloaded region (R329). -/
def Region.unloaded : Region :=
  { state := .unloaded, gen := 0, ctx := 0, origin := 0, image := RegionImage.none, moved := [], colours := [],
    insts := [], queue := [], barred := false, preempting := false, quantum := 0, qStart := 0,
    policy := SwapPolicy.reset, retired := 0 }

/-- The root's registers at reset: NETCTL as R317 gives; TCTXB, MERRB and BMDB reset to X, and zero is the model's
choice (log entry 4). -/
def Root.reset : Root :=
  { tctxb := 0, merrb := 0, bmdb := 0, netMode := true, netThr := 48, netWmax := 64, netWmin := 4, gdrop := 0,
    merrCe := 0, merrUe := 0, merrOvf := false, merrHead := 0, merrHeld := 0, keys := [], lastT := [], abandoned := 0,
    revokedKeys := [], identity := Option.none, boots := 0, load := Option.none }

/-- An interface at reset (R472). -/
def Iface.reset : Iface := { cb := 0, ext := 0, key := 0, apb := 0, drop := 0, st := 0, nonce := 0 }

/-- The host side at reset (R460, R476, R477, R493). -/
def HostSide.reset : HostSide :=
  { own := [], semNext := 0, violV := false, violPort := 0, violCnt := 0, violAddr := 0, bootStep := 0, bootStat := 0,
    plimW := 8000, plimEst := 0, evtb := 0, evthead := 0, evttail := 0, events := [], mem := [], ifaces := [],
    routes := [], cxl := [], hdm := [], peers := [], linkErr := [], reads := [], resends := [], retries := [], sent := [],
    points := [], session := 0 }

/-- The lease service at reset. -/
def LeaseService.reset : LeaseService :=
  { leases := [], next := 1, faults := [], migrations := [], redirects := [], scrub := [], free := [] }

/-- The part right after reset: every engine slot empty, every region Unloaded, every context Empty, no line written.
Nothing is unlisted but at its own reset value, which the accessors read. -/
def State.reset : State :=
  { cycle := 0, cur := 0, sched := [], unseen := 0, freeCount := 0, cores := [], z := Zalulo.reset, tiles := [], gals := [],
    regions := [], ls := LeaseService.reset, cmds := [], flights := [], fresh := [], due := [], dueAt := 0, lastIssue := [], copies := [],
    streams := [], swaps := [], rings := [], root := Root.reset, host := HostSide.reset, serial := 0 }

/-- Why the machine stops. -/
inductive Fault where
  /-- Raised by MEMORY_WRITE, MEMORY_READ and PEER_MEMORY_REQUEST for a physical address that R122 reserves or that no
  decoder maps: the spec says that no memory is there. Safe. -/
  | noMemory (pa : Nat)
  deriving DecidableEq, Repr

/-- Why the model has no meaning to give. -/
inductive Refusal where
  /-- Raised by the dispatch for an instruction without a meaning. Safe. -/
  | notModelled (mnemonic : String)
  deriving DecidableEq, Repr

/-- The outcome of a step of the part. -/
abbrev Out := Host.Outcome State Fault Refusal

end Sys2Proof.Machine
end

