-- ==== Sys2Proof/Machine/Ops.lean ====
section
/-! DEFINITION. The named operations over the state: engines and domains, registers, extents and clocks' owners, edges
and queues, events to the host, completions, and taking an exception (an actor's fault, a sequencer's trap) with the
return from one. -/

namespace Sys2Proof.Machine

/-! ### Engines, tiles and domains -/

/-- The three kinds of programmable engine (R21). -/
inductive Engine where
  | actor | gallery | root
  deriving DecidableEq, Repr

/-- The engine that a core number names (see `State.cur`). -/
def engineOf (p : Nat) : Engine := if p < 128 then .gallery else if p < 256 then .root else .actor

/-- Is the core an actor's firing slot? -/
def isActor (p : Nat) : Bool := engineOf p == .actor

/-- The physical tile of an actor's firing slot. -/
def tileOf (p : Nat) : Nat := (p - 256) / 4

/-- The firing slot on its tile, or the program slot on its sequencer. -/
def slotOf (p : Nat) : Nat := if p < 128 then p % 8 else if p < 256 then p - 128 else (p - 256) % 4

/-- The gallery that holds a tile (R1). -/
def galleryOfTile (t : Nat) : Nat := t / 256 * 4 + t % 32 / 8

/-- Does the tile lie in row 0 of its gallery? -/
def inRow0 (t : Nat) : Bool := t / 32 % 8 == 0

/-- A copy engine's party: an actor core's by its tile, a sequencer's by the sequencer (R225). -/
def copyParty (p : Nat) : Nat := if p < 128 then 6100 + p / 8 else if p < 256 then 6116 else 5000 + tileOf p
/-- A tile's matrix fetch unit's party. -/
def fetchParty (t : Nat) : Nat := 7000 + t
/-- The party of a unit of a sill (R39): 0 is the sampler, 1 the acceptance unit, 2 the commit unit, and 3 the generator's side of
SEED. -/
def sillParty (g u : Nat) : Nat := 8100 + 16 * u + g
/-- The lease service's party. -/
def leaseParty : Nat := 8200
/-- The host port's party. -/
def hostParty : Nat := 8300
/-- A peer port's party. -/
def peerParty (p : Nat) : Nat := 8310 + p
/-- A selection channel's party (R402). -/
def chanParty (g c : Nat) : Nat := 8500 + 8 * g + c
/-- A tile's stream-port unit's party. -/
def portParty (t : Nat) : Nat := 9000 + t
/-- An operator slot context's party. -/
def slotParty (t c k : Nat) : Nat := 20000 + 96 * t + 24 * c + k

/-- The party that the requests of a firing or a program pass to when it leaves its slot, whose next occupant is another
party (R39, R41): `k` sets it apart. -/
def ghostParty (p k : Nat) : Nat := p % 2 ^ 32 + 2 ^ 32 * (k + 8)
/-- The party that a suspended firing of context `c` is while it waits (R41, R155). -/
def parkedParty (p c : Nat) : Nat := p % 2 ^ 32 + 2 ^ 32 * (c + 1)

/-- The domain of a party that stands for itself (R39). -/
def domainIn (p : Nat) : Nat :=
  if p < 128 then p / 8
  else if p < 256 then 16
  else if p < 5000 then galleryOfTile (tileOf p)
  else if p < 6100 then galleryOfTile (p - 5000)
  else if p < 7000 then p - 6100
  else if p < 8100 then galleryOfTile (p - 7000)
  else if p < 8200 then (p - 8100) % 16
  else if p < 8310 then 16
  else if p < 8400 then 16 + (p - 8310) / 2
  else if p < 9000 then (p - 8500) / 8
  else if p < 20000 then galleryOfTile (p - 9000)
  else galleryOfTile ((p - 20000) / 96)

/-- The domain of a party (R39). -/
def domainOf (p : Nat) : Nat := domainIn (p % 2 ^ 32)

/-! ### Reading and writing the parts -/

/-- A core. -/
def State.core (s : State) (p : Nat) : Core := AMap.get Core.reset s.cores p
/-- Write a core. -/
def State.setCore (s : State) (p : Nat) (c : Core) : State := { s with cores := AMap.put s.cores p c }
/-- Change a core. -/
def State.modCore (s : State) (p : Nat) (f : Core → Core) : State := s.setCore p (f (s.core p))
/-- The core that issues. -/
def State.me (s : State) : Core := s.core s.cur
/-- A tile. -/
def State.tile (s : State) (t : Nat) : Tile := AMap.get Tile.reset s.tiles t
/-- Write a tile. -/
def State.setTile (s : State) (t : Nat) (x : Tile) : State := { s with tiles := AMap.put s.tiles t x }
/-- Change a tile. -/
def State.modTile (s : State) (t : Nat) (f : Tile → Tile) : State := s.setTile t (f (s.tile t))
/-- A tile's context. -/
def State.tctx (s : State) (t c : Nat) : TileCtx := AMap.get TileCtx.empty (s.tile t).ctxs c
/-- Write a tile's context. -/
def State.setCtx (s : State) (t c : Nat) (x : TileCtx) : State :=
  s.modTile t (fun tl => { tl with ctxs := AMap.put tl.ctxs c x })
/-- Change a tile's context. -/
def State.modCtx (s : State) (t c : Nat) (f : TileCtx → TileCtx) : State := s.setCtx t c (f (s.tctx t c))
/-- A gallery. -/
def State.gal (s : State) (g : Nat) : Gallery := AMap.get Gallery.reset s.gals g
/-- Change a gallery. -/
def State.modGal (s : State) (g : Nat) (f : Gallery → Gallery) : State :=
  { s with gals := AMap.put s.gals g (f (s.gal g)) }
/-- A region. -/
def State.region (s : State) (r : Nat) : Region := AMap.get Region.unloaded s.regions r
/-- Change a region. -/
def State.modRegion (s : State) (r : Nat) (f : Region → Region) : State :=
  { s with regions := AMap.put s.regions r (f (s.region r)) }
/-- A colour of a region. -/
def Region.colour (r : Region) (c : Nat) : Colour := AMap.get Colour.closed r.colours c
/-- Change a colour of a region. -/
def State.modColour (s : State) (r c : Nat) (f : Colour → Colour) : State :=
  s.modRegion r (fun g => { g with colours := AMap.put g.colours c (f (g.colour c)) })
/-- Time passes. DESIGN CHOICE: log entry 61. -/
def State.tick (s : State) (n : Nat) : State := { s with cycle := s.cycle + n }
/-- The same state in another cycle. -/
def State.atCycle (s : State) (n : Nat) : State := { s with cycle := n }
/-- The next serial number. -/
def State.bump (s : State) : State := { s with serial := s.serial + 1 }
/-- A free value, and the state that has read it. DESIGN CHOICE: log entry 2. -/
def State.freeWord (s : State) : Word × State := (Config.freeWord s.freeCount, { s with freeCount := s.freeCount + 1 })
/-- A free 512-bit value, and the state that has read it (log entry 2). -/
def State.freeVec (s : State) : Vec × State := (Config.freeVec s.freeCount, { s with freeCount := s.freeCount + 1 })

/-- The number of tiles of a region (R443, NT). -/
def Region.tileCount (r : Region) : Nat := r.image.w * r.image.h

/-- Where CFGLD places a logical tile: row by row from the origin (R330). -/
def Region.homeSite (r : Region) (l : Nat) : Nat := (r.origin / 32 + l / r.image.w) * 32 + (r.origin % 32 + l % r.image.w)

/-- The physical tile of a logical tile, through the alias table (R243, R423). -/
def Region.phys (r : Region) (l : Nat) : Nat := AMap.get (r.homeSite l) r.moved l

/-- The home gallery of a region: the one that holds its origin (R322). -/
def Region.home (r : Region) : Nat := galleryOfTile r.origin

/-- The physical tiles of a region, by logical tile. -/
def Region.sites (r : Region) : List Nat := (upTo r.tileCount).map r.phys

/-! ### Tags and control bytes (R14, R241) -/

/-- TAG.COLOUR. -/
def tagColour (t : Word) : Nat := bitsAt t.toNat 63 54
/-- TAG.CTX. -/
def tagCtx (t : Word) : Nat := bitsAt t.toNat 53 52
/-- TAG.NEST. -/
def tagNest (t : Word) : Nat := bitsAt t.toNat 51 0
/-- A tag from its colour, context and nest. -/
def mkTag (colour ctx nest : Nat) : Word :=
  BitVec.ofNat 64 ((colour % 1024) * 2 ^ 54 + (ctx % 4) * 2 ^ 52 + nest % 2 ^ 52)
/-- The lowest bit of nesting field k of a layout (R15). -/
def fieldLo (tagw : List Nat) (k : Nat) : Nat := 52 - (tagw.take (k + 1)).sum
/-- The width of nesting field k. -/
def fieldW (tagw : List Nat) (k : Nat) : Nat := tagw.getD k 0
/-- The value of nesting field k of a tag. -/
def fieldOf (tagw : List Nat) (k : Nat) (t : Word) : Nat := (t.toNat >>> fieldLo tagw k) % 2 ^ fieldW tagw k
/-- The tag with field k replaced, the others kept. -/
def setField (tagw : List Nat) (k v : Nat) (t : Word) : Word :=
  let lo := fieldLo tagw k
  let w := fieldW tagw k
  BitVec.ofNat 64 (t.toNat - fieldOf tagw k t * 2 ^ lo + v % 2 ^ w * 2 ^ lo)
/-- The tag with every bit below field k's lowest bit cleared. -/
def clearBelow (tagw : List Nat) (k : Nat) (t : Word) : Word :=
  BitVec.ofNat 64 (t.toNat >>> fieldLo tagw k <<< fieldLo tagw k)
/-- The tag with field k and every deeper field cleared. -/
def clearFrom (tagw : List Nat) (k : Nat) (t : Word) : Word :=
  let lo := fieldLo tagw k + fieldW tagw k
  BitVec.ofNat 64 (t.toNat >>> lo <<< lo)
/-- F0, the instance field. -/
def f0Of (tagw : List Nat) (t : Word) : Nat := fieldOf tagw 0 t
/-- The instance's tag: the tag with every field below F0 cleared (R158). -/
def instTag (tagw : List Nat) (t : Word) : Word := clearBelow tagw 0 t

/-- CTL.ERR. -/
def ctlErr (c : Byte) : Bool := c.getLsbD 7
/-- CTL.PA. -/
def ctlPa (c : Byte) : Bool := c.getLsbD 6
/-- CTL.KIND. -/
def ctlKind (c : Byte) : Nat := bitsAt c.toNat 5 4
/-- CTL.LAST. -/
def ctlLast (c : Byte) : Bool := c.getLsbD 3
/-- CTL.POISON. -/
def ctlPoison (c : Byte) : Bool := c.getLsbD 2
/-- CTL.MACT. -/
def ctlMact (c : Byte) : Nat := c.toNat % 4
/-- A control byte from its fields. -/
def mkCtl (err pa : Bool) (kind : Nat) (last poison : Bool) (mact : Nat) : Byte :=
  BitVec.ofNat 8 (err.toNat * 128 + pa.toNat * 64 + kind % 4 * 16 + last.toNat * 8 + poison.toNat * 4 + mact % 4)
/-- A token's narrow payload. -/
def Token.word (t : Token) : Word := BitVec.ofNat 64 t.payload.toNat
/-- A token's weight in narrow-entry equivalents (R275, R303). -/
def Token.weight (t : Token) : Nat := if t.wide then 5 else 1
/-- A narrow token. -/
def narrow (tag : Word) (ctl : Byte) (w : Word) (clock : Clock) : Token :=
  { tag := tag, ctl := ctl, wide := false, payload := BitVec.ofNat 512 w.toNat, clock := clock }

/-! ### Edge words (R275) -/

/-- EDGE.NN. -/
def edgeNN (w : Word) : Bool := w.getLsbD 31
/-- EDGE.PRED. -/
def edgePred (w : Word) : Bool := w.getLsbD 30
/-- EDGE.WIDE. -/
def edgeWide (w : Word) : Bool := w.getLsbD 29
/-- EDGE.DEPTH. -/
def edgeDepth (w : Word) : Nat := bitsAt w.toNat 28 17
/-- EDGE.DSTP. -/
def edgeDstP (w : Word) : Nat := bitsAt w.toNat 16 15
/-- EDGE.DSTS. -/
def edgeDstS (w : Word) : Nat := bitsAt w.toNat 14 10
/-- EDGE.DSTT. -/
def edgeDstT (w : Word) : Nat := bitsAt w.toNat 9 0
/-- The word of edge e of a context; an unlisted edge is unused. -/
def TileCtx.edge (c : TileCtx) (e : Nat) : Word := AMap.get 0 c.edges e

/-! ### Clocks (R41, R47, R55) -/

/-- Entry d of a clock. -/
def clockAt (c : Clock) (d : Nat) : Nat := c.getD d 0
/-- The merge of two clocks: the greater of each entry. -/
def clockMerge (a b : Clock) : Clock := (upTo 20).map (fun d => max (clockAt a d) (clockAt b d))
/-- The clock with entry d set. -/
def clockSet (c : Clock) (d v : Nat) : Clock := (upTo 20).map (fun i => if i = d then v else clockAt c i)
/-- Is the first clock at or below the second in every entry? -/
def clockLe (a b : Clock) : Bool := (upTo 20).all (fun d => clockAt a d ≤ clockAt b d)
/-- The sum of a clock's entries. -/
def clockSum (c : Clock) : Nat := c.sum
/-- A party's clock. -/
def State.clock (s : State) (p : Nat) : Clock := AMap.get [] s.z.clocks p
/-- The merged clocks of a party's completed requests. -/
def State.doneClock (s : State) (p : Nat) : Clock := AMap.get [] s.z.doneClocks p
/-- Merge a clock into a party's. -/
def State.mergeClock (s : State) (p : Nat) (c : Clock) : State :=
  { s with z := { s.z with clocks := AMap.put s.z.clocks p (clockMerge (s.clock p) c) } }
/-- Merge a clock into those of a party's completed requests. -/
def State.mergeDone (s : State) (p : Nat) (c : Clock) : State :=
  { s with z := { s.z with doneClocks := AMap.put s.z.doneClocks p (clockMerge (s.doneClock p) c) } }
/-- A party's clock starts at zero (R41). -/
def State.zeroClock (s : State) (p : Nat) : State :=
  { s with z := { s.z with clocks := AMap.put s.z.clocks p [], doneClocks := AMap.put s.z.doneClocks p [] } }

/-! ### Registers -/

/-- Read an x register: x0 reads as zero (R92). -/
def Core.rx (c : Core) (r : RegField) : Word := if r = 0 then 0 else c.x[r.toNat]'(r.isLt)
/-- Write an x register: a write to x0 is discarded (R92). -/
def Core.wx (c : Core) (r : RegField) (v : Word) : Core :=
  if r = 0 then c else { c with x := c.x.set r.toNat v r.isLt }
/-- The vector register that a field names (R91). -/
def vreg (r : RegField) : BitVec 5 := r.extractLsb' 0 5
/-- The mask register that a field names (R91). -/
def mreg (r : RegField) : BitVec 4 := r.extractLsb' 0 4
/-- The shape register that a field names (R91). -/
def hreg (r : RegField) : BitVec 3 := r.extractLsb' 0 3
/-- Read a v register. -/
def Core.rv (c : Core) (r : BitVec 5) : Vec := c.v[r.toNat]'(r.isLt)
/-- Write a v register. -/
def Core.wv (c : Core) (r : BitVec 5) (v : Vec) : Core := { c with v := c.v.set r.toNat v r.isLt }
/-- Read an m register: m0 reads as all ones (R92). -/
def Core.rm (c : Core) (r : BitVec 4) : Word := if r = 0 then BitVec.allOnes 64 else c.m[r.toNat]'(r.isLt)
/-- Write an m register: a write to m0 is discarded (R92). -/
def Core.wm (c : Core) (r : BitVec 4) (v : Word) : Core :=
  if r = 0 then c else { c with m := c.m.set r.toNat v r.isLt }
/-- Read an h register. -/
def Core.rh (c : Core) (r : BitVec 3) : Vec := c.h[r.toNat]'(r.isLt)
/-- Write an h register. -/
def Core.wh (c : Core) (r : BitVec 3) (v : Vec) : Core := { c with h := c.h.set r.toNat v r.isLt }
/-- Is an x register pending (R96)? x0 never is. -/
def Core.pendingX (c : Core) (r : RegField) : Bool := r != 0 && c.pendX.getLsbD r.toNat
/-- Mark an x register pending; x0 is left alone. -/
def Core.markX (c : Core) (r : RegField) : Core :=
  if r = 0 then c else { c with pendX := c.pendX ||| (1 : Word) <<< r.toNat }
/-- Mark a done register pending (R96); T = 0 asks for nothing. -/
def Core.markT (c : Core) (r : RegField) : Core :=
  if r = 0 then c else { c.markX r with pendT := c.pendT ||| (1 : Word) <<< r.toNat, arcs := AMap.erase c.arcs r.toNat }
/-- End an x register's pending mark. -/
def Core.clearX (c : Core) (r : RegField) : Core :=
  { c with pendX := c.pendX &&& ~~~((1 : Word) <<< r.toNat), pendT := c.pendT &&& ~~~((1 : Word) <<< r.toNat) }
/-- Mark a v register as awaiting a result. -/
def Core.markV (c : Core) (r : BitVec 5) : Core := { c with pendV := c.pendV ||| (1 : BitVec 32) <<< r.toNat }
/-- End a v register's mark. -/
def Core.clearV (c : Core) (r : BitVec 5) : Core := { c with pendV := c.pendV &&& ~~~((1 : BitVec 32) <<< r.toNat) }
/-- No register awaits anything (R99). -/
def Core.quiet (c : Core) : Bool := c.pendX == 0 && c.pendV == 0 && c.pendM == 0 && c.pendH == 0

/-- A completion value (R97). -/
def completion (status result : Nat) : Word := BitVec.ofNat 64 (result % 2 ^ 48 * 2 ^ 16 + status % 256 * 2 ^ 8 + 1)

/-- The length of an instruction in bytes (R85). -/
def formBytes : Form → Nat
  | .w32 => 4
  | .w64 => 8
  | .w96 => 12

/-- The address of the next instruction. -/
def Core.nextPc (c : Core) (f : Form) : Word := c.pc + BitVec.ofNat 64 (formBytes f)

/-- The instruction has issued: the pc advances and the cycle passes. -/
def State.retire (s : State) (f : Form) : State :=
  (s.modCore s.cur (fun c => { c with pc := c.nextPc f })).tick 1

/-- The instruction waits: nothing changes but the time (R149). -/
def State.stall (s : State) : Out := .next (s.tick 1)

/-- Write an x register of the issuing core. -/
def State.writeX (s : State) (r : RegField) (v : Word) : State := s.modCore s.cur (fun c => c.wx r v)

/-! ### Events to the host (R461, R462) -/

/-- The timestamp that a source gives its next event or record: this cycle, or the one after its last (R462). -/
def State.stampFor (s : State) (src : Nat) : Nat :=
  match AMap.find s.root.lastT src with
  | none => s.cycle
  | some t => max s.cycle (t + 1)

/-- A source takes its next sequence number, T * 64 + s (R462). -/
def State.takeSeq (s : State) (src : Nat) : Nat × State :=
  let t := s.stampFor src
  (t * 64 + src, { s with root := { s.root with lastT := AMap.put s.root.lastT src t } })

/-- Produce an event (R461): it waits to be written to the ring. -/
def State.postEvent (s : State) (src kind data : Nat) : State :=
  let (q, s1) := s.takeSeq src
  { s1 with host := { s1.host with events := s1.host.events ++ [{ src := src, kind := kind, num := q, data := data }] } }

/-- The part sends something to the host or to a peer. DESIGN CHOICE: log entry 28. -/
def State.send (s : State) (m : Sent) : State := { s with host := { s.host with sent := s.host.sent ++ [m] } }

/-! ### Traffic (R417) -/

/-- May a traffic entry stand before another in rank: higher count, then lower logical tile. -/
def rankBefore (a b : Traffic) : Bool := b.cnt < a.cnt || (a.cnt == b.cnt && a.peer < b.peer)

/-- Insert an entry in rank order. -/
def rankInsert (e : Traffic) : List Traffic → List Traffic
  | [] => [e]
  | x :: xs => if rankBefore e x then e :: x :: xs else x :: rankInsert e xs

/-- The table in rank order. -/
def rankSort : List Traffic → List Traffic
  | [] => []
  | x :: xs => rankInsert x (rankSort xs)

/-- Count flits to or from a peer (R417): a listed peer, a free entry, or the lowest-ranked entry if its count is at
most 1; otherwise the flit is not counted. -/
def countFlit (tab : List Traffic) (peer : Nat) : List Traffic :=
  if tab.any (fun e => e.peer == peer) then
    rankSort (tab.map (fun e => if e.peer == peer then { e with cnt := min (e.cnt + 1) 0xFFFF } else e))
  else if tab.length < 8 then rankSort ({ peer := peer, cnt := 1 } :: tab)
  else
    match (rankSort tab).getLast? with
    | some l => if l.cnt ≤ 1 then rankSort ({ peer := peer, cnt := 1 } :: tab.filter (fun e => e.peer != l.peer)) else tab
    | none => tab

/-- Count `n` flits between a physical tile and a logical peer, while the region is Armed and its placement enabled
(R418). -/
def State.countTraffic (s : State) (region tile self peer n : Nat) : State :=
  let r := s.region region
  if r.state == .armed && r.policy.enabled && self != peer then
    s.modTile tile (fun t => { t with traffic := foldUp (fun _ tab => countFlit tab peer) n t.traffic })
  else s

/-- The flits of a token (R417). -/
def Token.flits (t : Token) : Nat := if t.wide then 5 else 1

/-! ### Edges and credits (R303) -/

/-- Has an edge of a context the credits for a token, and is it open (R303, R310)? -/
def TileCtx.canSend (c : TileCtx) (e weight : Nat) : Bool :=
  !(c.closed.contains e) && AMap.get 0 c.spent e + weight ≤ edgeDepth (c.edge e)

/-- Send a token on edge e of a tile's context: the credits are taken and the token is on its way. -/
def State.sendOn (s : State) (tile ctx e : Nat) (tok : Token) : State :=
  let c := s.tctx tile ctx
  let n := AMap.get 0 c.flitSeq e
  let s1 := s.modCtx tile ctx (fun c => { c with
    spent := AMap.modify 0 c.spent e (· + tok.weight)
    flitSeq := AMap.put c.flitSeq e ((n + tok.flits) % 64) })
  let s2 := s1.countTraffic c.region tile c.ltile (edgeDstT (c.edge e)) tok.flits
  { s2 with flights := s2.flights ++
      [{ region := c.region, gen := (s.region c.region).gen, src := c.ltile, edge := e, tok := tok, sent := s.cycle, seq := n }] }

/-- The form that an edge carries: a predicate edge carries one bit (R240, R285). DEDUCED: log entry 14. -/
def edgeForm (w : Word) (t : Token) : Token :=
  if edgePred w then
    { t with
      ctl := mkCtl (ctlErr t.ctl) false 1 (ctlLast t.ctl) (ctlPoison t.ctl) (ctlMact t.ctl)
      wide := false
      payload := if ctlPoison t.ctl then 0 else t.payload &&& 1 }
  else t

/-- Send a token on an edge, or leave it in the output stage until there is room (R26, R281). -/
def State.emitOn (s : State) (t ctx e : Nat) (tok : Token) : State :=
  let c := s.tctx t ctx
  let k := edgeForm (c.edge e) tok
  if (AMap.get [] c.stage e).isEmpty && c.canSend e k.weight then s.sendOn t ctx e k
  else s.modCtx t ctx (fun c => { c with stage := AMap.modify [] c.stage e (fun l => l ++ [k]) })

/-- The completion that waits for the last token of an edge's output stage goes out with it (R273). -/
def State.emitOrd (s : State) (t ctx e : Nat) : State :=
  match AMap.find (s.tctx t ctx).ords e with
  | none => s
  | some (d, tok) => (s.modCtx t ctx (fun c => { c with ords := AMap.erase c.ords e })).emitOn t ctx d tok

/-- The tokens of an edge that wait in the output stage are sent while the credits last (R26, R281, R303). -/
def State.drainStage (tile ctx e : Nat) : Nat → State → State
  | 0, s => s
  | n + 1, s =>
    let c := s.tctx tile ctx
    match AMap.get [] c.stage e with
    | [] => s
    | tok :: rest =>
      if c.canSend e tok.weight then
        let s1 := s.modCtx tile ctx (fun c => { c with stage := if rest.isEmpty then AMap.erase c.stage e else AMap.put c.stage e rest })
        let s2 := s1.sendOn tile ctx e tok
        if rest.isEmpty then s2.emitOrd tile ctx e else State.drainStage tile ctx e n s2
      else s

/-- The output stage of an edge sends what it now can. -/
def State.drainEdge (s : State) (tile ctx e : Nat) : State :=
  State.drainStage tile ctx e (AMap.get [] (s.tctx tile ctx).stage e).length s

/-- Return a token's credits to its edge's sender (R303), whose output stage then goes on. -/
def State.returnCredit (s : State) (region : Nat) (src : Option (Nat × Nat)) (weight : Nat) : State :=
  match src with
  | none => s
  | some (l, e) =>
    let r := s.region region
    let t := r.phys l
    if (s.tctx t r.ctx).state = .empty then s
    else (s.modCtx t r.ctx (fun c => { c with spent := AMap.modify 0 c.spent e (· - weight) })).drainEdge t r.ctx e

/-! ### Input and output queues of a firing (R94, R148, R151) -/

/-- Is the field a queue-mapped register of an actor core (R94)? -/
def isQueue (p : Nat) (r : RegField) : Bool := isActor p && 56 ≤ r.toNat

/-- The queue number of a queue-mapped register. -/
def queueOf (r : RegField) : Nat := r.toNat - 56

/-- The buffer of an input queue. -/
def queueBuf (n : Nat) : Nat := 256 + n

/-- The context of a core's firing. -/
def State.firingCtx (s : State) (p : Nat) : TileCtx := s.tctx (tileOf p) (s.core p).firing.ctx

/-- Is input queue n bound wide? -/
def State.inWide (s : State) (p n : Nat) : Bool := edgeWide (AMap.get 0 (s.firingCtx p).qWords n)
/-- Does input queue n hold predicates? -/
def State.inPred (s : State) (p n : Nat) : Bool := edgePred (AMap.get 0 (s.firingCtx p).qWords n)
/-- Is output queue n bound wide? -/
def State.outWide (s : State) (p n : Nat) : Bool := edgeWide ((s.firingCtx p).edge n)
/-- Is output queue n a predicate queue? -/
def State.outPred (s : State) (p n : Nat) : Bool := edgePred ((s.firingCtx p).edge n)

/-- May the firing take this token: one of its own reserved tokens, or an unreserved one of its colour (R151)? -/
def takes (slot colour : Nat) (h : Held) : Bool :=
  h.reserved == some slot || (h.reserved == none && tagColour h.tok.tag == colour)

/-- The tokens that a firing would pop from queue n, in order: its reserved tokens, then later ones of its colour
(R151). PEEK, TAGRD and WAITQ look at the same tokens, without those that another firing has reserved (R148, R175). DEDUCED: log
entry 72. -/
def State.queueView (s : State) (p n : Nat) : List Held :=
  let c := s.core p
  let b := AMap.get [] (s.firingCtx p).buffers (queueBuf n)
  b.filter (fun h => h.reserved == some (slotOf p)) ++
    b.filter (fun h => h.reserved == none && tagColour h.tok.tag == c.firing.colour)

/-- Remove the held token with a given place in arrival order. -/
def dropHeld (seq : Nat) (b : List Held) : List Held := b.filter (fun h => h.seq != seq)

/-- Add one to element i of a list of counters. -/
def bumpAt (l : List Nat) (i : Nat) : List Nat := l.set i (l.getD i 0 + 1)

/-- Pop a token from queue n of a firing: it leaves the buffer, its credits return, the pop is counted and the clocks it
carries merge into the firing's (R44 Token row, R151, R155, R303). -/
def State.popQueue (s : State) (p n : Nat) (h : Held) : State :=
  let f := (s.core p).firing
  let s1 := s.modCtx (tileOf p) f.ctx (fun c =>
    { c with buffers := AMap.modify [] c.buffers (queueBuf n) (dropHeld h.seq) })
  let s2 := s1.returnCredit f.region h.src h.tok.weight
  let s3 := s2.modCore p (fun c => { c with firing := { c.firing with pops := bumpAt c.firing.pops n } })
  s3.mergeClock p h.tok.clock

/-- The production rate of output queue n of a firing's binding (R147). -/
def State.outRate (s : State) (p n : Nat) : Nat :=
  match AMap.find (s.firingCtx p).binds (s.core p).firing.bnd with
  | none => 0
  | some b => b.oRates.getD n 0

/-- Would one more push exceed the production rate (R152)? -/
def State.overRate (s : State) (p n k : Nat) : Bool :=
  s.outRate p n < (s.core p).firing.pushes.getD n 0 + k

/-- Push a token to output queue n: it is counted and sent on edge n of the tile (R147, R152). -/
def State.pushQueue (s : State) (p n : Nat) (tok : Token) : State :=
  let f := (s.core p).firing
  let s1 := s.modCore p (fun c => { c with firing := { c.firing with pushes := bumpAt c.firing.pushes n } })
  s1.sendOn (tileOf p) f.ctx n { tok with clock := clockMerge (s.doneClock p) tok.clock }

/-- Is another instruction's queue copy in flight on this queue (R230)? -/
def State.queueBusy (s : State) (p : Nat) (input : Bool) (n : Nat) : Bool :=
  s.copies.any (fun c => c.core == p && match c.kind with
    | .push q .. => !input && q == n
    | .pop q .. => input && q == n
    | _ => false)

/-! ### Instances and error completions (R19, R158) -/

/-- Is this the instance? -/
def Inst.is (i : Inst) (colour f0 : Nat) : Bool := i.colour == colour && i.f0 == f0

/-- The instance of a firing. -/
def State.firingInst (s : State) (p : Nat) : InstKey :=
  let f := (s.core p).firing
  { region := f.region, colour := f.colour, f0 := f0Of (s.region f.region).image.tagw f.tag }

/-- Change an instance. -/
def State.modInst (s : State) (k : InstKey) (f : Inst → Inst) : State :=
  s.modRegion k.region (fun r => { r with insts := r.insts.map (fun i => if i.is k.colour k.f0 then f i else i) })

/-- Find an instance. -/
def State.inst (s : State) (k : InstKey) : Option Inst := (s.region k.region).insts.find? (fun i => i.is k.colour k.f0)

/-- Can an event of a cycle and a `TAG.NEST` end the instance: it has not ended, or it ended in this cycle through an event that
comes later in tag order (R17, R19, R261)? DEDUCED: log entry 24. -/
def Inst.endable (i : Inst) (cycle nest : Nat) : Bool :=
  match i.verdict with
  | none => true
  | some v => v.cycle == cycle && nest < v.nest

/-- The instance ends through an event that names it by a tag (R17, R19, R261: exactly one completion). -/
def State.setVerdict (s : State) (k : InstKey) (tag : Word) (err : Bool) (payload : Vec) : State :=
  s.modInst k (fun i => if i.endable s.cycle (tagNest tag) then
    { i with verdict := some { err := err, payload := payload, cycle := s.cycle, nest := tagNest tag }, fired := none }
  else i)

/-- An exception without an address. -/
def exc (code detail : Nat) : Exc := { code := code, detail := detail, addr := none, loc := false }
/-- An exception at a virtual address. -/
def excAt (code detail addr : Nat) : Exc := { code := code, detail := detail, addr := some addr, loc := false }
/-- An exception at a local address. -/
def excLocal (code detail addr : Nat) : Exc := { code := code, detail := detail, addr := some addr, loc := true }

/-- Illegal instruction: undecodable OP, FN or length (R157). -/
def excIllegal : Exc := exc 0x01 0x00
/-- Illegal instruction: an operand value (R157). -/
def excOperand : Exc := exc 0x01 0x01
/-- Engine-illegal (R157). -/
def excEngine : Exc := exc 0x02 0x00

/-- The payload of an actor's error completion (R158). -/
def errPayload (e : Exc) (bnd slot ltile : Nat) (pc : Word) (fcyc : Nat) (ftag : Word) : Vec :=
  BitVec.ofNat 512 (e.code + e.detail * 2 ^ 8 + bnd % 8 * 2 ^ 16 + slot % 4 * 2 ^ 20 + ltile % 1024 * 2 ^ 32 +
    (e.addr.getD 0) % 2 ^ 57 * 2 ^ 64 + e.loc.toNat * 2 ^ 126 + e.addr.isSome.toNat * 2 ^ 127 + pc.toNat * 2 ^ 128 +
    fcyc % 2 ^ 64 * 2 ^ 192 + ftag.toNat * 2 ^ 256)

/-- The payload of an operator's error completion (R282): ERRC.OP and ERRC.OPS, no pc and no FCYC. -/
def opErrPayload (e : Exc) (ops ltile : Nat) (ftag : Word) : Vec :=
  BitVec.ofNat 512 (e.code + e.detail * 2 ^ 8 + ops % 32 * 2 ^ 24 + 2 ^ 29 + ltile % 1024 * 2 ^ 32 +
    (e.addr.getD 0) % 2 ^ 57 * 2 ^ 64 + e.addr.isSome.toNat * 2 ^ 127 + ftag.toNat * 2 ^ 256)

/-- FCYC: the cycles of the current firing (R154). -/
def State.fcyc (s : State) (p : Nat) : Nat :=
  let f := (s.core p).firing
  f.fcycBase + (s.cycle - f.started)

/-! ### The end of a firing -/

/-- Release the tokens that a firing slot has reserved and not popped, and discard them (R153). -/
def State.dropReserved (s : State) (p : Nat) : State :=
  let f := (s.core p).firing
  let t := tileOf p
  let mine := fun (h : Held) => h.reserved == some (slotOf p)
  let bufs := (s.tctx t f.ctx).buffers
  let gone := bufs.flatMap (fun b => b.2.filter mine)
  let s1 := s.modCtx t f.ctx (fun c => { c with buffers := c.buffers.map (fun b => (b.1, b.2.filter (fun h => !mine h))) })
  gone.foldl (fun st h => st.returnCredit f.region h.src h.tok.weight) s1

/-- Release the selection channel that a core owns, or waits for; its walk is discarded (R386). -/
def State.freeChannel (s : State) (p : Nat) (g : Nat) : State :=
  s.modGal g (fun x => { x with
    channels := x.channels.map (fun c => if c.2.owner == some p then (c.1, Channel.free) else c)
    asks := AMap.erase x.asks p })

/-- Release the matrix bank that a firing owns: at once when its queue is empty, otherwise when the node has finished
the owner's operations, without results if `discard` (R356). -/
def State.freeBank (s : State) (p : Nat) (discard : Bool) : State :=
  let f := (s.core p).firing
  s.modCtx (tileOf p) f.ctx (fun c =>
    if c.bank.owner == .core p then
      if c.bank.queue.isEmpty then { c with bank := Bank.taken }
      else { c with bank := { c.bank with leaving := true, discard := c.bank.discard || discard } }
    else c)

/-- Is the operation one that the end of its core withdraws: a WAITV that has not been served (R224), or one that the run does not
have (R55)? -/
def MemOp.unserved (o : MemOp) : Bool :=
  o.barred || (o.cond.isSome && o.reqs.any (fun r => r.state == .buffered || r.state == .issued))

/-- A party's requests, its writes and its clocks pass to another party's number. -/
def State.renameParty (s : State) (a b : Nat) : State :=
  { s with z := { s.z with
    clocks := AMap.put (AMap.erase s.z.clocks a) b (s.clock a)
    doneClocks := AMap.put (AMap.erase s.z.doneClocks a) b (s.doneClock a)
    ops := s.z.ops.map (fun (o : MemOp) => if o.party == a then { o with party := b } else o)
    writes := s.z.writes.map (fun (w : WriteRec) => if w.party == a then { w with party := b } else w) } }

/-- Has the party requests or writes that are not complete? -/
def State.partyBusy (s : State) (p : Nat) : Bool := s.z.ops.any (fun o => o.party == p) || s.z.writes.any (fun w => w.party == p)

/-- The core's operations go on without it, as requests of a party of their own: their values and completion values are
discarded (R41, R100, R173). A WAITV that has not been served is withdrawn. DEDUCED: log entry 17. -/
def State.detachOps (s : State) (p party : Nat) : State :=
  let s1 := if s.partyBusy p then s.renameParty p party else s
  { s1 with
    z := { s1.z with
      nextId := s1.z.nextId + 1
      ops := (s1.z.ops.filter (fun o => !(o.core == some p && o.unserved))).map (fun o =>
        if o.core == some p then
          { o with core := none, sink := .discard, done := 0, pending := o.pending && s.cmds.any (fun c => c.id == o.id) }
        else o) }
    copies := s.copies.filter (fun c => c.core != p)
    streams := s.streams.filter (fun c => c.core != p) }

/-- What an ended firing has issued goes on without its values (R100, R156), its copies and STRM instructions among it; they push no
token and wait for none (`State.copyPop`, `State.copyPush`, `State.streamRead`, `State.streamWrite`). A WAITV that has not been served
is withdrawn. DEDUCED: log entry 17. -/
def State.dropResults (s : State) (p : Nat) : State :=
  { s with
    z := { s.z with ops := (s.z.ops.filter (fun o => !(o.core == some p && o.unserved))).map (fun o =>
      if o.core == some p then
        { o with
          sink := .discard
          done := 0
          pending := o.pending && (s.copies.any (fun c => c.op == o.id) || s.streams.any (fun c => c.op == o.id)) }
      else o) }
    streams := s.streams.map (fun j => if j.core == p then { j with d := 0 } else j) }

/-- Has everything completed that a core's requests have asked for (R45)? -/
def State.drained (s : State) (p : Nat) : Bool := !(s.z.ops.any (fun o => o.core == some p))

/-- The gallery whose sill a core reaches (R23, R385). -/
def State.galleryOf (s : State) (p : Nat) : Nat :=
  match engineOf p with
  | .gallery => p / 8
  | .root => (s.core p).trap.tgal.toNat
  | .actor => galleryOfTile (tileOf p)

/-- A firing leaves its slot (R12, R100, R153, R156): its tokens, channel and bank are released, its requests go on
without it, and its registers are gone. -/
def State.leaveSlot (s : State) (p : Nat) (discard : Bool) : State :=
  ((((s.dropReserved p).freeChannel p (galleryOfTile (tileOf p))).freeBank p discard).detachOps p
    (ghostParty p s.z.nextId)).setCore p Core.reset

/-- A firing ends without END (R100, R156, R380): it issues nothing more, and it leaves its slot once what it has issued has
completed. -/
def State.endFiring (s : State) (p : Nat) : State :=
  let s1 := ((s.freeChannel p (galleryOfTile (tileOf p))).freeBank p true).dropResults p
  if s1.drained p then s1.leaveSlot p true else s1.modCore p (fun c => { c with run := .ending })

/-- An actor's fault ends the firing and its instance (R30, R157, R158). A firing that has ended already has nothing more to
fault. -/
def State.actorFault (s : State) (p : Nat) (e : Exc) (pc : Word) : State :=
  if (s.core p).run = .ending then s
  else
    let f := (s.core p).firing
    let pay := errPayload e f.bnd (slotOf p) (s.firingCtx p).ltile pc (s.fcyc p) f.tag
    (s.setVerdict (s.firingInst p) f.tag true pay).endFiring p

/-! ### Taking an exception on a sequencer, and returning (R181) -/

/-- Complete a done register (R96, R97): the value is written and the register stops being pending; on a sequencer the
completion ends an IDLE (R182). T = 0 asks for no value. -/
def State.complete (s : State) (p : Nat) (t : RegField) (status result : Nat) : State :=
  if t = 0 then s
  else s.modCore p (fun c =>
    let c1 := (c.wx t (completion status result)).clearX t
    match c1.run with
    | .idle a n k w => { c1 with run := .idle a n k (w || !isActor p) }
    | _ => c1)

/-- HALT withdraws the slot's waiting AWAITs: each completes with 0x2E (R173, R344). -/
def State.withdrawAwaits (s : State) (p : Nat) : State :=
  let mine := fun (c : Cmd) => c.core == p && match c.kind with
    | .await .. => true
    | _ => false
  let s1 := { s with cmds := s.cmds.filter (fun c => !mine c) }
  (s.cmds.filter mine).foldl (fun st c => (st.complete p c.done 0x2E 0).modCore p (fun k =>
    match c.kind with
    | .await _ _ _ d => k.clearX d
    | _ => k)) s1

/-- A sequencer slot that a program has left (R173, R181): it issues nothing, its inbox is gone, and its registers and its data memory
keep their values until a load makes them zero (R321, R480). DEDUCED: log entry 86. -/
def Core.vacated (c : Core) : Core := { c with run := .empty, inbox := [], arcs := [] }

/-- A sequencer slot empties (R173, R181): its channel is released, and what it has in flight goes on without it; of the
system calls whose reply it discards, a slot event is still posted (R180, R467). -/
def State.emptySlot (s : State) (p : Nat) : State :=
  let s1 := (upTo 16).foldl (fun st g => st.freeChannel p g) (s.withdrawAwaits p)
  let s2 := s1.detachOps p (ghostParty p s1.z.nextId)
  let forgotten := fun (c : Cmd) => c.core == p && match c.kind with
    | .sysc n _ _ => n != 2
    | _ => false
  State.setCore { s2 with
    cmds := (s2.cmds.filter (fun c => !forgotten c)).map (fun (c : Cmd) => if c.core == p then { c with done := 0 } else c) }
    p (s2.core p).vacated

/-- The sequencer number of an event's source or data: 0 to 15 a gallery sequencer, 16 the root (R461, R494). -/
def sequencerNum (p : Nat) : Nat := if p < 128 then p / 8 else 16

/-- A firing or a program that has ended leaves, once what it has issued has completed (R100, R181, R380). -/
def State.reap (s : State) (p : Nat) : State :=
  if (s.core p).run != .ending then s
  else if isActor p then (if s.drained p then s.leaveSlot p true else s)
  else if (s.core p).quiet then s.emptySlot p
  else s

/-- A trap (R181): the return address, the cause and the value are saved, ACT is set and the pc goes to the vector. A
trap under ACT, or before TVEC has been written (R321), empties the slot as HALT would, once nothing is pending, and reports
a double trap (R494). -/
def State.trapTo (s : State) (p : Nat) (code tval : Nat) (tepc : Word) : State :=
  let c := s.core p
  if c.run = .ending then s
  else if c.trap.act || !c.trap.tvecSet then
    (((s.withdrawAwaits p).modCore p (fun k => { k with run := .ending })).reap p).postEvent (sequencerNum p) 5
      (sequencerNum p + slotOf p * 2 ^ 8 + code % 256 * 2 ^ 16 + tval % 2 ^ 64 * 2 ^ 64)
  else
    s.setCore p { c with
      run := .running
      pc := c.trap.tvec &&& ~~~(3 : Word)
      trap := { c.trap with tepc := tepc, code := BitVec.ofNat 8 code, tval := BitVec.ofNat 64 tval, act := true } }

/-- Return from a trap (R181): the pc is TEPC, bits 1:0 cleared as a jump's are (R90), and ACT is clear. DEDUCED: log
entry 69. -/
def State.trapReturn (s : State) (p : Nat) : State :=
  s.modCore p (fun c => { c with pc := c.trap.tepc &&& ~~~(3 : Word), trap := { c.trap with act := false } })

/-- An exception of the issuing instruction (R103, R157, R233): an actor's firing and instance end; a sequencer slot
traps with the faulting instruction's address to return to. A fault that has no address gives TVAL 0. DEDUCED: log entry
71. -/
def State.raise (s : State) (e : Exc) : Out :=
  if isActor s.cur then .next ((s.actorFault s.cur e s.me.pc).tick 1)
  else .next ((s.trapTo s.cur e.code (e.addr.getD 0) s.me.pc).tick 1)

/-- An exception of a core that is not issuing (an operation that came back poisoned, a failed later check), with the
address of the instruction at fault. -/
def State.raiseAt (s : State) (p : Nat) (e : Exc) (pc : Word) : State :=
  if isActor p then s.actorFault p e pc
  else s.trapTo p e.code (e.addr.getD 0) pc

end Sys2Proof.Machine
end

