-- ==== Sys2Proof/Machine/Zalulo.lean ====
section
/-! DEFINITION. The Zalulo machine (R38 to R59): lines, keys and poison in a view, translation by colour, the making of
operations and their arcs, and the machine's steps: issue, deliver and apply, read, atomic, completion. -/

namespace Sys2Proof.Machine

/-! ### Stamps (R40, R47) -/

/-- The null stamp, smaller than every other. -/
def Stamp.null : Stamp := { dom := 0, num := 0, clock := [] }

/-- The stamp order: clock sum, then domain, then sequence number (R47). -/
def Stamp.lt (a b : Stamp) : Bool :=
  let x := clockSum a.clock
  let y := clockSum b.clock
  x < y || (x == y && (a.dom < b.dom || (a.dom == b.dom && a.num < b.num)))

/-! ### Lines in a view (R75, R76, R140, R141, R144) -/

/-- Where a view keeps a line's descriptor: its format byte, then its scale byte. -/
def descAddr (line : Nat) : Nat := 2 ^ 52 + 2 * line

/-- The key that a slot holds, as `View.tags` gives keys: slot 0 is plaintext (R141). -/
def keyTag (keys : AMap Nat) (slot : Nat) : Nat := if slot = 0 then 0 else AMap.get 0 keys slot + 1

/-- The key that a tag gives, data key below tweak key; none is plaintext. -/
def keyOf (tag : Nat) : Option Nat := if tag = 0 then none else some (tag - 1)

/-- The tag of byte i of a line. -/
def LineKeys.tagAt (k : LineKeys) (i : Nat) : Nat := AMap.get k.fill k.own i

/-- The tags of a line's bytes, each once. -/
def LineKeys.all (k : LineKeys) : List Nat := k.own.foldl (fun l x => if l.contains x.2 then l else l ++ [x.2]) [k.fill]

/-- The bits of the bytes of a line that have a tag. -/
def LineKeys.mask (k : LineKeys) (tag : Nat) : Nat :=
  foldUp (fun i m => if k.tagAt i = tag then m + 0xFF * 2 ^ (8 * i) else m) 64 0

/-- The 64 bytes of a line as a key reads them (R140, R142): those that were written under another key as the whole line recoded
gives them. DEDUCED: log entry 82. -/
def View.lineAs (v : View) (tag line : Nat) : Nat :=
  match AMap.find v.tags line with
  | none => 0
  | some k =>
    let raw := Memory.readN v.mem (64 * line) 64
    k.all.foldl (fun acc t =>
      acc + ((if t = tag then raw else recodeLine (keyOf t) (keyOf tag) line raw) &&& k.mask t)) 0

/-- The 64 bytes of a line as key slot `key` reads them (R140, R142). -/
def View.line (keys : AMap Nat) (v : View) (key line : Nat) : Nat := v.lineAs (keyTag keys key) line

/-- Read `n` bytes that lie in one line. -/
def View.bytes (keys : AMap Nat) (v : View) (key pa n : Nat) : Nat :=
  (View.line keys v key (pa / 64) >>> (8 * (pa % 64))) % 2 ^ (8 * n)

/-- The keys of a line once a write of a stamp is applied at it: the first write clears the zero mark and fills the line (R140). Of
several the one with the smallest stamp is the first, so that every view comes to the same (R47). DEDUCED: log entry 82. -/
def LineKeys.filled (k : Option LineKeys) (tag : Nat) (st : Stamp) : LineKeys :=
  match k with
  | none => { fill := tag, since := st, own := [] }
  | some x => if Stamp.lt st x.since then { x with fill := tag, since := st } else x

/-- A line's zero mark is cleared under a key (R140). -/
def View.fillLine (v : View) (tag line : Nat) (st : Stamp) : View :=
  { v with tags := AMap.put v.tags line (LineKeys.filled (AMap.find v.tags line) tag st) }

/-- Byte i of a line is under a key. -/
def View.setKey (v : View) (tag line i : Nat) : View :=
  match AMap.find v.tags line with
  | none => v
  | some k => { v with tags := AMap.put v.tags line { k with own := AMap.put k.own i tag } }

/-- Put `n` bytes of one line in a view, under a key, without a stamp. -/
def View.lay (v : View) (pa n value tag : Nat) : View :=
  let line := pa / 64
  let v1 : View := { v with mem := Memory.writeN v.mem pa n value }
  if n = 64 then { v1 with tags := AMap.put v1.tags line { fill := tag, since := Stamp.null, own := [] } }
  else foldUp (fun i x => x.setKey tag line (pa % 64 + i)) n (v1.fillLine tag line Stamp.null)

/-- The line's format and scale bytes (R75): 0x00 and 0x7F unless a descriptor has been placed. -/
def View.descriptor (v : View) (line : Nat) : Nat × Nat :=
  ((Memory.read v.mem (descAddr line)).toNat, (Memory.read v.mem (descAddr line + 1)).toNat ^^^ 0x7F)

/-- Place a line's descriptor. -/
def View.setDescriptor (v : View) (line : Nat) (d : Nat × Nat) : View :=
  { v with mem := Memory.writeN v.mem (descAddr line) 2 (d.1 % 256 + 256 * (d.2 % 256 ^^^ 0x7F)) }

/-- Is the line poisoned (R144)? -/
def View.poisoned (v : View) (pa : Nat) : Bool := AMap.get 0 v.poison (pa / 64) != 0

/-- The poison bits of a line changed: an empty mark is not listed. -/
def View.setPoison (v : View) (line mask : Nat) : View :=
  { v with poison := if mask = 0 then AMap.erase v.poison line else AMap.put v.poison line mask }

/-! ### Stamps in a view (R40, R47) -/

/-- The stamp of a byte. -/
def View.stampAt (v : View) (pa : Nat) : Stamp := AMap.get Stamp.null v.stamps pa

/-- The clock of the last write to any of `n` bytes (R55). -/
def View.clockOf (v : View) (pa n : Nat) : Clock :=
  foldUp (fun i c => clockMerge c (v.stampAt (pa + i)).clock) n []

/-- Scrub a frame (R139): every line's zero mark, its default descriptor, no poison. The bytes keep their stamps, which never
fall (R47). DEDUCED: log entry 57. -/
def View.scrub (v : View) (base size : Nat) : View :=
  let inside := fun line => decide (base ≤ 64 * line ∧ 64 * line < base + size)
  { v with
    mem := Memory.clear (Memory.clear v.mem base size) (descAddr (base / 64)) (2 * (size / 64))
    poison := v.poison.filter (fun p => !inside p.1)
    tags := v.tags.filter (fun p => !inside p.1) }

/-- Apply byte i of a write if its stamp is the greater (R482). -/
def applyByte (w : WriteRec) (i : Nat) (v : View) : View :=
  let a := w.pa + i
  if w.be.testBit i && Stamp.lt (v.stampAt a) w.stamp then
    ({ v with
      mem := Memory.write v.mem a (BitVec.ofNat 8 (w.data >>> (8 * i)))
      stamps := AMap.put v.stamps a w.stamp } : View).setKey w.key (a / 64) (a % 64)
  else v

/-- The place of the stamp of a unit's poison mark, above the bytes and the descriptors. -/
def poisonAddr (pa : Nat) : Nat := 2 ^ 53 + pa / 8

/-- The stamp of a descriptor or of a poison mark. -/
def View.setStamp (v : View) (a : Nat) (st : Stamp) : View := { v with stamps := AMap.put v.stamps a st }

/-- A write places its descriptor (R78), unless a write with a greater stamp has placed one. DEDUCED: log entry 83. -/
def View.applyDesc (v : View) (w : WriteRec) : View :=
  match w.desc with
  | some d =>
    let a := descAddr (w.pa / 64)
    if Stamp.lt (v.stampAt a) w.stamp then (v.setDescriptor (w.pa / 64) d).setStamp a w.stamp else v
  | none => v

/-- A write poisons its unit, or as one of a whole line ends its poison (R144), unless a write with a greater stamp has done the one or
the other. DEDUCED: log entry 83. -/
def View.applyPoison (v : View) (w : WriteRec) : View :=
  let a := poisonAddr w.pa
  if (w.poison || w.whole) && Stamp.lt (v.stampAt a) w.stamp then
    let bit := 2 ^ (w.pa % 64 / 8)
    let mask := AMap.get 0 v.poison (w.pa / 64)
    (v.setPoison (w.pa / 64) (if w.poison then mask ||| bit else mask - (mask &&& bit))).setStamp a w.stamp
  else v

/-- Apply a write at a view (R482): byte by byte, with its descriptor (R78) and the poison that it leaves or ends (R144). -/
def View.apply (v : View) (w : WriteRec) : View :=
  ((foldUp (applyByte w) w.size (v.fillLine w.key (w.pa / 64) w.stamp)).applyDesc w).applyPoison w

/-! ### The views and the writes in flight -/

/-- A domain's view. -/
def State.view (s : State) (d : Nat) : View := AMap.get View.reset s.z.views d
/-- Write a domain's view. -/
def State.setView (s : State) (d : Nat) (v : View) : State := { s with z := { s.z with views := AMap.put s.z.views d v } }

/-- Has view V applied every write of W's causal past (R482)? -/
def pastApplied (ws : List WriteRec) (id : Nat) (c : Clock) (v : Nat) : Bool :=
  ws.all (fun w => w.id == id || !clockLe w.stamp.clock c || w.applied.contains v)

/-- May W be applied at V now (R482)? -/
def applicable (ws : List WriteRec) (v : Nat) (w : WriteRec) : Bool :=
  w.delivered.contains v && !w.applied.contains v && pastApplied ws w.id w.stamp.clock v

/-- Every view has applied the write and every acknowledgement has come. -/
def WriteRec.finished (w : WriteRec) : Bool := (upTo 20).all (fun d => w.applied.contains d) && w.acks.isEmpty

/-- The parties that must acknowledge a system-scope write (R59): the host, number 8, and the peers that share the
pool. -/
def State.ackParties (s : State) (sc : Scope) : List Nat :=
  match sc with
  | .system => 8 :: s.host.peers
  | _ => []

/-- Is a write complete at a scope for a party's domain (R45, R46)? -/
def State.writeDone (s : State) (sc : Scope) (dom id : Nat) : Bool :=
  match s.z.writes.find? (fun w => w.id == id) with
  | none => true
  | some w =>
    match sc with
    | .tile | .gallery => w.applied.contains dom
    | .device => (upTo 20).all (fun d => w.applied.contains d)
    | .system => w.finished

/-! ### Homes (R53, R123, R138, R466) -/

/-- Follow committed migrations from frame to frame. -/
def follow (rs : List (Nat × Nat × Nat)) : Nat → Nat → Nat
  | 0, pa => pa
  | k + 1, pa =>
    match rs.find? (fun r => r.1 ≤ pa && pa < r.1 + r.2.2) with
    | some (o, n, _) => follow rs k (n + (pa - o))
    | none => pa

/-- The address of a location whose page has migrated, once or more often (R138). -/
def State.redirect (s : State) (pa : Nat) : Nat := follow s.ls.redirects s.ls.redirects.length pa

/-- The decoder that maps an address of the pool. -/
def State.decoder (s : State) (pa : Nat) : Option Hdm :=
  s.host.hdm.find? (fun h => h.base ≤ pa && pa < h.base + h.size)

/-- Does the address lie in memory that exists (R122)? -/
def State.paExists (s : State) (pa : Nat) : Bool :=
  pa < 0x400000000 || (0x1000000000 ≤ pa && pa < 2 ^ 52 && (s.decoder pa).isSome)

/-- The home's domain (R123): 16 plus the base die. -/
def State.homeDomain (s : State) (pa : Nat) : Nat :=
  if pa < 0x400000000 then 16 + bitsAt pa 12 8 / 8
  else match s.decoder pa with
    | some h => 16 + (h.ports.getD ((pa - h.base) / h.granule % h.ports.length) 0) / 6
    | none => 16

/-! ### Translation by colour (R132, R134, R210) -/

/-- The kind's demands on an extent (R132). -/
def Extent.permits (e : Extent) (k : ReqKind) : Bool :=
  match k with
  | .write => e.wr
  | .atomic => e.wr && e.rd
  | _ => e.rd

/-- The extent that holds the access: the lowest index that contains it (R132). -/
def extentFor (x : AMap Extent) (va n : Nat) : Option Extent :=
  (x.find? (fun p => p.2.valid && p.2.vbase ≤ va && va + n ≤ p.2.vbase + p.2.size)).map Prod.snd

/-- Has the extent's lease been revoked (R134)? -/
def State.revoked (s : State) (e : Extent) : Bool := s.ls.leases.any (fun l => l.num == e.lease && l.revoked)

/-- An address after a frame has moved (R138). -/
def movedAddr (src dst size pa : Nat) : Nat := if src ≤ pa && pa < src + size then dst + (pa - src) else pa

/-- Where an extent holds a virtual address: on the frame that it was resolved to, or where that has migrated since (R48, R138). -/
def Extent.place (e : Extent) (va : Nat) : Nat :=
  e.moved.foldl (fun pa m => movedAddr m.1 m.2.1 m.2.2 pa) (e.pbase + (va - e.vbase))

/-- The parts of a range after a frame has moved (R138). -/
def movedParts (src dst size : Nat) (r : Nat × Nat) : List (Nat × Nat) :=
  let a := max r.1 src
  let b := min (r.1 + r.2) (src + size)
  if b ≤ a then [r]
  else [(r.1, a - r.1), (dst + (a - src), b - a), (b, r.1 + r.2 - b)].filter (fun x => x.2 != 0)

/-- Where an extent holds a range of virtual addresses (R138). -/
def Extent.places (e : Extent) (va n : Nat) : List (Nat × Nat) :=
  e.moved.foldl (fun rs m => rs.flatMap (movedParts m.1 m.2.1 m.2.2)) [(e.pbase + (va - e.vbase), n)]

/-- Translate (R132): the physical address, the key slot and whether the read-only path may cache; none is the
extent-violation fault. -/
def State.translate (s : State) (x : AMap Extent) (va n : Nat) (k : ReqKind) : Option (Nat × Nat × Bool) :=
  if 2 ^ 57 ≤ va then none
  else match extentFor x va n with
    | none => none
    | some e => if e.permits k && !s.revoked e then some (e.place va, e.key, e.stb) else none

/-- The extent table of a core (R210): an actor's is its instance's, a sequencer slot's its own. -/
def State.extentsOf (s : State) (p : Nat) : AMap Extent :=
  if isActor p then match s.inst (s.firingInst p) with
    | some i => i.extents
    | none => []
  else (s.core p).extents

/-- The colour tag of a core's read-only-path reads (R52, R221); a sequencer has none of a region's colours. -/
def State.colourTag (s : State) (p : Nat) : Nat :=
  if isActor p then 1024 * (s.core p).firing.region + (s.core p).firing.colour else 2 ^ 20

/-! ### Operations and their arcs (R43, R44) -/

/-- The scope that `MOD`[1:0] names (R42). -/
def scopeOf (m : BitVec 4) : Scope :=
  match m.toNat % 4 with
  | 0 => .tile
  | 1 => .gallery
  | 2 => .device
  | _ => .system

/-- Does a read with this `MOD`, or a write, draw the Acquire arcs of R44? A read of any order but relaxed does: release on a
read acts as acquire-release (R49). -/
def acquires (m : BitVec 4) (isWrite : Bool) : Bool := !isWrite && m.toNat / 4 != 0

/-- Does it draw the Release arcs of R44? A write of any order but relaxed does: acquire on a write acts as acquire-release
(R49). -/
def releases (m : BitVec 4) (isWrite : Bool) : Bool := isWrite && m.toNat / 4 != 0

/-- A request not yet issued. -/
def Req.make (k : ReqKind) (va pa size data key : Nat) : Req :=
  { kind := k, va := va, pa := pa, size := size, data := data, be := 0xFF, key := key, desc := none, whole := false,
    poison := false, state := .buffered }

/-- Does a request write? -/
def Req.writes (r : Req) : Bool :=
  match r.kind with
  | .write | .atomic => true
  | _ => false

/-- Do two requests touch overlapping bytes, one of them writing (R44, Same location)? A request of more than 8 bytes stands
for a range that a unit has still to walk. -/
def Req.conflicts (a b : Req) : Bool :=
  (a.writes || b.writes) && a.pa < b.pa + b.size && b.pa < a.pa + a.size && (8 < a.size || 8 < b.size ||
    (upTo a.size).any (fun i =>
      a.be.testBit i && b.pa ≤ a.pa + i && a.pa + i < b.pa + b.size && b.be.testBit (a.pa + i - b.pa)))

/-- Does an operation have a request that writes, made or still to make? -/
def MemOp.writes (o : MemOp) : Bool := o.reqs.any Req.writes || o.future.any Req.writes

/-- Do two operations touch overlapping bytes, one of them writing? -/
def MemOp.conflicts (a b : MemOp) : Bool :=
  (a.writes || b.writes) && (a.reqs ++ a.future).any (fun x => (b.reqs ++ b.future).any (fun y => x.conflicts y))

/-- An operation without requests, for a party and a core: relaxed, device scope, no arcs. -/
def MemOp.empty (party : Nat) (core : Option Nat) : MemOp :=
  { id := 0, party := party, core := core, reqs := [], future := [], own := none, scope := .device, acquire := false,
    release := false, isFence := false, arcs := [], amo := 0, cmp := 0, cond := none, md := 0, eager := false, sink := .discard, done := 0,
    result := 0, status := 0, pending := false, unit := false, waits := [], acks := [], hostPort := none, inst := none, gen := 0, tagCol := 0, tile := none, pc := 0 }

/-- The arcs that an earlier operation places on a new one (R44, R226). `issuer` is the firing, program or port that makes
the new one. A unit's operation, one with a clock of its own, follows its issuer's earlier requests only where it releases,
and its own unit's where they conflict; its issuer's later requests follow it only where it acquires. -/
def arcFrom (a b : MemOp) (issuer : Nat) : Bool :=
  let mine := a.party == issuer && a.own.isNone
  let ofUnit := a.core == some issuer && a.own.isSome
  let sameParty := a.party == b.party
  if b.own.isSome then (b.release && mine) || (sameParty && a.conflicts b)
  else ((mine || ofUnit) && (a.acquire || a.isFence)) || (mine && (b.isFence || b.release)) || (sameParty && a.conflicts b)

/-- The arcs of a new operation made for core or slot `issuer`. -/
def State.arcsFor (s : State) (b : MemOp) (issuer : Nat) : List Nat :=
  (s.z.ops.filter (fun a => arcFrom a b issuer)).map (fun a => a.id)

/-- Does a read that has been served place an arc on a new operation (R44: Fence, Release, Same location)? -/
def ReadMark.before (m : ReadMark) (b : MemOp) : Bool :=
  b.isFence || b.release || (b.own.isNone && (b.reqs ++ b.future).any (fun y =>
    (m.writes || y.writes) && m.pa < y.pa + y.size && y.pa < m.pa + m.size))

/-- Does a new operation follow, by dependency or by another row of R44, a read of its issuer that was served without a merge? In the run
being made that read is no arc source (R55), so that the run has no such request. DEDUCED: log entry 9. -/
def State.unmergedBefore (s : State) (b : MemOp) (issuer : Nat) : Bool :=
  let t := (s.core issuer).firing.trace
  t.dep || t.reads.any (fun m => m.before b)

/-- Put an operation in the issue buffer: it takes the next number and its arcs. -/
def State.putOp (s : State) (op : MemOp) (issuer : Nat) : State :=
  let o := { op with id := s.z.nextId, arcs := s.arcsFor op issuer }
  { s with z := { s.z with ops := s.z.ops ++ [o], nextId := s.z.nextId + 1 } }

/-- Has the core asked for a request that the run being made does not have (R55)? It then has no further step. DEDUCED: log entry 9. -/
def State.barred (s : State) (p : Nat) : Bool := s.z.ops.any (fun o => o.barred && (o.core == some p || o.party == p))

/-- Put a new operation in the issue buffer. -/
def State.addOp (s : State) (op : MemOp) (issuer : Nat) : State :=
  s.putOp { op with barred := op.barred || s.unmergedBefore op issuer } issuer

/-- A system-scope write to the pool leaves on the ports of the peers that share the pool (R59, R464). -/
def WriteRec.sentPool (w : WriteRec) : List Sent :=
  if w.pa < 0x1000000000 then []
  else (w.acks.filter (fun p => p < 8)).map (fun p => .poolWrite p w.id w.pa w.size w.data w.be w.stamp.clock)

/-- Count a domain's write and put it among the writes in flight; one to the shared pool goes out to the peers. -/
def State.addWrite (s : State) (w : WriteRec) : State :=
  { s with
    host := if w.sentPool.isEmpty then s.host else { s.host with sent := s.host.sent ++ w.sentPool }
    z := { s.z with
      counters := AMap.put s.z.counters w.stamp.dom w.stamp.num
      writes := s.z.writes ++ [w]
      nextId := w.id + 1 } }

/-- Find an operation. -/
def State.op (s : State) (id : Nat) : Option MemOp := s.z.ops.find? (fun o => o.id == id)
/-- Change an operation. -/
def State.modOp (s : State) (id : Nat) (f : MemOp → MemOp) : State :=
  { s with z := { s.z with ops := s.z.ops.map (fun o => if o.id == id then f o else o) } }
/-- Remove an operation: it is complete. -/
def State.removeOp (s : State) (id : Nat) : State :=
  { s with z := { s.z with ops := s.z.ops.filter (fun o => o.id != id) } }

/-- Are all the operation's incoming arcs from complete requests (R47)? Those of a barred operation never are (R55). -/
def State.arcsMet (s : State) (o : MemOp) : Bool := !o.barred && o.arcs.all (fun a => !(s.z.ops.any (fun x => x.id == a)))

/-- The clock that an operation's requests carry (R47, R226). -/
def State.opClock (s : State) (o : MemOp) : Clock := o.own.getD (s.clock o.party)

/-- Merge a clock into an operation's (R55). -/
def State.mergeOpClock (s : State) (o : MemOp) (c : Clock) : State :=
  match o.own with
  | none => s.mergeClock o.party c
  | some w => s.modOp o.id (fun x => { x with own := some (clockMerge w c) })

/-- Set an operation's clock. -/
def State.setOpClock (s : State) (o : MemOp) (c : Clock) : State :=
  match o.own with
  | none => { s with z := { s.z with clocks := AMap.put s.z.clocks o.party c } }
  | some _ => s.modOp o.id (fun x => { x with own := some c })

/-- Set the state of request i of an operation. -/
def State.setReq (s : State) (id i : Nat) (st : ReqState) : State :=
  s.modOp id (fun o => match o.reqs[i]? with
    | some r => { o with reqs := o.reqs.set i { r with state := st } }
    | none => o)

/-- Issue a write (R47): the domain's counter rises, the clock's entry follows, and the write takes its stamp. The answer
is the write's number. -/
def State.issueWrite (s : State) (o : MemOp) (r : Req) : Nat × State :=
  let d := domainOf o.party
  let n := AMap.get 0 s.z.counters d + 1
  let c := clockSet (s.opClock o) d n
  let id := s.z.nextId
  let w : WriteRec :=
    { id := id, party := o.party, pa := r.pa, size := r.size, data := r.data, be := r.be, key := keyTag s.root.keys r.key,
      desc := r.desc, whole := r.whole, poison := r.poison, stamp := { dom := d, num := n, clock := c }, delivered := [],
      applied := [], acks := s.ackParties o.scope }
  (id, (s.addWrite w).setOpClock o c)

/-- The condition of a WAITV (R224): c, the value in the view, the comparison value. -/
def waitCond (c : Nat) (m b : Word) : Bool :=
  match c with
  | 0 => m == b
  | 1 => m != b
  | 2 => b.ule m
  | 3 => m.ult b
  | 4 => b.sle m
  | _ => m.slt b

/-- May the read be served with this value (R224)? A WAITV whose line is poisoned is served at once. DESIGN CHOICE: log entry 90. -/
def MemOp.accepts (o : MemOp) (value : Nat) (poisoned : Bool) : Bool :=
  match o.cond with
  | none => true
  | some c => poisoned || waitCond c (BitVec.ofNat 64 value) (BitVec.ofNat 64 o.cmp)

/-- The line descriptor that a typed LDM, a tile's matrix fetch unit and a selection channel read with a unit, above the unit's
bits (R77, R299, R358, R390). -/
def MemOp.descBits (o : MemOp) (v : View) (r : Req) : Nat :=
  let typed := match o.sink with
    | .ldm _ _ _ _ _ _ t => t
    | _ => (7000 ≤ o.party && o.party < 8100) || (8500 ≤ o.party && o.party < 8700)
  if typed then
    let d := v.descriptor (r.pa / 64)
    (d.1 + 256 * d.2) * 2 ^ (8 * r.size)
  else 0

/-- Is the operation a source of some arc that a later request already has (R44, R55)? -/
def State.arcSource (s : State) (o : MemOp) : Bool := o.acquire || s.z.ops.any (fun x => x.arcs.contains o.id)

/-- A read is served without a merge: in the run being made it is no arc source (R55), unless the party's clock holds its clock
already. -/
def State.markRead (s : State) (o : MemOp) (r : Req) (c : Clock) : State :=
  if clockLe c (s.opClock o) then s
  else
    let s1 := s.modOp o.id (fun x => { x with unmerged := true })
    match o.core with
    | some p =>
      if o.own.isSome then s1
      else s1.modCore p (fun k => { k with firing := { k.firing with trace := { k.firing.trace with
        reads := { pa := r.pa, size := r.size, writes := r.writes } :: k.firing.trace.reads } } })
    | none => s1

/-- An operation has carried its party's clock as it stands (R44, Token row). -/
def State.noteTook (s : State) (id : Nat) : State :=
  match s.op id with
  | none => s
  | some o => s.modOp id (fun x => { x with took := clockMerge x.took (s.opClock o) })

/-- R55 as a value whose last write had clock `c` is returned: the clock is merged where the read acquires or is an arc source
already, or where it is one in the run being made (`merge`); otherwise the read is none. DEDUCED: log entry 9. -/
def State.returned (s : State) (o : MemOp) (r : Req) (c : Clock) (merge : Bool) : State :=
  (if merge || o.eager || s.arcSource o then s.mergeOpClock o c else s.markRead o r c).noteTook o.id

/-- Serve a read from the view of the party's domain (R483), with R55's merge. -/
def State.serveRead (s : State) (o : MemOp) (i : Nat) (r : Req) (merge : Bool) : State :=
  let v := s.view (domainOf o.party)
  let value := View.bytes s.root.keys v r.key r.pa r.size + o.descBits v r
  let bad := v.poisoned r.pa
  if o.accepts value bad then (s.setReq o.id i (.served value bad)).returned o r (v.clockOf r.pa r.size) merge else s

/-- Serve the first issued WAITV of a domain whose condition the view now meets (R224), then the next. -/
def serveWaits (d : Nat) : List MemOp → State → State
  | [], s => s
  | o :: os, s =>
    match o.cond, o.reqs with
    | some _, r :: _ =>
      if r.state == .issued && domainOf o.party == d then serveWaits d os (s.serveRead o 0 r o.eager) else serveWaits d os s
    | _, _ => serveWaits d os s

/-- Every WAITV that waits on a domain's view is served where its condition holds (R224: at the first step at which it does). -/
def State.wakeWaits (s : State) (d : Nat) : State := serveWaits d (s.z.ops.filter (fun o => o.cond.isSome)) s

/-- Change every view. -/
def State.mapViews (s : State) (f : View → View) : State :=
  (upTo 20).foldl (fun st d => (st.setView d (f (st.view d))).wakeWaits d) s

/-- Apply what can be applied at V, at most `fuel` writes (R482). -/
def settle (v : Nat) : Nat → State → State
  | 0, s => s
  | n + 1, s =>
    match s.z.writes.find? (applicable s.z.writes v) with
    | none => s
    | some w =>
      let s1 := s.setView v ((s.view v).apply w)
      settle v n (State.wakeWaits { s1 with z := { s1.z with writes := s1.z.writes.map (fun x =>
        if x.id == w.id then { x with applied := v :: x.applied } else x) } } v)

/-- Forget the writes that are finished. -/
def State.dropFinished (s : State) : State :=
  { s with z := { s.z with writes := s.z.writes.filter (fun w => !w.finished) } }

/-- Deliver a write to a view, and apply there what can now be applied (R48, R482). DEDUCED: log entry 8. -/
def State.deliver (s : State) (id v : Nat) : State :=
  let s1 := { s with z := { s.z with writes := s.z.writes.map (fun w =>
    if w.id == id && !w.delivered.contains v then { w with delivered := v :: w.delivered } else w) } }
  (settle v s1.z.writes.length s1).dropFinished

/-- The read-only cache entry of a colour tag, an 8-byte unit and the key that it is read under (R52, R141). -/
def State.roEntry (s : State) (g col unit key : Nat) : Option RoEntry :=
  (AMap.get [] s.z.roCache g).find? (fun e => e.col == col && e.pa == unit && e.key == keyTag s.root.keys key)

/-- Fill an entry with the unit's current value in the gallery's view (R52). -/
def State.roFill (s : State) (g col unit key : Nat) : State :=
  let v := s.view g
  let e : RoEntry :=
    { key := keyTag s.root.keys key, col := col, pa := unit, value := View.bytes s.root.keys v key unit 8, poisoned := v.poisoned unit,
      clock := v.clockOf unit 8 }
  let rest := (AMap.get [] s.z.roCache g).filter (fun x => !(x.col == col && x.pa == unit && x.key == e.key))
  { s with z := { s.z with roCache := AMap.put s.z.roCache g (e :: rest) } }

/-- Drop the entries of a gallery's cache that a test names (R52). -/
def State.roDrop (s : State) (g : Nat) (f : RoEntry → Bool) : State :=
  { s with z := { s.z with roCache := AMap.put s.z.roCache g ((AMap.get [] s.z.roCache g).filter (fun e => !f e)) } }

/-- Serve a read of the read-only path on a stable extent (R52): from the colour's entry, filled first if absent. -/
def State.serveReadOnly (s : State) (o : MemOp) (i : Nat) (r : Req) (merge : Bool) : State :=
  let g := domainOf o.party
  let unit := r.pa / 8 * 8
  let s0 := if (s.roEntry g o.tagCol unit r.key).isSome then s else s.roFill g o.tagCol unit r.key
  match s0.roEntry g o.tagCol unit r.key with
  | none => s
  | some e =>
    let s1 := s0.setReq o.id i (.served ((e.value >>> (8 * (r.pa % 8))) % 2 ^ (8 * r.size) + o.descBits (s.view g) r) e.poisoned)
    s1.returned o r e.clock merge

/-- Is a request complete (R45)? -/
def State.reqDone (s : State) (o : MemOp) (r : Req) : Bool :=
  match r.state with
  | .buffered => false
  | .issued => r.kind == .fence
  | .served _ _ => true
  | .written w => s.writeDone o.scope (domainOf o.party) w
  | .performed _ none => true
  | .performed _ (some w) => s.writeDone o.scope (domainOf o.party) w

/-- Must a request wait for an earlier one of its own operation to overlapping bytes (R44, Same location; R202)? -/
def State.reqOrdered (s : State) (o : MemOp) (i : Nat) (r : Req) : Bool :=
  (o.reqs.take i).all (fun x => !x.conflicts r || s.reqDone o x)

/-- Has a control port's party issued all that the port's earlier memory writes ask for (R458)? -/
def State.portIssued (s : State) (port before : Nat) : Bool :=
  s.z.ops.all (fun x => before ≤ x.id || x.hostPort != some port || x.reqs.all (fun r => r.state != .buffered))

/-- May a host write issue: have the earlier messages of its control port issued (R458)? -/
def State.portTurn (s : State) (o : MemOp) : Bool :=
  match o.hostPort with
  | none => true
  | some port => s.portIssued port o.id

/-- The issue rule (R47), with the Read rule (R483) and the read-only path (R52) taken in the same step for a read. A
request that has issued, an arc that is not met or a WAITV whose condition does not hold leaves the machine as it is.
DEDUCED: log entry 7. -/
def State.issueReq (s : State) (id i : Nat) (merge : Bool) : State :=
  match s.op id with
  | none => s
  | some o =>
    match o.reqs[i]? with
    | none => s
    | some r =>
      if r.state != .buffered || !s.arcsMet o || !s.portTurn o || !s.reqOrdered o i r then s
      else match r.kind with
        | .read =>
          if o.cond.isNone then s.serveRead o i r merge
          else ((s.setReq id i .issued).modOp id (fun x => { x with eager := merge })).wakeWaits (domainOf o.party)
        | .readOnly => if domainOf o.party < 16 then s.serveReadOnly o i r merge else s.serveRead o i r merge
        | .write =>
          let (w, s1) := s.issueWrite o r
          (s1.setReq id i (.written w)).noteTook id
        | .atomic => s.setReq id i .issued
        | .fence =>
          let ws := (s.z.writes.filter (fun w => w.party == o.party)).map (fun w => w.id)
          ((s.setReq id i .issued).modOp id (fun x => { x with waits := ws, acks := s.ackParties o.scope })).noteTook id

/-- What an atomic writes (R219): FN, the old value, the operand, the compare value; none for no write. -/
def amoResult (fn : Nat) (m b cmp : Word) : Option Word :=
  match fn with
  | 0 => some (m + b)
  | 1 => some (BitVec.ofNat 64 (fAdd .fp32 .rne (m.toNat % 2 ^ 32) (b.toNat % 2 ^ 32)).bits)
  | 2 => some (if m.slt b then m else b)
  | 3 => some (if m.slt b then b else m)
  | 4 => some (if m.ult b then m else b)
  | 5 => some (if m.ult b then b else m)
  | 6 => some (m &&& b)
  | 7 => some (m ||| b)
  | 8 => some (m ^^^ b)
  | 9 => some b
  | 10 => if m = cmp then some b else none
  | _ => some (if b = 0 || m.ult (b - 1) then m + 1 else 0)

/-- The Atomic rule (R53): perform an issued atomic at its home, once the home's view has applied the causal past of the
party's clock. A poisoned line is not written and gives no value (R144). -/
def State.atomicReq (s : State) (id i : Nat) (merge : Bool) : State :=
  match s.op id with
  | none => s
  | some o =>
    match o.reqs[i]? with
    | none => s
    | some r =>
      let h := s.homeDomain r.pa
      let c := s.opClock o
      if r.state != .issued || r.kind != .atomic || !pastApplied s.z.writes s.z.nextId c h then s
      else
        let v := s.view h
        if v.poisoned r.pa then s.setReq id i (.served 0 true)
        else
          let m := View.bytes s.root.keys v r.key r.pa r.size
          let read := v.clockOf r.pa r.size
          let s1 := s.returned o r read merge
          match amoResult o.amo (BitVec.ofNat 64 m) (BitVec.ofNat 64 r.data) (BitVec.ofNat 64 o.cmp) with
          | none => s1.setReq id i (.performed m none)
          | some w =>
            let n := AMap.get 0 s1.z.counters h + 1
            let wid := s1.z.nextId
            let rec_ : WriteRec :=
              { id := wid, party := o.party, pa := r.pa, size := r.size, data := w.toNat % 2 ^ (8 * r.size), be := 0xFF,
                key := keyTag s.root.keys r.key, desc := none, whole := false, poison := false,
                stamp := { dom := h, num := n, clock := clockSet (clockMerge c read) h n }, delivered := [h], applied := [h],
                acks := s.ackParties o.scope }
            let s3 := (s1.setView h (v.apply rec_)).addWrite rec_
            let s4 := (s3.setReq id i (.performed m (some wid))).modOp id (fun x => { x with took := clockMerge x.took rec_.stamp.clock })
            (settle h s4.z.writes.length (s4.wakeWaits h)).dropFinished

/-- Is an operation complete (R45, R56, R212)? -/
def State.opReady (s : State) (o : MemOp) : Bool :=
  !o.pending && o.acks.isEmpty && o.reqs.all (s.reqDone o) && o.waits.all (s.writeDone o.scope (domainOf o.party))

/-- The requests of a unit's operation that are still listed: those that a reply will end, or that are not complete. -/
def State.keptReqs (s : State) (o : MemOp) : List Req := if o.tile.isSome then o.reqs else o.reqs.filter (fun r => !s.reqDone o r)

/-- A unit makes a read of at most 8 bytes (R47, R483): the bytes, whether the line is poisoned, and the state after. -/
def State.unitRead (s : State) (op : Nat) (r : Req) (merge : Bool) : Nat × Bool × State :=
  match s.op op with
  | none => (0, false, s)
  | some o =>
    let v := s.view (domainOf o.party)
    let value := View.bytes s.root.keys v r.key r.pa r.size
    let bad := v.poisoned r.pa
    let s1 := s.modOp op (fun x => { x with reqs := s.keptReqs o ++ [{ r with state := .served value bad }] })
    (value, bad, s1.returned o r (v.clockOf r.pa r.size) merge)

/-- A unit makes a write of at most 8 bytes (R47). -/
def State.unitWrite (s : State) (op : Nat) (r : Req) : State :=
  match s.op op with
  | none => s
  | some o =>
    let w := s.issueWrite o r
    (w.2.modOp op (fun x => { x with reqs := s.keptReqs o ++ [{ r with state := .written w.1 }] })).noteTook op

/-- Has the operation a write to these bytes that is not complete (R44, Same location)? -/
def State.ownWritePending (s : State) (o : MemOp) (pa n : Nat) : Bool :=
  o.reqs.any (fun r => r.writes && r.pa < pa + n && pa < r.pa + r.size && !s.reqDone o r)

/-- The value that a request returned. -/
def Req.value (r : Req) : Nat :=
  match r.state with
  | .served v _ => v
  | .performed v _ => v
  | _ => 0

/-- Did a request return poison (R144)? -/
def Req.bad (r : Req) : Bool :=
  match r.state with
  | .served _ b => b
  | _ => false

/-- The bytes that reads returned, the first read's lowest. -/
def readBytes (rs : List Req) : Nat :=
  (rs.foldl (fun (a : Nat × Nat) r => (a.1 + r.value % 2 ^ (8 * r.size) * 2 ^ (8 * a.2), a.2 + r.size)) (0, 0)).1

/-- The line descriptor that came with a read (`MemOp.descBits`). -/
def Req.lineDesc (r : Req) : Nat × Nat :=
  let d := r.value >>> (8 * r.size)
  (d % 256, d / 256 % 256)

/-- The requests of an operation that read. -/
def MemOp.reads (o : MemOp) : List Req := o.reqs.filter (fun r => r.kind == .read)

/-- Have all the operation's reads returned? -/
def State.readsDone (s : State) (o : MemOp) : Bool := o.reads.all (s.reqDone o)

/-- The operation's reads are taken: what is left of its requests is what is not complete. -/
def State.takeReads (s : State) (o : MemOp) : State :=
  s.modOp o.id (fun x => { x with reqs := x.reqs.filter (fun r => r.kind != .read && !s.reqDone x r) })

/-- Forget the clocks of a party that has left its slot once its requests and writes are complete. -/
def State.forgetParty (s : State) (p : Nat) : State :=
  if p < 2 ^ 35 || s.partyBusy p then s
  else { s with z := { s.z with clocks := AMap.erase s.z.clocks p, doneClocks := AMap.erase s.z.doneClocks p } }

/-- A completed operation's clock goes with the party's later tokens (R44, Token row), and a unit's to the core that waits for it. -/
def State.completeOp (s : State) (o : MemOp) : State :=
  let c := s.opClock o
  let s1 := ((s.removeOp o.id).mergeDone o.party o.took).forgetParty o.party
  match o.own, o.core with
  | some _, some p => (s1.mergeClock p c).mergeDone p c
  | _, _ => s1

end Sys2Proof.Machine
end

