-- ==== Sys2Proof/Machine/Operands.lean ====
section
/-! DEFINITION. Every operand form: the second sources, addresses and `EXT` fields of each length, and the issue of an
instruction: the checks of R104 in their order, the scoreboard's waits, and the pops of queue-mapped sources. -/

namespace Sys2Proof.Machine

/-! ### Fields and second sources (R86 to R89, R159) -/

/-- SignExtend(`IMM16`). -/
def immExt (o : Operands) : Word := o.imm.signExtend 64
/-- SignExtend(`LIT32`). -/
def litExt (o : Operands) : Word := o.lit.signExtend 64

/-- The values that an instruction's scalar fields yield at issue. -/
abbrev Regs := RegField → Word

/-- `Second()` of the integer and memory classes (R88, R159): x[`B`], `IMM16` or `LIT32`. -/
def second (o : Operands) (rd : Regs) : Word :=
  match o.form with
  | .w32 => rd o.b
  | .w64 => immExt o
  | .w96 => litExt o

/-- The register field that `Second()` reads. -/
def secondField (o : Operands) : List RegField :=
  match o.form with
  | .w32 => [o.b]
  | _ => []

/-- The offset of the atomic class (R88, R219). -/
def amoOffset (o : Operands) : Word :=
  match o.form with
  | .w32 => 0
  | .w64 => immExt o
  | .w96 => litExt o

/-- `TypedSecond()` of a scalar typed form (R89): x[`B`] or `LIT32`. -/
def typedSecond (o : Operands) (rd : Regs) : Word :=
  match o.form with
  | .w96 => o.lit.setWidth 64
  | _ => rd o.b

/-- The register field that `TypedSecond()` reads. -/
def typedField (o : Operands) : List RegField :=
  match o.form with
  | .w96 => []
  | _ => [o.b]

/-- The offset of BR, JMP, JAL and LOOP (R88, R171). -/
def branchOffset (o : Operands) : Word :=
  match o.form with
  | .w96 => litExt o
  | _ => immExt o

/-- `EXT.RND` (R87); 0 in a 32-bit form, whose `IMM16` is zero. -/
def extRnd (o : Operands) : Nat := bitsAt o.imm.toNat 12 10
/-- `EXT.MREG`. -/
def extMreg (o : Operands) : BitVec 4 := o.imm.extractLsb' 6 4
/-- `EXT.MSKD`. -/
def extMskd (o : Operands) : Bool := o.imm.getLsbD 5
/-- `EXT.ETYPE`. -/
def extType (o : Operands) : Nat := o.imm.toNat % 32

/-- The rounding mode of a code (R68); 5 to 7 are refused before this is asked. -/
def rndOf : Nat → Rnd
  | 0 => .rne
  | 1 => .rtz
  | 2 => .rup
  | 3 => .rdn
  | _ => .rna

/-- The element type of a code; a code that is refused before this is asked reads as FP32. -/
def typeOf (code : Nat) : ElemType := (elemTypeOf code).getD .fp32

/-! ### What an instruction's form reads and writes -/

/-- What an instruction uses: its legal engines, its scalar sources in field order D, A, B (R94), its destinations, its
token registers, and the fault of an operand value it was found to have. -/
structure Use where
  actor : Bool
  gallery : Bool
  root : Bool
  xs : List RegField
  xd : Option RegField
  vs : List (BitVec 5)
  vd : List (BitVec 5)
  ms : List (BitVec 4)
  mds : List (BitVec 4)
  hs : List (BitVec 3)
  hds : List (BitVec 3)
  c : RegField
  t : RegField
  /-- A branch: what comes after it depends on its sources (R44, Dependency). -/
  steers : Bool
  /-- Something else that the instruction waits for. -/
  hold : Bool
  bad : Option Exc
  deriving DecidableEq, Repr

/-- No field used, legal on every engine. -/
def Use.none : Use :=
  { actor := true, gallery := true, root := true, xs := [], xd := Option.none, vs := [], vd := [], ms := [], mds := [],
    hs := [], hds := [], c := 0, t := 0, steers := false, hold := false, bad := Option.none }

/-- Legal on actor cores only. -/
def Use.onActor : Use := { Use.none with gallery := false, root := false }
/-- Legal on sequencers only. -/
def Use.onSeq : Use := { Use.none with actor := false }

/-- The token fields `C` and `T` of a form that reads both (R88, R96). -/
def Use.tokens (u : Use) (o : Operands) : Use := { u with c := o.c, t := o.t }

/-- The operand fault where a condition fails (R103, R157 detail 0x01). -/
def badIf (b : Bool) : Option Exc := if b then some excOperand else Option.none

/-- Is the instruction legal on the issuing engine (R21, R22)? -/
def State.legalOn (s : State) (u : Use) : Bool :=
  match engineOf s.cur with
  | .actor => u.actor
  | .gallery => u.gallery
  | .root => u.root

/-- `T` = `D` ≠ 0 (R96, R103). -/
def Use.clash (u : Use) : Bool := u.t != 0 && u.xd == some u.t

/-- A use of the queue-mapped registers that R95 forbids. -/
def State.queueMisuse (s : State) (u : Use) : Bool :=
  u.xs.any (fun r => isQueue s.cur r && s.inWide s.cur (queueOf r)) ||
    u.xd.any (fun r => isQueue s.cur r && s.outWide s.cur (queueOf r)) ||
    isQueue s.cur u.c || isQueue s.cur u.t

/-- Must the instruction wait for a scalar source: a pending register, or an empty or busy queue (R94, R98, R230)? -/
def State.sourceWaits (s : State) (r : RegField) : Bool :=
  if isQueue s.cur r then (s.queueView s.cur (queueOf r)).isEmpty || s.queueBusy s.cur true (queueOf r)
  else s.me.pendingX r

/-- May a narrow token be pushed on output queue n now: reserved space, no copy on the queue (R94, R230, R303)? -/
def State.canPush (s : State) (p n weight : Nat) : Bool :=
  (s.firingCtx p).canSend n weight && !s.queueBusy p false n

/-- Must a push of a data token, or of a predicate, wait (R94, R98, R230)? Not for space where it is to fault: beyond the
production rate, or on an edge of the other kind (R152). DEDUCED: log entry 67. -/
def State.pushWaits (s : State) (p n weight : Nat) (pred : Bool) : Bool :=
  s.queueBusy p false n ||
    (!s.overRate p n 1 && s.outPred p n == pred && !(s.firingCtx p).canSend n weight)

/-- Must the instruction wait for its scalar destination (R94, R98)? -/
def State.destWaits (s : State) (r : RegField) : Bool :=
  s.me.pendingX r || (isQueue s.cur r && s.pushWaits s.cur (queueOf r) 1 false)

/-- Does the scoreboard hold the instruction (R96, R98, R149)? -/
def State.waits (s : State) (u : Use) : Bool :=
  u.hold || s.me.pendingX u.c || s.me.pendingX u.t || u.xs.any s.sourceWaits || u.xd.any s.destWaits ||
    (u.vs ++ u.vd).any (fun r => s.me.pendV.getLsbD r.toNat) ||
    (u.ms ++ u.mds).any (fun r => s.me.pendM.getLsbD r.toNat) ||
    (u.hs ++ u.hds).any (fun r => s.me.pendH.getLsbD r.toNat)

/-- What a read of a held token yields: its payload, or 0 or 1 from a predicate queue (R94, R151). -/
def State.tokenValue (s : State) (p n : Nat) (t : Token) : Word :=
  if s.inPred p n then BitVec.ofNat 64 (t.payload.toNat % 2) else t.word

/-- Pop one token for each distinct queue-mapped field, in order (R94): the fields with their values, whether some token
was poisoned, and the state after. -/
def popFields (p : Nat) : List RegField → List (RegField × Word) → Bool → State → List (RegField × Word) × Bool × State
  | [], acc, bad, s => (acc, bad, s)
  | r :: rs, acc, bad, s =>
    if !isQueue p r || acc.any (fun x => x.1 == r) then popFields p rs acc bad s
    else match (s.queueView p (queueOf r)).head? with
      | none => popFields p rs acc bad s
      | some h =>
        popFields p rs (acc ++ [(r, s.tokenValue p (queueOf r) h.tok)]) (bad || ctlPoison h.tok.ctl)
          (s.popQueue p (queueOf r) h)

/-- The value of a field: the popped token's, or the register's. -/
def fieldValue (vals : List (RegField × Word)) (c : Core) (r : RegField) : Word :=
  match vals.find? (fun x => x.1 == r) with
  | some (_, w) => w
  | none => c.rx r

/-- A push beyond the production rate, or a data push to a predicate edge (R152). They are faults of execution, raised after
the pops. DEDUCED: log entry 67. -/
def State.pushFault (s : State) (u : Use) : Option Exc :=
  match u.xd with
  | none => none
  | some r =>
    if !isQueue s.cur r then none
    else if s.overRate s.cur (queueOf r) 1 then some (exc 0x01 0x04)
    else if s.outPred s.cur (queueOf r) then some (exc 0x01 0x05)
    else none

/-- An instruction that names a done register as its token source stands after the token that an asynchronous AWAIT took with
it (R44 Token row, R344). -/
def State.takeArc (s : State) (r : RegField) : State :=
  if r = 0 then s
  else match AMap.find s.me.arcs r.toNat with
    | none => s
    | some c => s.mergeClock s.cur c

/-! ### Dependencies (R44, R51, R55) -/

/-- Change the trace of a core. -/
def State.modTrace (s : State) (p : Nat) (f : Trace → Trace) : State :=
  s.modCore p (fun c => { c with firing := { c.firing with trace := f c.firing.trace } })

/-- The keys of the registers that an instruction reads, of its `after` register and of the control flow. -/
def Use.reads (u : Use) : List Nat :=
  u.xs.map (fun (r : RegField) => r.toNat) ++ u.vs.map (fun r => 64 + r.toNat) ++ u.ms.map (fun r => 96 + r.toNat) ++
    u.hs.map (fun r => 112 + r.toNat) ++ [127, 128 + u.c.toNat]

/-- The keys of the registers that it writes at issue; a masked vector result keeps part of what it had. -/
def Use.writes (u : Use) : List Nat :=
  u.xd.toList.map (fun (r : RegField) => r.toNat) ++ u.vd.map (fun r => 64 + r.toNat) ++ u.mds.map (fun r => 96 + r.toNat) ++
    u.hds.map (fun r => 112 + r.toNat) ++ (if u.steers then [127] else [])

/-- A register depends on a read that was served without a merge, or on none. -/
def Trace.set (t : Trace) (k : Nat) (b : Bool) : Trace :=
  let others := t.taint.filter (fun x => x != k)
  { t with taint := if b then k :: others else others, last := t.last.filter (fun x => x != k) }

/-- The results of the latest instruction depend on what it read. -/
def Trace.settled (t : Trace) : Trace := t.last.foldl (fun x k => x.set k t.dep) t

/-- Do the values that an instruction reads depend on such a read? -/
def Trace.depends (t : Trace) (u : Use) : Bool :=
  (u.reads ++ (if u.ms.isEmpty then [] else u.vd.map (fun (r : BitVec 5) => 64 + r.toNat))).any (fun k => t.taint.contains k)

/-- An instruction begins: what it depends on, the registers that it writes, and which local writes stand before what its
done register names (R51). -/
def Trace.begin (t : Trace) (u : Use) : Trace :=
  let t1 := if t.taint.isEmpty && !t.dep then t else t.settled
  { t1 with
    dep := t1.depends u
    last := if t1.taint.isEmpty then [] else u.writes
    upTo := if u.t = 0 then t.upTo else AMap.put t.upTo u.t.toNat (AMap.get 0 t.upTo u.c.toNat) }

/-- The local writes that stand before an instruction through its `after` register (R51). -/
def State.localBefore (s : State) (c : RegField) : Nat := if c = 0 then 0 else AMap.get 0 s.me.firing.trace.upTo c.toNat

/-- The state in which an instruction's sources are popped: its `after` register's arc is taken, and its trace begins. -/
def State.begins (s : State) (u : Use) : State := (s.takeArc u.c).modTrace s.cur (fun t => t.begin u)

/-- Issue an instruction (R93, R94, R95, R103, R104, R149, R151, R152): the faults of R104 in order, the waits, the pops,
then what the instruction does with the values of its fields. -/
def issue (u : Use) (s : State) (k : Regs → State → Out) : Out :=
  if !s.legalOn u then s.raise excEngine
  else match u.bad with
    | some e => s.raise e
    | none =>
      if u.clash || s.queueMisuse u then s.raise excOperand
      else if s.waits u then s.stall
      else
        let popped := popFields s.cur u.xs [] false (s.begins u)
        let s1 := popped.2.2
        if popped.2.1 then s1.raise (exc 0x05 0x01)
        else match s1.pushFault u with
          | some e => s1.raise e
          | none => k (fieldValue popped.1 s1.me) s1

/-- Write a scalar result: to its register, or as a CONSUME token with the firing's tag (R94, R174). -/
def State.putX (s : State) (r : RegField) (v : Word) : State :=
  if isQueue s.cur r then s.pushQueue s.cur (queueOf r) (narrow s.me.firing.tag 0 v []) else s.writeX r v

/-- The instruction writes its scalar result and is done. -/
def State.finishX (s : State) (o : Operands) (v : Word) : Out := .next ((s.putX o.d v).retire o.form)

/-- A done register that completes at once (R96, R97). -/
def State.doneNow (s : State) (t : RegField) (status result : Nat) : State := s.complete s.cur t status result

end Sys2Proof.Machine
end

