-- ==== Sys2Proof/Machine/Flags.lean ====
section
/-! DEFINITION. The sticky floating-point flags of a firing (R70): every operation's flags accrue, and only WRSR clears
them. -/

namespace Sys2Proof.Machine

/-- The flags accrue in `FFLAGS` (R70, R165). -/
def State.accrue (s : State) (f : FFlags) : State :=
  s.modCore s.cur (fun c => { c with firing := { c.firing with fflags := c.firing.fflags ||| f } })

/-- The flags of a list of lane results (R70). -/
def joinFlags (l : List FRes) : FFlags := l.foldl (fun acc r => acc ||| r.flags) 0

end Sys2Proof.Machine
end

