-- ==== Sys2Proof/Machine/Control.lean ====
section
/-! DEFINITION. Control flow, waiting and ending (BR, JMP, LOOP, WAIT, END), the queue and tag instructions (EMIT), and
the system instructions (SYS): R90, R169 to R182. -/

namespace Sys2Proof.Machine

/-! ### Branches and jumps (R90, R169 to R171) -/

/-- The pc goes to a target, bits 1:0 cleared (R90); `cycles` pass. -/
def State.jump (s : State) (target : Word) (cycles : Nat) : State :=
  (s.modCore s.cur (fun c => { c with pc := target &&& ~~~(3 : Word) })).tick cycles

/-- BR (R169): a taken branch costs two cycles more. -/
def branch (rel : Word → Word → Bool) (o : Operands) (s : State) : Out :=
  issue { Use.none with xs := [o.a, o.b], steers := true } s (fun rd s1 =>
    if rel (rd o.a) (rd o.b) then .next (s1.jump (s1.me.pc + branchOffset o) 3) else .next (s1.retire o.form))

/-- BEQ (R169). -/
def execBeq (o : Operands) (s : State) : Out := branch (fun a b => a == b) o s
/-- BNE (R169). -/
def execBne (o : Operands) (s : State) : Out := branch (fun a b => a != b) o s
/-- BLT (R169). -/
def execBlt (o : Operands) (s : State) : Out := branch (fun a b => a.slt b) o s
/-- BGE (R169). -/
def execBge (o : Operands) (s : State) : Out := branch (fun a b => b.sle a) o s
/-- BLTZ (R169). -/
def execBltz (o : Operands) (s : State) : Out := branch (fun a b => a.ult b) o s
/-- BGEZ (R169). -/
def execBgez (o : Operands) (s : State) : Out := branch (fun a b => b.ule a) o s

/-- JMP (R170). -/
def execJmp (o : Operands) (s : State) : Out :=
  issue Use.none s (fun _ s1 => .next (s1.jump (s1.me.pc + branchOffset o) 1))

/-- JAL (R90, R170): the address of the next instruction goes to x31. -/
def execJal (o : Operands) (s : State) : Out :=
  issue { Use.none with xd := some 31 } s (fun _ s1 =>
    .next ((s1.writeX 31 (s1.me.nextPc o.form)).jump (s1.me.pc + branchOffset o) 1))

/-- JR (R90, R170). -/
def execJr (o : Operands) (s : State) : Out :=
  issue { Use.none with xs := [o.a], steers := true } s (fun rd s1 => .next (s1.jump (rd o.a + amoOffset o) 1))

/-- LOOP (R171): the branch is on the value that the write gives x[`D`]; for D = x0, which discards it, on the value that would
have been written. DEDUCED: log entry 70. -/
def execLoop (o : Operands) (s : State) : Out :=
  issue { Use.none with xs := [o.d], xd := some o.d, steers := true } s (fun rd s1 =>
    let n := rd o.d - 1
    if n != 0 then .next ((s1.putX o.d n).jump (s1.me.pc + branchOffset o) 1) else s1.finishX o n)

/-! ### Waiting and ending (R99, R172, R173) -/

/-- The value that a source field would yield now, popping nothing. -/
def State.peekField (s : State) (r : RegField) : Word :=
  if isQueue s.cur r then
    match (s.queueView s.cur (queueOf r)).head? with
    | some h => s.tokenValue s.cur (queueOf r) h.tok
    | none => 0
  else s.me.rx r

/-- The second source as it would be read now. -/
def State.peekSecond (s : State) (o : Operands) : Word := second o s.peekField

/-- WAITT (R172): waits for x[`A`], or for every token register of the firing or slot. -/
def execWaitt (o : Operands) (s : State) : Out :=
  let hold := if o.a = 0 then s.me.pendT != 0 else s.me.pendingX o.a
  issue { Use.none with hold := hold } s (fun _ s1 => .next (s1.retire o.form))

/-- The tokens that WAITQ counts: those of the firing's colour in queue `A`, or the inbox of a sequencer slot (R172). -/
def State.waitqCount (s : State) (o : Operands) : Nat :=
  if isActor s.cur then (s.queueView s.cur (queueOf o.a)).length else s.me.inbox.length

/-- WAITQ (R172). -/
def execWaitq (o : Operands) (s : State) : Out :=
  let hold : Bool := s.waitqCount o < (s.peekSecond o).toNat % 256
  let bad := badIf (isActor s.cur && o.a.toNat < 56)
  issue { Use.none with xs := secondField o, hold := hold, bad := bad } s (fun _ s1 => .next (s1.retire o.form))

/-- The node queue holds an operation of the core (R365). -/
def State.nodeBusy (s : State) (p : Nat) : Bool :=
  isActor p && !(s.firingCtx p).bank.discard && (s.firingCtx p).bank.queue.any (fun q => q.core == p)

/-- May END, HALT or a suspension complete: nothing pending, no result awaited, no node operation (R99, R365)? -/
def State.settled (s : State) (p : Nat) : Bool := (s.core p).quiet && !s.nodeBusy p

/-- END (R153, R173). -/
def execEndFiring (_o : Operands) (s : State) : Out :=
  issue { Use.onActor with hold := !s.settled s.cur } s (fun _ s1 =>
    .next ((s1.leaveSlot s1.cur false).tick 1))

/-- HALT (R99, R173): every waiting AWAIT is withdrawn first, then the slot waits and empties. -/
def execHalt (_o : Operands) (s : State) : Out :=
  if isActor s.cur then s.raise excEngine
  else
    let s1 := s.withdrawAwaits s.cur
    if s1.settled s1.cur then .next ((s1.emptySlot s1.cur).tick 1) else s1.stall

/-! ### Queue and tag instructions (R174 to R177) -/

/-- Is the field a queue name? DEDUCED: log entry 21. -/
def namesQueue (r : RegField) : Bool := 56 ≤ r.toNat

/-- The tag of an emitted token: x[`B`]'s nest with the firing's colour and context (R174). -/
def emitTag (firing tag : Word) : Word := mkTag (tagColour firing) (tagCtx firing) (tagNest tag)

/-- Push one token on queue `on` (R174): to the kind of edge it must go to, within the production rate, and after a result
that is pending for the same queue (R98). -/
def emitToken (o : Operands) (pred bad : Bool) (ctl : Byte) (payload : Word → Word) (s : State) : Out :=
  let n := queueOf o.d
  let hold := s.pushWaits s.cur n 1 pred || s.me.pendingX o.d
  let bad := badIf (!namesQueue o.d || bad || s.outWide s.cur n)
  issue { Use.onActor with xs := [o.a, o.b], hold := hold, bad := bad } s (fun rd s1 =>
      if s1.overRate s1.cur n 1 then s1.raise (exc 0x01 0x04)
      else if s1.outPred s1.cur n != pred then s1.raise (exc 0x01 0x05)
      else .next ((s1.pushQueue s1.cur n
        (narrow (emitTag s1.me.firing.tag (rd o.b)) ctl (payload (rd o.a)) [])).retire o.form))

/-- EMIT (R174): `IMM16`[1:0] is the matching action, `IMM16`[2] last-of-stream. -/
def execEmit (o : Operands) (s : State) : Out :=
  emitToken o false (o.imm.toNat % 4 == 3) (mkCtl false false 0 (o.imm.getLsbD 2) false (o.imm.toNat % 4)) (fun a => a) s

/-- EMITP (R174, R241): the predicate x[`A`][0], as a token of the predicate kind. -/
def execEmitp (o : Operands) (s : State) : Out := emitToken o true false (mkCtl false false 1 false false 0) (fun a => a &&& 1) s

/-- The token that PEEK and TAGRD read: token j of the firing's colour (R175). -/
def State.peekToken (s : State) (o : Operands) (j : Nat) : Option Held := (s.queueView s.cur (queueOf o.a))[j]?

/-- PEEK (R175): the payload of token j, or its control byte. -/
def execPeek (o : Operands) (s : State) : Out :=
  let b := s.peekSecond o
  let tok := s.peekToken o (b.toNat % 256)
  issue { Use.onActor with xs := secondField o, xd := some o.d, hold := tok.isNone, bad := badIf (!namesQueue o.a) } s
    (fun _ s1 => s1.finishX o (match tok with
      | some h => if b.getLsbD 8 then h.tok.ctl.setWidth 64 else h.tok.word
      | none => 0))

/-- TAGRD (R176): the firing's tag, or the head token's. -/
def execTagrd (o : Operands) (s : State) : Out :=
  let head := s.peekToken o 0
  let hold := namesQueue o.a && head.isNone
  let bad := badIf (!namesQueue o.a && o.a != 0)
  issue { Use.onActor with xd := some o.d, hold := hold, bad := bad } s
    (fun _ s1 => s1.finishX o (match namesQueue o.a, head with
      | true, some h => h.tok.tag
      | _, _ => s1.me.firing.tag))

/-- TAGMK's value (R177): field k replaced, deeper fields cleared, the firing's colour and context. -/
def makeTag (tagw : List Nat) (k : Nat) (a b firing : Word) : Word :=
  let t := clearBelow tagw k (setField tagw k b.toNat a)
  mkTag (tagColour firing) (tagCtx firing) (tagNest t)

/-- TAGMK (R177). -/
def execTagmk (o : Operands) (s : State) : Out :=
  let k := o.imm.toNat % 8
  let tagw := (s.firingCtx s.cur).tagw
  let bad := if isActor s.cur && tagw.length ≤ k then some (exc 0x01 0x06) else none
  issue { Use.onActor with xs := [o.a, o.b], xd := some o.d, bad := bad } s
    (fun rd s1 => s1.finishX o (makeTag tagw k (rd o.a) (rd o.b) s1.me.firing.tag))

/-! ### System instructions (R178 to R182) -/

/-- The trap number: `IMM16`, or 0 in the 32-bit form (R179). -/
def trapNumber (o : Operands) : Nat := o.imm.toNat

/-- TRAP and BRK (R179): on an actor the illegal-instruction fault with a detail; on a sequencer a trap that returns to
the next instruction. -/
def softTrap (detail code : Nat) (o : Operands) (s : State) : Out :=
  issue Use.none s (fun _ s1 =>
    if isActor s1.cur then s1.raise (excAt 0x01 detail (trapNumber o))
    else .next ((s1.trapTo s1.cur code (trapNumber o) (s1.me.nextPc o.form)).tick 1))

/-- TRAP (R179). -/
def execTrap (o : Operands) (s : State) : Out := softTrap 0x02 0x10 o s
/-- BRK (R179). -/
def execBrk (o : Operands) (s : State) : Out := softTrap 0x03 0x11 o s

/-- ERET (R181): with no handler active it is the illegal-instruction fault. -/
def execEret (_o : Operands) (s : State) : Out :=
  issue { Use.onSeq with bad := if s.me.trap.act then none else some excIllegal } s
    (fun _ s1 => .next ((s1.trapReturn s1.cur).tick 1))

/-- The range from `SKV.BASE` to the end of the highest loadable section, as extent 15 of the slot (R467, service 1). DEDUCED: log
entry 91. -/
def imageExtent (c : Core) (va : Nat) : Option Extent :=
  match c.image with
  | none => none
  | some e => if e.vbase ≤ va && va < e.vbase + e.size then some { e with rd := true, wr := false, valid := true } else none

/-- The services that gallery slot p requests (R467), by n: the status, the result, the state after. -/
def State.service (s : State) (p n : Nat) (a b : Word) : Nat × Nat × State :=
  match n with
  | 1 =>
    match imageExtent (s.core p) a.toNat with
    | none => (0x29, 0, s)
    | some e => (0, e.vbase, s.modCore p (fun c => { c with extents := AMap.put c.extents 15 e }))
  | 2 => (0, 0, s.postEvent (sequencerNum p) 6 (a.toNat + b.toNat * 2 ^ 64))
  | 3 => (0, s.cycle, s)
  | _ => (0x29, 0, s)

/-- A system call is on its way to the root's service, whose reply DONE_COMPLETION brings (R180). The slot goes on. -/
def State.callService (s : State) (o : Operands) (a b : Word) : State :=
  let c : Cmd :=
    { id := s.z.nextId, core := s.cur, gal := s.galleryOf s.cur, pc := s.me.pc, next := s.me.nextPc o.form, done := o.t, region := 0, ctx := 0, colour := 0,
      gen := 0, kind := .sysc o.imm.toNat a b }
  ({ s with cmds := s.cmds ++ [c], z := { s.z with nextId := s.z.nextId + 1 } }.modCore s.cur (fun k => k.markT o.t)).retire o.form

/-- SYSC (R180, R467): on a gallery sequencer the call goes to the root's service and x[`T`] awaits the reply; on the root
sequencer it traps. -/
def sysCall (o : Operands) (s : State) : Out :=
  issue { Use.onSeq with xs := [o.a, o.b], t := o.t } s (fun rd s1 =>
    match engineOf s1.cur with
    | .root => .next ((s1.trapTo s1.cur 0x12 o.imm.toNat (s1.me.nextPc o.form)).tick 1)
    | _ => .next (s1.callService o (rd o.a) (rd o.b)))

/-- SYSC 1 (R467): the slot's own image becomes extent 15. -/
def execSyscImageExtent (o : Operands) (s : State) : Out := sysCall o s
/-- SYSC 2 (R467): a slot event. -/
def execSyscSlotEvent (o : Operands) (s : State) : Out := sysCall o s
/-- SYSC 3 (R467): the package timestamp. -/
def execSyscTimestamp (o : Operands) (s : State) : Out := sysCall o s

/-- IDLE (R182): waits for x[`A`] cycles; the instruction issues again with the full count after a suspension. -/
def execIdle (o : Operands) (s : State) : Out :=
  issue { Use.none with xs := [o.a] } s (fun rd s1 =>
    let n := (rd o.a).toNat
    if n = 0 then .next (s1.retire o.form)
    else .next ((s1.modCore s1.cur (fun c => { c with run := .idle s1.cycle n (c.nextPc o.form) false })).tick 1))

/-- Has an IDLE's count expired, or has an arrival or a completion ended it (R182)? -/
def Core.idleOver (c : Core) (cycle : Nat) : Option Word :=
  match c.run with
  | .idle since n next woken => if woken || since + n ≤ cycle then some next else none
  | _ => none

/-- IDLE_END (R182): the core goes on at the next instruction; while the IDLE has still to wait, nothing changes. -/
def execIdleEnd (core : Nat) (s : State) : Out :=
  match (s.core core).idleOver s.cycle with
  | none => .next s
  | some next => .next (s.modCore core (fun c => { c with run := .running, pc := next }))

end Sys2Proof.Machine
end

