-- ==== Sys2Proof/Machine/Local.lean ====
section
/-! DEFINITION. Local memory and slot data memory (R51, R125, R126, R217, R218): the areas that a firing may reach, reads
and writes, their poison (R143, R144), and a firing's failed ranges (R232). -/

namespace Sys2Proof.Machine

/-- The first byte above a context's block (R125). -/
def TileCtx.blockTop (c : TileCtx) : Nat := c.blockBase + c.blockSize
/-- The save area (R125, R155). -/
def TileCtx.saveBase (c : TileCtx) : Nat := c.blockTop - 16384
/-- The scratch slice of a firing slot: slot 0's is the highest (R125). -/
def TileCtx.scratchBase (c : TileCtx) (slot : Nat) : Nat := c.saveBase - (slot + 1) * c.scr
/-- The template of the persistent-state image (R125). -/
def TileCtx.templateBase (c : TileCtx) : Nat := c.saveBase - 4 * c.scr - c.lsize
/-- The size of a persistent-state area: `RGN.LSIZE` rounded up to 64 (R125). -/
def roundUp (n k : Nat) : Nat := (n + k - 1) / k * k
/-- The persistent-state area of a colour (R12, R125). -/
def TileCtx.areaOf (c : TileCtx) (colour : Nat) : Nat := AMap.get 0 c.areas colour

/-- Are the bytes inside a range? -/
def within (a n base size : Nat) : Bool := base ≤ a && a + n ≤ base + size

/-- May a core access these local bytes (R125, R217, R218)? -/
def State.localOk (s : State) (p a n : Nat) : Bool :=
  if isActor p then
    let c := s.firingCtx p
    (AMap.has c.areas (s.core p).firing.colour && within a n (c.areaOf (s.core p).firing.colour) c.lsize) ||
      within a n (c.scratchBase (slotOf p)) c.scr
  else within a n 0 0x10000

/-- The local memory that a core reaches: its tile's, or a sequencer slot's data memory. -/
def State.localMem (s : State) (p : Nat) : Memory := if isActor p then (s.tile (tileOf p)).loc else (s.core p).data
/-- Its poison marks. -/
def State.localPoison (s : State) (p : Nat) : AMap Nat :=
  if isActor p then (s.tile (tileOf p)).locPoison else (s.core p).dataPoison
/-- Replace it. -/
def State.setLocal (s : State) (p : Nat) (m : Memory) (q : AMap Nat) : State :=
  if isActor p then s.modTile (tileOf p) (fun t => { t with loc := m, locPoison := q })
  else s.modCore p (fun c => { c with data := m, dataPoison := q })

/-- Poison marks after the bytes [a, a + n) have been written: a poisoned write marks its units, a write of a whole line
ends the line's poison (R144). -/
def writePoison (q : AMap Nat) (a n : Nat) (bad : Bool) : AMap Nat :=
  let line := a / 64
  let mask := AMap.get 0 q line
  if bad then AMap.put q line (mask ||| foldUp (fun i m => m ||| 2 ^ ((a + i) % 64 / 8)) (min n (64 - a % 64)) 0)
  else if a % 64 = 0 && 64 ≤ n then AMap.erase q line
  else q

/-- Do the bytes lie in the scratch slice of an actor's firing (R125)? -/
def State.inScratch (s : State) (p a n : Nat) : Bool :=
  isActor p && within a n ((s.firingCtx p).scratchBase (slotOf p)) (s.firingCtx p).scr

/-- A byte of a firing's scratch slice: what the firing has written there; any other byte is a free value (R126). -/
def State.scratchByte (s : State) (p a : Nat) : Nat :=
  let f := (s.core p).firing
  if f.wrote.any (fun r => r.1 ≤ a && a < r.1 + r.2) then (Memory.read (s.localMem p) a).toNat
  else (Config.freeWord (f.scratch + (a - (s.firingCtx p).scratchBase (slotOf p)))).toNat % 256

/-- Read local bytes. -/
def State.localRead (s : State) (p a n : Nat) : Nat :=
  if s.inScratch p a n then foldUp (fun i v => v + s.scratchByte p (a + i) * 2 ^ (8 * i)) n 0
  else Memory.readN (s.localMem p) a n

/-- The firing has written these bytes of its scratch slice. -/
def Firing.writes (f : Firing) (a n : Nat) : Firing :=
  if f.wrote.any (fun r => r.1 ≤ a && a + n ≤ r.1 + r.2) then f else { f with wrote := (a, n) :: f.wrote }
/-- Do the bytes touch a poisoned line (R144)? -/
def State.localBad (s : State) (p a n : Nat) : Bool :=
  (upTo ((a % 64 + n + 63) / 64)).any (fun i => AMap.get 0 (s.localPoison p) (a / 64 + i) != 0)
/-- Write local bytes of one line. -/
def State.localWrite (s : State) (p a n v : Nat) (bad : Bool) : State :=
  let s1 := s.setLocal p (Memory.writeN (s.localMem p) a n v) (writePoison (s.localPoison p) a n bad)
  if s.inScratch p a n then s1.modCore p (fun c => { c with firing := c.firing.writes a n }) else s1

/-! ### The order of local accesses (R51) -/

/-- The parts of [a, a + n) that lie in one unit of 8 bytes each: the unit, the first byte in it, and how many. -/
def unitParts (a n : Nat) : List (Nat × Nat × Nat) :=
  (upTo ((a % 8 + n + 7) / 8)).map (fun k =>
    let u := a / 8 + k
    let lo := max a (8 * u)
    (u, lo % 8, min (a + n) (8 * u + 8) - lo))

/-- A unit with nothing in it. -/
def LocUnit.none : LocUnit := { value := 0, covers := 0, live := 0, bad := false }

/-- Bytes `lo` to `lo + n - 1` of a unit are replaced. -/
def LocUnit.put (x : LocUnit) (lo n v : Nat) (bad : Bool) : LocUnit :=
  let mask := (2 ^ n - 1) * 2 ^ lo
  let old := x.value >>> (8 * lo) % 2 ^ (8 * n) * 2 ^ (8 * lo)
  { value := x.value - old + v % 2 ^ (8 * n) * 2 ^ (8 * lo), covers := x.covers ||| mask, live := x.live ||| mask, bad := x.bad || bad }

/-- A copy or a stream unit has written local bytes, which wait for its completion. -/
def locPut (m : AMap LocUnit) (a n v : Nat) (bad : Bool) : AMap LocUnit :=
  (unitParts a n).foldl (fun m p =>
    AMap.modify LocUnit.none m p.1 (fun x => x.put p.2.1 p.2.2 (v >>> (8 * (8 * p.1 + p.2.1 - a))) bad)) m

/-- The bytes from `a` on as the copy or the stream unit sees them: its own where it has written, otherwise `base`'s. -/
def locOver (m : AMap LocUnit) (a n base : Nat) : Nat :=
  foldUp (fun i acc =>
    let x := AMap.get LocUnit.none m ((a + i) / 8)
    let b := if x.live.testBit ((a + i) % 8) then x.value >>> (8 * ((a + i) % 8)) else base >>> (8 * i)
    acc + b % 256 * 2 ^ (8 * i)) n 0

/-- The firing has written these bytes itself in the meantime, and its write is the last. DEDUCED: log entry 68. -/
def locHide (m : AMap LocUnit) (a n : Nat) : AMap LocUnit :=
  if m.isEmpty then m
  else (unitParts a n).foldl (fun m p => match AMap.find m p.1 with
    | none => m
    | some x => AMap.put m p.1 { x with live := x.live - (x.live &&& (2 ^ p.2.2 - 1) * 2 ^ p.2.1) }) m

/-- Do two cores share a local memory? -/
def sharesLocal (p q : Nat) : Bool := p == q || (isActor p && isActor q && tileOf p == tileOf q)

/-- A firing or a slot writes local bytes: at once for itself, later for its copies, its stream unit and its matrix node, which
are ordered after it only by `after` (R51). -/
def State.coreWrite (s : State) (p a n v : Nat) : State :=
  let old := s.localRead p a n
  let s1 := (s.localWrite p a n v false).modTrace p (fun t =>
    { t with writes := { num := t.count + 1, addr := a, size := n, old := old } :: t.writes, count := t.count + 1 })
  { s1 with
    copies := s1.copies.map (fun (c : Copy) => if sharesLocal p c.core then { c with loc := locHide c.loc a n } else c)
    streams := s1.streams.map (fun (j : StreamJob) => if sharesLocal p j.core then { j with loc := locHide j.loc a n } else j) }

/-- The done register of a local store stands after it, and after the firing's earlier local writes (R51). -/
def State.noteStore (s : State) (t : RegField) : State :=
  if t = 0 then s else s.modTrace s.cur (fun x => { x with upTo := AMap.put x.upTo t.toNat x.count })

/-- Put back the bytes that a write replaced, where it reaches [a, a + n). -/
def LocWrite.undo (w : LocWrite) (a n v : Nat) : Nat :=
  foldUp (fun i acc =>
    let b := if w.addr ≤ a + i && a + i < w.addr + w.size then w.old >>> (8 * (a + i - w.addr)) else v >>> (8 * i)
    acc + b % 256 * 2 ^ (8 * i)) n 0

/-- Local bytes as a copy, a stream unit or a matrix node reads them: it may not yet see the core's latest `stale` writes, but
for the first `before` of them, which `after` puts before it (R51). -/
def State.asyncRead (s : State) (p before stale a n : Nat) : Nat :=
  let ws := ((s.core p).firing.trace.writes.takeWhile (fun w => before < w.num)).take stale
  ws.foldl (fun v w => w.undo a n v) (s.localRead p a n)

/-- The lines of which every byte is covered. -/
def wholeLines (m : AMap LocUnit) : List Nat :=
  (m.filter (fun x => x.1 % 8 == 0 && (upTo 8).all (fun k => (AMap.get LocUnit.none m (x.1 + k)).covers == 255))).map
    (fun x => x.1 / 8)

/-- The local writes of a copy or a stream unit take effect at its completion (R51); a write of a whole line ends its poison
(R144). -/
def State.commitLocal (s : State) (p : Nat) (m : AMap LocUnit) : State :=
  let s1 := if m.isEmpty then s
    else s.setLocal p (s.localMem p) ((wholeLines m).foldl (fun q l => AMap.erase q l) (s.localPoison p))
  m.foldl (fun st x =>
    if x.2.live = 255 then st.localWrite p (8 * x.1) 8 x.2.value x.2.bad
    else foldUp (fun i st =>
      if x.2.live.testBit i then st.localWrite p (8 * x.1 + i) 1 (x.2.value >>> (8 * i) % 256) x.2.bad else st) 8 st) s1

/-- What a copy or a STRM instruction has still to place in local memory. -/
def State.staged (s : State) (op : Nat) : Option (Nat × AMap LocUnit) :=
  match s.copies.find? (fun c => c.op == op) with
  | some c => some (c.core, c.loc)
  | none => (s.streams.find? (fun j => j.op == op)).map (fun j => (j.core, j.loc))

/-- A copy or a STRM instruction stops where it is: what it has made completes, and nothing more is made. -/
def State.cutJob (s : State) (op : Nat) : State :=
  let s1 := match s.staged op with
    | some (p, m) => s.commitLocal p m
    | none => s
  { s1 with
    z := { s1.z with ops := s1.z.ops.map (fun o => if o.id == op then { o with pending := false, future := [] } else o) }
    copies := s1.copies.filter (fun c => c.op != op)
    streams := s1.streams.filter (fun c => c.op != op) }

/-! ### Failed ranges (R232) -/

/-- Do the bytes touch a failed range of the firing, in the same space? -/
def Firing.failedAt (f : Firing) (device : Bool) (a n : Nat) : Bool :=
  f.failed.any (fun r => r.device == device && r.addr < a + n && a < r.addr + r.size)

/-- The copy-failure fault of an access (R157, R232), if the firing has it. -/
def State.copyFault (s : State) (p : Nat) (device : Bool) (a n : Nat) : Option Exc :=
  if isActor p && (s.core p).firing.failedAt device a n then
    some (if device then excAt 0x06 0 a else excLocal 0x06 0 a)
  else none

/-- The checks of a local access of `n` bytes at a 64-bit address, in order: alignment, area, and for a read the failed
ranges and poison (R125, R144, R211, R217, R218, R232). -/
def State.localFault (s : State) (p : Nat) (a : Word) (n align : Nat) (read : Bool) : Option Exc :=
  if a.toNat % align != 0 then some (excLocal 0x03 0 a.toNat)
  else if 2 ^ 21 ≤ a.toNat || !s.localOk p a.toNat n then some (excLocal 0x04 0x02 a.toNat)
  else if !read then none
  else match s.copyFault p false a.toNat n with
    | some e => some e
    | none => if s.localBad p a.toNat n then some (excLocal 0x05 0 a.toNat) else none

end Sys2Proof.Machine
end

