-- ==== Sys2Proof/Machine/Mem.lean ====
section
/-! DEFINITION. The memory families LD, ST, LOC, AMO and ORD (R210 to R224): the checks at issue, the machine requests
they make, and the done registers that complete at issue. -/

namespace Sys2Proof.Machine

/-! ### What a memory form asks of the machine (R42, R212, R213) -/

/-- The scope: device in a 32-bit form. -/
def opScope (o : Operands) : Scope := if o.form = .w32 then .device else scopeOf o.md
/-- Does the form acquire? -/
def opAcquires (o : Operands) (isWrite : Bool) : Bool := o.form != .w32 && acquires o.md isWrite
/-- Does the form release? -/
def opReleases (o : Operands) (isWrite : Bool) : Bool := o.form != .w32 && releases o.md isWrite

/-- The operation that an instruction of the issuing core makes, without its requests. -/
def State.newOp (s : State) (o : Operands) (isWrite : Bool) : MemOp :=
  let actor := isActor s.cur
  { MemOp.empty s.cur (some s.cur) with
    scope := opScope o
    acquire := opAcquires o isWrite
    release := opReleases o isWrite
    done := o.t
    inst := if actor then some (s.firingInst s.cur) else none
    gen := (s.region s.me.firing.region).gen
    tagCol := s.colourTag s.cur
    tile := if actor then some (tileOf s.cur) else none
    pc := s.me.pc }

/-- Put the operation in the issue buffer, mark its destination and its done register, and go on (R96, R212). -/
def State.launchOp (s : State) (op : MemOp) (d : RegField) (o : Operands) : Out :=
  .next (((s.addOp op s.cur).modCore s.cur (fun c => (c.markX d).markT o.t)).retire o.form)

/-- The checks of a device access, in order: alignment, the extent, and for a read the failed ranges (R132, R211, R232);
the physical address, the key and the stable bit where none fails. -/
def State.deviceCheck (s : State) (a : Word) (n align : Nat) (k : ReqKind) : Except Exc (Nat × Nat × Bool) :=
  if a.toNat % align != 0 then .error (excAt 0x03 0 a.toNat)
  else match s.translate (s.extentsOf s.cur) a.toNat n k with
    | none => .error (excAt 0x04 0 a.toNat)
    | some r =>
      match (if k == .write then none else s.copyFault s.cur true a.toNat n) with
      | some e => .error e
      | none => .ok r

/-! ### LD (R214, R215) -/

/-- LD of n bytes: the read is made, its value comes back when the operation completes. -/
def loadOp (n : Nat) (signed ro : Bool) (o : Operands) (s : State) : Out :=
  issue ({ Use.none with xs := o.a :: secondField o, xd := some o.d }.tokens o) s (fun rd s1 =>
    let va := rd o.a + second o rd
    match s1.deviceCheck va n n (if ro then .readOnly else .read) with
    | .error e => s1.raise e
    | .ok (pa, key, stb) =>
      let kind := if ro && stb then .readOnly else .read
      s1.launchOp { s1.newOp o false with
        reqs := [Req.make kind va.toNat pa n 0 key]
        sink := .xreg o.d n signed
        result := n } o.d o)

/-- LD.B (R214). -/
def execLdB (o : Operands) (s : State) : Out := loadOp 1 true false o s
/-- LD.H (R214). -/
def execLdH (o : Operands) (s : State) : Out := loadOp 2 true false o s
/-- LD.W (R214). -/
def execLdW (o : Operands) (s : State) : Out := loadOp 4 true false o s
/-- LD.D (R214). -/
def execLdD (o : Operands) (s : State) : Out := loadOp 8 true false o s
/-- LD.BZ (R214). -/
def execLdBz (o : Operands) (s : State) : Out := loadOp 1 false false o s
/-- LD.HZ (R214). -/
def execLdHz (o : Operands) (s : State) : Out := loadOp 2 false false o s
/-- LD.WZ (R214). -/
def execLdWz (o : Operands) (s : State) : Out := loadOp 4 false false o s
/-- LD.ROB (R215). -/
def execLdRob (o : Operands) (s : State) : Out := loadOp 1 true true o s
/-- LD.ROH (R215). -/
def execLdRoh (o : Operands) (s : State) : Out := loadOp 2 true true o s
/-- LD.ROW (R215). -/
def execLdRow (o : Operands) (s : State) : Out := loadOp 4 true true o s
/-- LD.ROD (R215). -/
def execLdRod (o : Operands) (s : State) : Out := loadOp 8 true true o s

/-! ### ST (R216) -/

/-- ST of the n low bytes of x[`D`]. -/
def storeOp (n : Nat) (o : Operands) (s : State) : Out :=
  issue ({ Use.none with xs := o.d :: o.a :: secondField o }.tokens o) s (fun rd s1 =>
    let va := rd o.a + second o rd
    match s1.deviceCheck va n n .write with
    | .error e => s1.raise e
    | .ok (pa, key, _) =>
      s1.launchOp { s1.newOp o true with
        reqs := [Req.make .write va.toNat pa n ((rd o.d).toNat % 2 ^ (8 * n)) key]
        result := n } 0 o)

/-- ST.B (R216). -/
def execStB (o : Operands) (s : State) : Out := storeOp 1 o s
/-- ST.H (R216). -/
def execStH (o : Operands) (s : State) : Out := storeOp 2 o s
/-- ST.W (R216). -/
def execStW (o : Operands) (s : State) : Out := storeOp 4 o s
/-- ST.D (R216). -/
def execStD (o : Operands) (s : State) : Out := storeOp 8 o s

/-! ### LOC (R217, R218) -/

/-- A value of n bytes, sign-extended (R214, R217). -/
def extendBytes (n : Nat) (signed : Bool) (v : Nat) : Word :=
  if signed && v.testBit (8 * n - 1) then BitVec.ofInt 64 ((v : Int) - 2 ^ (8 * n)) else BitVec.ofNat 64 v

/-- LDL of n bytes: the value is written at once, and so is the done register. -/
def localLoad (n : Nat) (o : Operands) (s : State) : Out :=
  issue ({ Use.none with xs := o.a :: secondField o, xd := some o.d }.tokens o) s (fun rd s1 =>
    let a := rd o.a + second o rd
    match s1.localFault s1.cur a n n true with
    | some e => s1.raise e
    | none =>
      ((s1.doneNow o.t 0 n).finishX o (extendBytes n true (s1.localRead s1.cur a.toNat n))))

/-- STL of the n low bytes of x[`D`]. -/
def localStore (n : Nat) (o : Operands) (s : State) : Out :=
  issue ({ Use.none with xs := o.d :: o.a :: secondField o }.tokens o) s (fun rd s1 =>
    let a := rd o.a + second o rd
    match s1.localFault s1.cur a n n false with
    | some e => s1.raise e
    | none =>
      .next ((((s1.coreWrite s1.cur a.toNat n ((rd o.d).toNat % 2 ^ (8 * n))).noteStore o.t).doneNow o.t 0 n).retire o.form))

/-- LDL.B (R217). -/
def execLdlB (o : Operands) (s : State) : Out := localLoad 1 o s
/-- LDL.H (R217). -/
def execLdlH (o : Operands) (s : State) : Out := localLoad 2 o s
/-- LDL.W (R217). -/
def execLdlW (o : Operands) (s : State) : Out := localLoad 4 o s
/-- LDL.D (R217). -/
def execLdlD (o : Operands) (s : State) : Out := localLoad 8 o s
/-- STL.B (R217). -/
def execStlB (o : Operands) (s : State) : Out := localStore 1 o s
/-- STL.H (R217). -/
def execStlH (o : Operands) (s : State) : Out := localStore 2 o s
/-- STL.W (R217). -/
def execStlW (o : Operands) (s : State) : Out := localStore 4 o s
/-- STL.D (R217). -/
def execStlD (o : Operands) (s : State) : Out := localStore 8 o s

/-! ### AMO (R219) -/

/-- An atomic: FN's function, `n` bytes; AMOCAS also reads x[`D`] as the compare value. -/
def atomicOp (fn n : Nat) (o : Operands) (s : State) : Out :=
  let sources := if fn = 10 then [o.d, o.a, o.b] else [o.a, o.b]
  issue ({ Use.none with xs := sources, xd := some o.d }.tokens o) s (fun rd s1 =>
    let va := rd o.a + amoOffset o
    match s1.deviceCheck va n n .atomic with
    | .error e => s1.raise e
    | .ok (pa, key, _) =>
      s1.launchOp { s1.newOp o true with
        acquire := o.form != .w32 && o.md.getLsbD 2
        release := o.form != .w32 && o.md.getLsbD 3
        reqs := [Req.make .atomic va.toNat pa n (rd o.b).toNat key]
        amo := fn
        cmp := if fn = 10 then (rd o.d).toNat else 0
        sink := .xreg o.d n false } o.d o)

/-- AMOADD (R219). -/
def execAmoadd (o : Operands) (s : State) : Out := atomicOp 0 8 o s
/-- AMOFADD (R219). -/
def execAmofadd (o : Operands) (s : State) : Out := atomicOp 1 4 o s
/-- AMOMIN (R219). -/
def execAmomin (o : Operands) (s : State) : Out := atomicOp 2 8 o s
/-- AMOMAX (R219). -/
def execAmomax (o : Operands) (s : State) : Out := atomicOp 3 8 o s
/-- AMOMINZ (R219). -/
def execAmominz (o : Operands) (s : State) : Out := atomicOp 4 8 o s
/-- AMOMAXZ (R219). -/
def execAmomaxz (o : Operands) (s : State) : Out := atomicOp 5 8 o s
/-- AMOAND (R219). -/
def execAmoand (o : Operands) (s : State) : Out := atomicOp 6 8 o s
/-- AMOOR (R219). -/
def execAmoor (o : Operands) (s : State) : Out := atomicOp 7 8 o s
/-- AMOXOR (R219). -/
def execAmoxor (o : Operands) (s : State) : Out := atomicOp 8 8 o s
/-- AMOSWP (R219). -/
def execAmoswp (o : Operands) (s : State) : Out := atomicOp 9 8 o s
/-- AMOCAS (R219). -/
def execAmocas (o : Operands) (s : State) : Out := atomicOp 10 8 o s
/-- AMOINC (R219). -/
def execAmoinc (o : Operands) (s : State) : Out := atomicOp 11 8 o s

/-! ### ORD (R220 to R224) -/

/-- FENCE (R220): the order field is ignored. -/
def execFence (o : Operands) (s : State) : Out :=
  issue (Use.none.tokens o) s (fun _ s1 =>
    s1.launchOp { s1.newOp o false with
      acquire := false
      release := false
      isFence := true
      reqs := [Req.make .fence 0 0 0 0 0] } 0 o)

/-- The entries that INVRO drops: those of the firing's colour, or on a sequencer every entry of its gallery (R221). -/
def State.invalidateRo (s : State) (p : Nat) : State :=
  s.roDrop (s.galleryOf p) (fun e => !isActor p || e.col == s.colourTag p)

/-- INVRO (R221): takes effect at issue, and its done register completes at issue (R212). -/
def execInvro (o : Operands) (s : State) : Out :=
  issue (Use.none.tokens o) s (fun _ s1 => .next (((s1.invalidateRo s1.cur).doneNow o.t 0 0).retire o.form))

/-- Fill the read-only cache with the eight units of a line (R52, R222). -/
def State.roFillLine (s : State) (g col line key : Nat) : State :=
  foldUp (fun i st => st.roFill g col (64 * line + 8 * i) key) 8 s

/-- PREF (R222, R223): a hint, dropped with status 0x01 outside every readable extent or on a poisoned line; level 2
fills the read-only cache where the extent is stable. -/
def execPref (o : Operands) (s : State) : Out :=
  issue { Use.none with xs := [o.a], t := o.t } s (fun rd s1 =>
    let va := (rd o.a + immExt o).toNat / 64 * 64
    let d := domainOf s1.cur
    match s1.translate (s1.extentsOf s1.cur) va 64 .read with
    | none => .next ((s1.doneNow o.t 0x01 0).retire o.form)
    | some (pa, key, stb) =>
      if (s1.view d).poisoned pa then .next ((s1.doneNow o.t 0x01 0).retire o.form)
      else
        let s2 := if o.d.toNat % 4 = 2 && stb && d < 16 then s1.roFillLine d (s1.colourTag s1.cur) (pa / 64) key else s1
        .next ((s2.doneNow o.t 0 0).retire o.form))

/-- The firing's WAITVs that are still unserved (R224). -/
def State.openWaitvs (s : State) (p : Nat) : List MemOp :=
  s.z.ops.filter (fun op => op.core == some p && op.cond.isSome && op.unserved)

/-- WAITV (R224): the condition is `IMM16`[2:0]; a fifth open WAITV of a firing waits. -/
def execWaitv (o : Operands) (s : State) : Out :=
  let hold : Bool := isActor s.cur && 4 ≤ (s.openWaitvs s.cur).length
  issue ({ Use.none with xs := [o.a, o.b], xd := some o.d, hold := hold, bad := badIf (6 ≤ o.imm.toNat) }.tokens o) s
    (fun rd s1 =>
      match s1.deviceCheck (rd o.a) 8 8 .read with
      | .error e => s1.raise e
      | .ok (pa, key, _) =>
        s1.launchOp { s1.newOp o false with
          reqs := [Req.make .read (rd o.a).toNat pa 8 0 key]
          cond := some o.imm.toNat
          md := if o.form = .w32 then 2 else o.md.toNat
          cmp := (rd o.b).toNat
          sink := .xreg o.d 8 false
          result := 8 } o.d o)

end Sys2Proof.Machine
end

