-- ==== Sys2Proof/Machine/Vec.lean ====
section
/-! DEFINITION. The vector families VALU, VCMP, VCVT, VMOV, VRED and the masks MSK (R186 to R196, R204). -/

namespace Sys2Proof.Machine

/-! ### Lanes and masks (R187 to R189) -/

/-- The bits of lane i of a vector register. -/
def rawLane (t : ElemType) (v : Vec) (i : Nat) : Nat := (v.toNat >>> (laneBits t * i)) % 2 ^ laneBits t

/-- The element in lane i of a vector register: bits 7:6 of a 6-bit element's lane are ignored (R61). -/
def laneAt (t : ElemType) (v : Vec) (i : Nat) : Nat := rawLane t v i % 2 ^ elemBits t

/-- The register whose lane i is `f i`. DEDUCED: log entry 52. -/
def packLanes (t : ElemType) (f : Nat → Nat) : Vec :=
  BitVec.ofNat 512 (foldUp (fun i acc => acc + (f i % 2 ^ laneBits t) * 2 ^ (laneBits t * i)) (laneCount t) 0)

/-- The bit of a mask that governs lane i (R188). -/
def maskIndex (t : ElemType) (i : Nat) : Nat := if laneBits t = 4 then i / 2 else i

/-- Is lane i active (R188)? -/
def laneActive (o : Operands) (t : ElemType) (m : Word) (i : Nat) : Bool := !extMskd o || m.getLsbD (maskIndex t i)

/-- The instruction's element type (R187). -/
def vtype (o : Operands) : ElemType := typeOf (extType o)

/-- The accepted element types of R190: F, I, F and I, all, and those of VPERM. -/
def okF (c : Nat) : Bool := c ≤ 2
/-- I: the integer types. -/
def okI (c : Nat) : Bool := 8 ≤ c && c ≤ 15
/-- F and I. -/
def okFI (c : Nat) : Bool := okF c || okI c
/-- Every type an actor accepts (R61). -/
def okAll (c : Nat) : Bool := c ≤ 15
/-- VPERM's types. -/
def okPerm (c : Nat) : Bool := c ≤ 6 || (8 ≤ c && c ≤ 13)

/-- The operand faults of a vector form (R68, R103, R190). -/
def vectorBad (ok : Nat → Bool) (o : Operands) : Option Exc := badIf (!ok (extType o) || 5 ≤ extRnd o)

/-- The mask register that the form reads. -/
def maskField (o : Operands) : List (BitVec 4) := if extMskd o then [extMreg o] else []

/-- The vector field that `B` names, where the form reads it (R89). -/
def vsecondField (o : Operands) : List (BitVec 5) := if o.form = .w96 then [] else [vreg o.b]

/-- Lane i of v[`B`], or the literal's low bits (R89). -/
def lane2 (o : Operands) (t : ElemType) (c : Core) (i : Nat) : Nat :=
  if o.form = .w96 then o.lit.toNat % 2 ^ elemBits t else laneAt t (c.rv (vreg o.b)) i

/-- Active lanes take their results, the others keep the old value (R189); the flags of the active lanes accrue. -/
def State.finishV (s : State) (o : Operands) (t : ElemType) (f : Nat → FRes) : Out :=
  let c := s.me
  let m := c.rm (extMreg o)
  let rs := (upTo (laneCount t)).map (fun i => if laneActive o t m i then f i else ⟨rawLane t (c.rv (vreg o.d)) i, 0⟩)
  let v := packLanes t (fun i => (rs.getD i ⟨0, 0⟩).bits)
  .next (((s.accrue (joinFlags rs)).modCore s.cur (fun c => c.wv (vreg o.d) v)).retire o.form)

/-- An instruction of v[`A`] and the second source; `readsD` says whether it also reads v[`D`] as data (R190). -/
def vectorOp2 (ok : Nat → Bool) (f : Rnd → ElemType → Nat → Nat → Nat → FRes) (o : Operands) (s : State) : Out :=
  issue { Use.onActor with vs := vreg o.a :: vsecondField o, vd := [vreg o.d], ms := maskField o, bad := vectorBad ok o } s
    (fun _ s1 =>
      let t := vtype o
      let c := s1.me
      s1.finishV o t (fun i => f (rndOf (extRnd o)) t (laneAt t (c.rv (vreg o.a)) i) (lane2 o t c i)
        (laneAt t (c.rv (vreg o.d)) i)))

/-- An instruction of v[`A`] alone. -/
def vectorOp1 (ok : Nat → Bool) (f : Rnd → ElemType → Nat → FRes) (o : Operands) (s : State) : Out :=
  issue { Use.onActor with vs := [vreg o.a], vd := [vreg o.d], ms := maskField o, bad := vectorBad ok o } s
    (fun _ s1 =>
      let t := vtype o
      let c := s1.me
      s1.finishV o t (fun i => f (rndOf (extRnd o)) t (laneAt t (c.rv (vreg o.a)) i)))

/-! ### VALU (R191) -/

/-- A lane's integer result, modulo 2^w, with no flag (R62, R191). -/
def intRes (t : ElemType) (v : Int) : FRes := ⟨intBits (elemBits t) v, 0⟩

/-- The float function on a float type, the integer function on an integer type. -/
def laneFn (ff : Rnd → ElemType → Nat → Nat → Nat → FRes) (fi : Int → Int → Int → Int) (m : Rnd) (t : ElemType)
    (a b d : Nat) : FRes :=
  if isFloatType t then ff m t a b d else intRes t (fi (intValue t a) (intValue t b) (intValue t d))

/-- A function of the lane's bits (R191). -/
def bitsFn (f : Nat → Nat → Nat) (_m : Rnd) (_t : ElemType) (a b _d : Nat) : FRes := ⟨f a b, 0⟩

/-- A shift of a lane by the second source modulo the lane's width (R191). -/
def shiftFn (f : Nat → Nat → Nat → Nat) (_m : Rnd) (t : ElemType) (a b _d : Nat) : FRes :=
  ⟨f (elemBits t) a (b % elemBits t) % 2 ^ elemBits t, 0⟩

/-- An arithmetic right shift in w bits (R191). -/
def shiftArith (w a n : Nat) : Nat := if a.testBit (w - 1) then (a >>> n) + (2 ^ w - 2 ^ (w - n)) else a >>> n

/-- VADD (R191). -/
def execVadd (o : Operands) (s : State) : Out := vectorOp2 okFI (laneFn (fun m t a b _ => fAdd t m a b) (fun a b _ => a + b)) o s
/-- VSUB (R191). -/
def execVsub (o : Operands) (s : State) : Out := vectorOp2 okFI (laneFn (fun m t a b _ => fSub t m a b) (fun a b _ => a - b)) o s
/-- VMUL (R191). -/
def execVmul (o : Operands) (s : State) : Out := vectorOp2 okFI (laneFn (fun m t a b _ => fMul t m a b) (fun a b _ => a * b)) o s
/-- VFMA (R191). -/
def execVfma (o : Operands) (s : State) : Out := vectorOp2 okFI (laneFn (fun m t a b d => fFma t m false a b d) (fun a b d => a * b + d)) o s
/-- VFMS (R191). -/
def execVfms (o : Operands) (s : State) : Out := vectorOp2 okFI (laneFn (fun m t a b d => fFma t m true a b d) (fun a b d => a * b - d)) o s
/-- VMIN (R191). -/
def execVmin (o : Operands) (s : State) : Out := vectorOp2 okFI (laneFn (fun _ t a b _ => fMinMax t false a b) (fun a b _ => min a b)) o s
/-- VMAX (R191). -/
def execVmax (o : Operands) (s : State) : Out := vectorOp2 okFI (laneFn (fun _ t a b _ => fMinMax t true a b) (fun a b _ => max a b)) o s
/-- VABS (R191): |a| modulo 2^w on an integer type; only the sign bit on a float type. -/
def execVabs (o : Operands) (s : State) : Out :=
  vectorOp1 okFI (fun _ t a => if isFloatType t then fAbs t a else intRes t (intValue t a).natAbs) o s
/-- VNEG (R191). -/
def execVneg (o : Operands) (s : State) : Out :=
  vectorOp1 okFI (fun _ t a => if isFloatType t then fNeg t a else intRes t (-(intValue t a))) o s
/-- VAND (R191). -/
def execVand (o : Operands) (s : State) : Out := vectorOp2 okAll (bitsFn (fun a b => a &&& b)) o s
/-- VOR (R191). -/
def execVor (o : Operands) (s : State) : Out := vectorOp2 okAll (bitsFn (fun a b => a ||| b)) o s
/-- VXOR (R191). -/
def execVxor (o : Operands) (s : State) : Out := vectorOp2 okAll (bitsFn (fun a b => a ^^^ b)) o s
/-- VSHL (R191). -/
def execVshl (o : Operands) (s : State) : Out := vectorOp2 okI (shiftFn (fun _ a n => a <<< n)) o s
/-- VSHR (R191). -/
def execVshr (o : Operands) (s : State) : Out := vectorOp2 okI (shiftFn (fun _ a n => a >>> n)) o s
/-- VSHA (R191). -/
def execVsha (o : Operands) (s : State) : Out := vectorOp2 okI (shiftFn (shiftArith)) o s

/-! ### VCMP (R192) -/

/-- m[`D`] after a comparison of lanes: a bit for each lane, or for each pair of 4-bit lanes, where it is active; higher
bits are cleared. -/
def compareMask (o : Operands) (t : ElemType) (mask old : Word) (rel : Nat → Bool) : Word :=
  let pairs := laneBits t = 4
  let n := if pairs then laneCount t / 2 else laneCount t
  foldUp (fun j acc =>
    let active := !extMskd o || mask.getLsbD j
    let bit := if active then (if pairs then rel (2 * j) && rel (2 * j + 1) else rel j) else old.getLsbD j
    if bit then acc ||| (1 : Word) <<< j else acc) n 0

/-- A comparison of v[`A`] with the second source. -/
def vectorCompare (ff : ElemType → Nat → Nat → FRes) (fi : Int → Int → Bool) (o : Operands) (s : State) : Out :=
  issue { Use.onActor with vs := vreg o.a :: vsecondField o, ms := maskField o ++ [mreg o.d], mds := [mreg o.d], bad := vectorBad okFI o } s
    (fun _ s1 =>
      let t := vtype o
      let c := s1.me
      let m := c.rm (extMreg o)
      let a := fun i => laneAt t (c.rv (vreg o.a)) i
      let res := fun i =>
        if isFloatType t then ff t (a i) (lane2 o t c i)
        else ⟨(fi (intValue t (a i)) (intValue t (lane2 o t c i))).toNat, 0⟩
      let fl := joinFlags (((upTo (laneCount t)).filter (laneActive o t m)).map res)
      let r := compareMask o t m (c.rm (mreg o.d)) (fun i => (res i).bits == 1)
      .next (((s1.accrue fl).modCore s1.cur (fun k => k.wm (mreg o.d) r)).retire o.form))

/-- VEQ (R192). -/
def execVeq (o : Operands) (s : State) : Out := vectorCompare fEq (fun a b => a == b) o s
/-- VLT (R192). -/
def execVlt (o : Operands) (s : State) : Out := vectorCompare fLt (fun a b => a < b) o s
/-- VLE (R192). -/
def execVle (o : Operands) (s : State) : Out := vectorCompare fLe (fun a b => a ≤ b) o s
/-- VUN (R192). -/
def execVun (o : Operands) (s : State) : Out := vectorCompare fUn (fun _ _ => false) o s

/-! ### VCVT (R193, R194) -/

/-- VCVT (R193): lanes up to the smaller lane count are converted where the destination's lane is active; lanes above are
zero, whatever the mask. -/
def execVcvt (o : Operands) (s : State) : Out :=
  let code := o.b.toNat % 32
  let bad := badIf (16 ≤ code || !okAll (extType o) || 5 ≤ extRnd o)
  issue { Use.onActor with vs := [vreg o.a], vd := [vreg o.d], ms := maskField o, bad := bad } s (fun _ s1 =>
    let src := typeOf code
    let dst := vtype o
    let c := s1.me
    let m := c.rm (extMreg o)
    let n := min (laneCount src) (laneCount dst)
    let rs : List FRes := (upTo (laneCount dst)).map (fun i =>
      if n ≤ i then ⟨0, 0⟩
      else if laneActive o dst m i then
        convertLane src dst (rndOf (extRnd o)) (laneAt src (c.rv (vreg o.a)) i % 2 ^ elemBits src)
      else ⟨rawLane dst (c.rv (vreg o.d)) i, 0⟩)
    let v := packLanes dst (fun i => (rs.getD i ⟨0, 0⟩).bits)
    .next (((s1.accrue (joinFlags rs)).modCore s1.cur (fun k => k.wv (vreg o.d) v)).retire o.form))

/-- VRND (R194). -/
def execVrnd (o : Operands) (s : State) : Out := vectorOp1 okF (fun m t a => fRound t m a) o s

/-- a times 2^k, rounded once (R194). -/
def scaleLane (m : Rnd) (t : ElemType) (a : Nat) (k : Int) : FRes :=
  let f := floatFmt t
  match decodeFloat f a with
  | .nan n fr sn => ⟨quietNan f n fr, if sn then flagNV else 0⟩
  | .inf _ => ⟨a, 0⟩
  | .fin n man e => if man = 0 then ⟨a, 0⟩ else roundFinite t m n man (e + k) false

/-- The signed integer type of a float type's lane width (R194). -/
def laneInt (t : ElemType) : ElemType := if t = .fp32 then .s32 else .s16

/-- VSCL (R194). -/
def execVscl (o : Operands) (s : State) : Out :=
  vectorOp2 okF (fun m t a b _ => scaleLane m t a (intValue (laneInt t) b)) o s

/-- The exponent of a lane (R194). -/
def exponentLane (t : ElemType) (a : Nat) : FRes :=
  let (lo, hi) := intRange (laneInt t)
  match decodeFloat (floatFmt t) a with
  | .nan .. => ⟨intBits (elemBits t) hi, flagNV⟩
  | .inf _ => ⟨intBits (elemBits t) hi, 0⟩
  | .fin _ man e => if man = 0 then ⟨intBits (elemBits t) lo, 0⟩ else ⟨intBits (elemBits t) ((Nat.log2 man : Int) + e), 0⟩

/-- VEXP (R194). -/
def execVexp (o : Operands) (s : State) : Out := vectorOp1 okF (fun _ t a => exponentLane t a) o s

/-! ### VMOV (R195) -/

/-- A lane's value with the bits above a 6-bit element zero (R195). -/
def laneBitsOf (t : ElemType) (v : Nat) : FRes := ⟨v % 2 ^ elemBits t, 0⟩

/-- VMOV (R195). -/
def execVmov (o : Operands) (s : State) : Out := vectorOp1 okAll (fun _ _ a => ⟨a, 0⟩) o s

/-- VBC (R195): x[`A`], or the literal; a 96-bit form ignores `A` (R190). -/
def execVbc (o : Operands) (s : State) : Out :=
  let lit := o.form = .w96
  issue { Use.onActor with xs := if lit then [] else [o.a], vd := [vreg o.d], ms := maskField o, bad := vectorBad okAll o } s
    (fun rd s1 => s1.finishV o (vtype o) (fun _ => laneBitsOf (vtype o) (if lit then o.lit.toNat else (rd o.a).toNat)))

/-- VSEL (R195): an inactive lane takes B. -/
def execVsel (o : Operands) (s : State) : Out :=
  issue { Use.onActor with vs := vreg o.a :: vsecondField o, vd := [vreg o.d], ms := maskField o, bad := vectorBad okAll o } s
    (fun _ s1 =>
      let t := vtype o
      let c := s1.me
      let m := c.rm (extMreg o)
      let v := packLanes t (fun i => if laneActive o t m i then laneAt t (c.rv (vreg o.a)) i else lane2 o t c i)
      .next ((s1.modCore s1.cur (fun k => k.wv (vreg o.d) v)).retire o.form))

/-- VPERM (R195). -/
def execVperm (o : Operands) (s : State) : Out :=
  issue { Use.onActor with vs := vreg o.a :: vsecondField o, vd := [vreg o.d], ms := maskField o, bad := vectorBad okPerm o } s
    (fun _ s1 =>
      let t := vtype o
      let c := s1.me
      s1.finishV o t (fun i => ⟨laneAt t (c.rv (vreg o.a)) (lane2 o t c i % laneCount t), 0⟩))

/-- VSLIDE (R195): s is x[`B`] or `LIT32`, signed. -/
def execVslide (o : Operands) (s : State) : Out :=
  let lit := o.form = .w96
  issue { Use.onActor with xs := typedField o, vs := [vreg o.a], vd := [vreg o.d], ms := maskField o, bad := vectorBad okAll o } s
    (fun rd s1 =>
      let t := vtype o
      let c := s1.me
      let k : Int := if lit then o.lit.toInt else (rd o.b).toInt
      s1.finishV o t (fun i =>
        let j := (i : Int) + k
        ⟨if 0 ≤ j && j < laneCount t then laneAt t (c.rv (vreg o.a)) j.toNat else 0, 0⟩))

/-- VIOTA (R195). -/
def execViota (o : Operands) (s : State) : Out :=
  issue { Use.onActor with xs := [o.a], vd := [vreg o.d], ms := maskField o, bad := vectorBad okI o } s
    (fun rd s1 => s1.finishV o (vtype o) (fun i => laneBitsOf (vtype o) ((rd o.a).toNat + i)))

/-- The lane number that VINS and VXTR name: x[`B`] or `LIT32`, modulo the lane count (R195). -/
def laneNumber (o : Operands) (rd : Regs) : Nat := (typedSecond o rd).toNat % laneCount (vtype o)

/-- VINS (R195): the one lane changes. -/
def execVins (o : Operands) (s : State) : Out :=
  let bad := badIf (extMskd o || !okAll (extType o) || 5 ≤ extRnd o)
  issue { Use.onActor with xs := o.a :: typedField o, vs := [vreg o.d], vd := [vreg o.d], bad := bad } s (fun rd s1 =>
    let t := vtype o
    let old := s1.me.rv (vreg o.d)
    let v := packLanes t (fun i => if i = laneNumber o rd then (rd o.a).toNat % 2 ^ elemBits t else rawLane t old i)
    .next ((s1.modCore s1.cur (fun k => k.wv (vreg o.d) v)).retire o.form))

/-- A lane's value in an x register: extended by an integer type's signedness, zero-extended for a float (R195, R196). -/
def laneWord (t : ElemType) (bits : Nat) : Word :=
  if isSignedInt t then BitVec.ofInt 64 (intValue t (bits % 2 ^ elemBits t)) else BitVec.ofNat 64 (bits % 2 ^ elemBits t)

/-- VXTR (R195). -/
def execVxtr (o : Operands) (s : State) : Out :=
  let bad := badIf (extMskd o || !okAll (extType o) || 5 ≤ extRnd o)
  issue { Use.onActor with xs := typedField o, xd := some o.d, vs := [vreg o.a], bad := bad } s (fun rd s1 =>
    s1.finishX o (laneWord (vtype o) (laneAt (vtype o) (s1.me.rv (vreg o.a)) (laneNumber o rd))))

/-! ### VRED (R196) -/

/-- One level of the fixed tree: neighbours joined, an absent one passes the other on. -/
def treeLevel {α : Type} (node : α → α → α) : List (Option α) → List (Option α)
  | x :: y :: rest =>
    (match x, y with
      | none, y => y
      | x, none => x
      | some a, some b => some (node a b)) :: treeLevel node rest
  | l => l

/-- The reduction over the fixed pairwise tree, `n` levels. -/
def reduceTree {α : Type} (node : α → α → α) : Nat → List (Option α) → Option α
  | 0, l => (l.head?).join
  | n + 1, l => reduceTree node n (treeLevel node l)

/-- The lanes of v[`A`] that take part. -/
def State.redLanes {α : Type} (s : State) (o : Operands) (t : ElemType) (f : Nat → α) : List (Option α) :=
  let c := s.me
  (upTo (laneCount t)).map (fun i =>
    if laneActive o t (c.rm (extMreg o)) i then some (f (laneAt t (c.rv (vreg o.a)) i)) else none)

/-- A float node keeps its result and its flags. -/
def floatNode (f : Nat → Nat → FRes) (a b : FRes) : FRes :=
  let r := f a.bits b.bits
  ⟨r.bits, a.flags ||| b.flags ||| r.flags⟩

/-- An element widened to FP32 for a sum (R67, R196): exact, a narrower type's NaN quieted, and NV for a signalling one (R66); an FP32
element is not widened and stays as it is, a signalling NaN too, until a node takes it. DEDUCED: log entry 53. -/
def widenSum (t : ElemType) (x : Nat) : FRes := if t == .fp32 then ⟨x, 0⟩ else convert t .fp32 .rne x

/-- The reduction of the active lanes: the result as a word, and the flags. -/
def State.reduction (s : State) (o : Operands) (t : ElemType) (sum isMax : Bool) : Word × FFlags :=
  if isFloatType t then
    if sum then
      let r := (reduceTree (floatNode (fAdd .fp32 (rndOf (extRnd o)))) 7 (s.redLanes o t (widenSum t))).getD ⟨0, 0⟩
      (BitVec.ofNat 64 r.bits, r.flags)
    else
      let r := (reduceTree (floatNode (fMinMax t isMax)) 7 (s.redLanes o t (fun x => (⟨x, 0⟩ : FRes)))).getD
        ⟨withSign (floatFmt t) isMax (infBits (floatFmt t)), 0⟩
      (BitVec.ofNat 64 r.bits, r.flags)
  else
    let lanes := s.redLanes o t (fun x => intValue t x)
    if sum then (BitVec.ofInt 64 ((reduceTree (fun a b => a + b) 7 lanes).getD 0), 0)
    else
      let (lo, hi) := intRange t
      (BitVec.ofInt 64 ((reduceTree (fun a b => if isMax then max a b else min a b) 7 lanes).getD (if isMax then lo else hi)), 0)

/-- A reduction of v[`A`] into x[`D`]. -/
def vectorReduce (sum isMax : Bool) (o : Operands) (s : State) : Out :=
  issue { Use.onActor with xd := some o.d, vs := [vreg o.a], ms := maskField o, bad := vectorBad okFI o } s (fun _ s1 =>
    let r := s1.reduction o (vtype o) sum isMax
    (s1.accrue r.2).finishX o r.1)

/-- VRSUM (R196). -/
def execVrsum (o : Operands) (s : State) : Out := vectorReduce true false o s
/-- VRMAX (R196). -/
def execVrmax (o : Operands) (s : State) : Out := vectorReduce false true o s
/-- VRMIN (R196). -/
def execVrmin (o : Operands) (s : State) : Out := vectorReduce false false o s

/-! ### MSK (R204) -/

/-- An instruction of m[`A`] and m[`B`] into m[`D`]. -/
def maskOp (f : Word → Word → Word) (o : Operands) (s : State) : Out :=
  issue { Use.onActor with ms := [mreg o.a, mreg o.b], mds := [mreg o.d] } s (fun _ s1 =>
    let c := s1.me
    .next ((s1.modCore s1.cur (fun k => k.wm (mreg o.d) (f (c.rm (mreg o.a)) (c.rm (mreg o.b))))).retire o.form))

/-- An instruction of m[`A`] into x[`D`]. -/
def maskToX (f : Word → Word) (o : Operands) (s : State) : Out :=
  issue { Use.onActor with ms := [mreg o.a], xd := some o.d } s (fun _ s1 => s1.finishX o (f (s1.me.rm (mreg o.a))))

/-- MAND (R204). -/
def execMand (o : Operands) (s : State) : Out := maskOp (fun a b => a &&& b) o s
/-- MOR (R204). -/
def execMor (o : Operands) (s : State) : Out := maskOp (fun a b => a ||| b) o s
/-- MXOR (R204). -/
def execMxor (o : Operands) (s : State) : Out := maskOp (fun a b => a ^^^ b) o s
/-- MANDN (R204). -/
def execMandn (o : Operands) (s : State) : Out := maskOp (fun a b => a &&& ~~~b) o s
/-- MNOT (R204): reads only m[`A`]. -/
def execMnot (o : Operands) (s : State) : Out :=
  issue { Use.onActor with ms := [mreg o.a], mds := [mreg o.d] } s (fun _ s1 =>
    let a := s1.me.rm (mreg o.a)
    .next ((s1.modCore s1.cur (fun k => k.wm (mreg o.d) (~~~a))).retire o.form))
/-- MPOP (R204). -/
def execMpop (o : Operands) (s : State) : Out :=
  maskToX (fun a => BitVec.ofNat 64 ((upTo 64).countP (fun i => a.getLsbD i))) o s
/-- MFST (R204). -/
def execMfst (o : Operands) (s : State) : Out :=
  maskToX (fun a => BitVec.ofNat 64 ((findUp (fun i => a.getLsbD i) 64).getD 64)) o s
/-- MMOV (R204). -/
def execMmov (o : Operands) (s : State) : Out := maskToX (fun a => a) o s
/-- MSET (R204). -/
def execMset (o : Operands) (s : State) : Out :=
  issue { Use.onActor with xs := if o.form = .w32 then [o.a] else [], mds := [mreg o.d] } s (fun rd s1 =>
    let v : Word := match o.form with
      | .w32 => rd o.a
      | .w64 => o.imm.setWidth 64
      | .w96 => o.lit.setWidth 64
    .next ((s1.modCore s1.cur (fun k => k.wm (mreg o.d) v)).retire o.form))

end Sys2Proof.Machine
end

