-- ==== Sys2Proof/Machine/Vmem.lean ====
section
/-! DEFINITION. The vector-memory family VMEM: VLDL, VSTL, VLD, VST, VLDG, VSTS, VQRD and VOWR (R200 to R203). -/

namespace Sys2Proof.Machine

/-! ### Accesses, lanes and bytes (R73, R200, R201) -/

/-- Is the type one of the 6-bit types? -/
def sixBit (t : ElemType) : Bool := elemBits t == 6

/-- The size of an access: 64 bytes, or 48 for a 6-bit type (R200). -/
def accessBytes (t : ElemType) : Nat := if sixBit t then 48 else 64

/-- Is the address misaligned for the access (R200, R201)? -/
def vmemMisaligned (t : ElemType) (a : Nat) : Bool :=
  if sixBit t then !(a % 64 % 3 = 0 && a % 64 ≤ 15) else a % 64 != 0

/-- The address x[`A`] + x[`B`], or + SignExtend(`LIT32`) (R88). -/
def vmemAddr (o : Operands) (rd : Regs) : Word := rd o.a + (if o.form = .w96 then litExt o else rd o.b)

/-- The scalar fields that the address reads. -/
def vmemFields (o : Operands) : List RegField := if o.form = .w96 then [o.a] else [o.a, o.b]

/-- The operand faults of an access: its type, its rounding field, and a masked store of a 6-bit type (R68, R201). -/
def vmemBad (isStore : Bool) (o : Operands) : Option Exc :=
  badIf (!okAll (extType o) || 5 ≤ extRnd o || (isStore && extMskd o && sixBit (vtype o)))

/-- The 64 elements of a 6-bit access, one to a lane with bits 7:6 zero, from their 48 bytes (R73, R201). -/
def unpackSix (raw : Nat) : Nat := foldUp (fun i acc => acc + (raw >>> (6 * i)) % 64 * 2 ^ (8 * i)) 64 0

/-- The 48 bytes of a 6-bit access from its lanes, bits 7:6 ignored. -/
def packSix (v : Nat) : Nat := foldUp (fun i acc => acc + (v >>> (8 * i)) % 64 * 2 ^ (6 * i)) 64 0

/-- The bits of the register that a masked load keeps: those of the inactive lanes (R189, R200). -/
def keepBits (o : Operands) (t : ElemType) (m : Word) : Vec :=
  packLanes t (fun i => if laneActive o t m i then 0 else 2 ^ laneBits t - 1)

/-- The new register: the loaded bits where `keep` is clear. -/
def blend (new base keep : Vec) : Vec := (new &&& ~~~keep) ||| (base &&& keep)

/-- Is byte k of an access in an active lane? -/
def byteActive (o : Operands) (t : ElemType) (m : Word) (k : Nat) : Bool :=
  !extMskd o || m.getLsbD (maskIndex t (8 * k / laneBits t))

/-- The pieces of [a, a + n), one inside each aligned 8-byte unit that it touches: offset and size (R200). -/
def unitPieces (a n : Nat) : List (Nat × Nat) :=
  (upTo ((a % 8 + n + 7) / 8)).map (fun u =>
    let lo := max a (8 * (a / 8 + u))
    (lo - a, min (a + n) (8 * (a / 8 + u) + 8) - lo))

/-! ### VLDL and VSTL -/

/-- VLDL (R200, R201). -/
def execVldl (o : Operands) (s : State) : Out :=
  issue ({ Use.onActor with xs := vmemFields o, vd := [vreg o.d], ms := maskField o, bad := vmemBad false o }.tokens o) s
    (fun rd s1 =>
      let t := vtype o
      let a := vmemAddr o rd
      let n := accessBytes t
      let fault := if vmemMisaligned t a.toNat then some (excLocal 0x03 0 a.toNat) else s1.localFault s1.cur a n 1 true
      match fault with
      | some e => s1.raise e
      | none =>
        let raw := s1.localRead s1.cur a.toNat n
        let new := BitVec.ofNat 512 (if sixBit t then unpackSix raw else raw)
        let keep := keepBits o t (s1.me.rm (extMreg o))
        .next (((s1.modCore s1.cur (fun c => c.wv (vreg o.d) (blend new (c.rv (vreg o.d)) keep))).doneNow o.t 0 n).retire o.form))

/-- Write the active bytes of an access to local memory: in one whole write where no mask is named. -/
def State.localStoreBytes (s : State) (o : Operands) (t : ElemType) (m : Word) (a n data : Nat) : State :=
  if extMskd o then
    foldUp (fun k st => if byteActive o t m k then st.coreWrite st.cur (a + k) 1 ((data >>> (8 * k)) % 256) else st) n s
  else s.coreWrite s.cur a n data

/-- The bytes that a store writes (R200): those of the active lanes. -/
def storedBytes (o : Operands) (t : ElemType) (m : Word) : Nat := (upTo (accessBytes t)).countP (byteActive o t m)

/-- The data of a store. -/
def storeData (t : ElemType) (v : Vec) : Nat := if sixBit t then packSix v.toNat else v.toNat

/-- VSTL (R200, R201). -/
def execVstl (o : Operands) (s : State) : Out :=
  issue ({ Use.onActor with xs := vmemFields o, vs := [vreg o.d], ms := maskField o, bad := vmemBad true o }.tokens o) s
    (fun rd s1 =>
      let t := vtype o
      let a := vmemAddr o rd
      let n := accessBytes t
      let m := s1.me.rm (extMreg o)
      let fault := if vmemMisaligned t a.toNat then some (excLocal 0x03 0 a.toNat) else s1.localFault s1.cur a n 1 false
      match fault with
      | some e => s1.raise e
      | none =>
        .next ((((s1.localStoreBytes o t m a.toNat n (storeData t (s1.me.rv (vreg o.d)))).noteStore o.t).doneNow o.t 0
          (storedBytes o t m)).retire o.form))

/-! ### VLD and VST -/

/-- Put a vector load in the issue buffer: v[`D`] and x[`T`] await it (R96, R99). -/
def State.launchVload (s : State) (op : MemOp) (o : Operands) : Out :=
  .next (((s.addOp op s.cur).modCore s.cur (fun c => (c.markV (vreg o.d)).markT o.t)).retire o.form)

/-- VLD (R200, R201): the whole access is read, in one request for each 8-byte unit. -/
def execVld (o : Operands) (s : State) : Out :=
  issue ({ Use.onActor with xs := vmemFields o, vd := [vreg o.d], ms := maskField o, bad := vmemBad false o }.tokens o) s
    (fun rd s1 =>
      let t := vtype o
      let a := vmemAddr o rd
      let n := accessBytes t
      if vmemMisaligned t a.toNat then s1.raise (excAt 0x03 0 a.toNat)
      else match s1.deviceCheck a n 1 .read with
        | .error e => s1.raise e
        | .ok (pa, key, _) =>
          let ps := unitPieces a.toNat n
          s1.launchVload { s1.newOp o false with
            reqs := ps.map (fun p => Req.make .read (a.toNat + p.1) (pa + p.1) p.2 0 key)
            sink := .vreg o.d (s1.me.rv (vreg o.d)) (keepBits o t (s1.me.rm (extMreg o))) (ps.map (fun p => 8 * p.1)) (sixBit t)
            result := n } o)

/-- The byte enables of a piece of a masked store. -/
def pieceEnables (o : Operands) (t : ElemType) (m : Word) (off n : Nat) : Nat :=
  foldUp (fun i acc => if byteActive o t m (off + i) then acc + 2 ^ i else acc) n 0

/-- VST (R200, R201): one request for each 8-byte unit that holds an active byte. -/
def execVst (o : Operands) (s : State) : Out :=
  issue ({ Use.onActor with xs := vmemFields o, vs := [vreg o.d], ms := maskField o, bad := vmemBad true o }.tokens o) s
    (fun rd s1 =>
      let t := vtype o
      let a := vmemAddr o rd
      let n := accessBytes t
      let m := s1.me.rm (extMreg o)
      let data := storeData t (s1.me.rv (vreg o.d))
      if vmemMisaligned t a.toNat then s1.raise (excAt 0x03 0 a.toNat)
      else match s1.deviceCheck a n 1 .write with
        | .error e => s1.raise e
        | .ok (pa, key, _) =>
          let ps := (unitPieces a.toNat n).filter (fun p => pieceEnables o t m p.1 p.2 != 0)
          s1.launchOp { s1.newOp o true with
            reqs := ps.map (fun p =>
              { Req.make .write (a.toNat + p.1) (pa + p.1) p.2 ((data >>> (8 * p.1)) % 2 ^ (8 * p.2)) key with
                be := pieceEnables o t m p.1 p.2
                whole := !extMskd o && !sixBit t })
            result := storedBytes o t m } 0 o)

/-! ### VLDG and VSTS (R202) -/

/-- The types of 8, 16 or 32 bits that a gather and a scatter accept. -/
def okGather (c : Nat) : Bool := c ≤ 4 || (8 ≤ c && c ≤ 13)

/-- The address of lane i: the index is read at the lane's width. -/
def gatherAddr (o : Operands) (t : ElemType) (rd : Regs) (v : Vec) (i : Nat) : Word :=
  let w := laneBits t
  let idx := laneAt t v i
  let signed : Int := if idx.testBit (w - 1) then (idx : Int) - 2 ^ w else idx
  rd o.a + BitVec.ofInt 64 (signed * (w / 8 : Nat))

/-- Check the active lanes in ascending order and make their requests: the fault is that of the lowest failing lane. -/
def gatherReqs (s : State) (k : ReqKind) (addr : Nat → Word) (data : Nat → Nat) (n : Nat) : List Nat → Except Exc (List Req)
  | [] => .ok []
  | i :: is =>
    match s.deviceCheck (addr i) n n k with
    | .error e => .error e
    | .ok (pa, key, _) =>
      match gatherReqs s k addr data n is with
      | .error e => .error e
      | .ok rs => .ok (Req.make k (addr i).toNat pa n (data i) key :: rs)

/-- The active lanes in ascending order. -/
def activeLanes (o : Operands) (t : ElemType) (m : Word) : List Nat := (upTo (laneCount t)).filter (laneActive o t m)

/-- The operand faults of a gather or a scatter. -/
def gatherBad (o : Operands) : Option Exc := badIf (!okGather (extType o) || 5 ≤ extRnd o)

/-- VLDG (R202). -/
def execVldg (o : Operands) (s : State) : Out :=
  issue ({ Use.onActor with xs := [o.a], vs := [vreg o.b], vd := [vreg o.d], ms := maskField o, bad := gatherBad o }.tokens o) s
    (fun rd s1 =>
      let t := vtype o
      let m := s1.me.rm (extMreg o)
      let lanes := activeLanes o t m
      match gatherReqs s1 .read (gatherAddr o t rd (s1.me.rv (vreg o.b))) (fun _ => 0) (laneBits t / 8) lanes with
      | .error e => s1.raise e
      | .ok rs =>
        s1.launchVload { s1.newOp o false with
          reqs := rs
          sink := .vreg o.d (s1.me.rv (vreg o.d)) (keepBits o t m) (lanes.map (fun i => laneBits t * i)) false } o)

/-- VSTS (R202). -/
def execVsts (o : Operands) (s : State) : Out :=
  issue ({ Use.onActor with xs := [o.a], vs := [vreg o.b, vreg o.d], ms := maskField o, bad := gatherBad o }.tokens o) s
    (fun rd s1 =>
      let t := vtype o
      let lanes := activeLanes o t (s1.me.rm (extMreg o))
      match gatherReqs s1 .write (gatherAddr o t rd (s1.me.rv (vreg o.b))) (laneAt t (s1.me.rv (vreg o.d))) (laneBits t / 8) lanes with
      | .error e => s1.raise e
      | .ok rs => s1.launchOp { s1.newOp o true with reqs := rs } 0 o)

/-! ### VQRD and VOWR (R203) -/

/-- A register with bits 7:6 of every lane zero, where the type is of 6 bits (R61). -/
def laneClean (t : ElemType) (v : Vec) : Vec := if sixBit t then packLanes t (laneAt t v) else v

/-- VQRD (R203): the token is popped whatever the mask. -/
def execVqrd (o : Operands) (s : State) : Out :=
  let n := queueOf o.a
  let head := (s.queueView s.cur n).head?
  let hold := head.isNone || s.queueBusy s.cur true n
  let bad := badIf (!namesQueue o.a || !s.inWide s.cur n || !okAll (extType o) || 5 ≤ extRnd o)
  issue ({ Use.onActor with vd := [vreg o.d], ms := maskField o, hold := hold, bad := bad }.tokens o) s (fun _ s1 =>
    match head with
    | none => s1.stall
    | some h =>
      let s2 := s1.popQueue s1.cur n h
      if ctlPoison h.tok.ctl then s2.raise (exc 0x05 0x01)
      else
        let keep := keepBits o (vtype o) (s2.me.rm (extMreg o))
        .next (((s2.modCore s2.cur (fun c => c.wv (vreg o.d) (blend (laneClean (vtype o) h.tok.payload) (c.rv (vreg o.d)) keep))).doneNow o.t 0 0).retire
          o.form))

/-- VOWR (R203): inactive lanes are sent as zero; `B` is the control field. -/
def execVowr (o : Operands) (s : State) : Out :=
  let n := queueOf o.d
  let bad := badIf (!namesQueue o.d || !s.outWide s.cur n || o.b.toNat % 4 == 3 || !okAll (extType o) || 5 ≤ extRnd o)
  let hold := s.pushWaits s.cur n 5 false || s.me.pendingX o.d
  issue ({ Use.onActor with vs := [vreg o.a], ms := maskField o, hold := hold, bad := bad }.tokens o) s
    (fun _ s1 =>
      if s1.overRate s1.cur n 1 then s1.raise (exc 0x01 0x04)
      else
        let keep := keepBits o (vtype o) (s1.me.rm (extMreg o))
        let tok : Token :=
          { tag := s1.me.firing.tag, ctl := mkCtl false false 0 (o.b.getLsbD 2) false (o.b.toNat % 4), wide := true,
            payload := laneClean (vtype o) (s1.me.rv (vreg o.a)) &&& ~~~keep, clock := [] }
        .next (((s1.pushQueue s1.cur n tok).doneNow o.t 0 0).retire o.form))

end Sys2Proof.Machine
end

