-- ==== Sys2Proof/Machine/Complete.lean ====
section
/-! DEFINITION. The machine's own steps on operations: issue, delivery, atomics, fences, replies, the read-only cache, and
the completion of an operation, which writes its value and its done register (R45 to R56, R96 to R100, R144, R315). -/

namespace Sys2Proof.Machine

/-! ### The window of a tile (R315) -/

/-- The requests of an operation that are outstanding: issued and not yet answered. -/
def MemOp.outstanding (o : MemOp) : Nat := o.reqs.countP (fun r => r.kind != .fence && r.state != .buffered && !r.replied)

/-- The requests that a tile has outstanding. -/
def State.outstanding (s : State) (t : Nat) : Nat :=
  ((s.z.ops.filter (fun o => o.tile == some t)).map MemOp.outstanding).sum

/-- A tile's window, from `NETCTL.WMIN` to `NETCTL.WMAX` (R315): that of a tile that nothing has used yet is brought into the range
here. -/
def Tile.window (t : Tile) (r : Root) : Nat := max r.netWmin (min r.netWmax t.win)

/-- May the operation's tile issue a further request? -/
def State.windowOpen (s : State) (o : MemOp) : Bool :=
  match o.tile with
  | none => true
  | some t => s.outstanding t < (s.tile t).window s.root

/-- Do two requests touch a common aligned unit of 8 bytes? -/
def sharesUnit (pa n qa m : Nat) : Bool := pa / 8 ≤ (qa + m - 1) / 8 && qa / 8 ≤ (pa + n - 1) / 8

/-- Is an earlier request of the operation's tile, to a unit that these bytes touch, still waiting in the injection queue
(R316)? `index` is the number of requests of the operation itself that come before. -/
def State.overtakes (s : State) (o : MemOp) (index pa n : Nat) : Bool :=
  o.tile.isSome && s.z.ops.any (fun x => x.tile == o.tile && x.id ≤ o.id && s.arcsMet x &&
    (if x.id = o.id then x.reqs.take index else x.reqs).any (fun r =>
      r.state == .buffered && r.kind != .fence && sharesUnit pa n r.pa r.size))

/-- May the operation's tile inject a request for these bytes: the window is open, and in mode 1 it overtakes no earlier request
to the same unit (R315, R316)? -/
def State.mayInject (s : State) (o : MemOp) (index pa n : Nat) : Bool :=
  s.windowOpen o && !(s.root.netMode && s.overtakes o index pa n)

/-- Issue request `index` of an operation (R47), where its tile may inject it. -/
def State.inject (s : State) (op index : Nat) (merge : Bool) : State :=
  match s.op op with
  | none => s
  | some o =>
    match o.reqs[index]? with
    | none => s
    | some r => if r.kind == .fence || s.mayInject o index r.pa r.size then s.issueReq op index merge else s

/-- ZALULO_ISSUE (R47, R315, R316): issue request `index` of an operation. `merge` says whether the read is an arc source in
the run being made (R55). A closed window or an unmet arc leaves everything as it is. -/
def execZaluloIssue (op index : Nat) (merge : Bool) (s : State) : Out := .next (s.inject op index merge)

/-- ZALULO_DELIVER (R48, R482): deliver a write to a view, which applies what it now can. -/
def execZaluloDeliver (write view : Nat) (s : State) : Out :=
  if view < 20 then .next (s.deliver write view) else .next s

/-- ZALULO_ATOMIC (R53): perform an issued atomic at its home. -/
def execZaluloAtomic (op index : Nat) (merge : Bool) (s : State) : Out := .next (s.atomicReq op index merge)

/-- RO_CACHE_FILL (R52): a gallery's cache fills the entry of a colour tag and an aligned unit. -/
def execRoCacheFill (gallery colour unit key : Nat) (s : State) : Out :=
  if gallery < 16 then .next (s.roFill gallery colour (unit / 8 * 8) key) else .next s

/-- RO_CACHE_DROP (R52): a gallery's cache drops an entry. -/
def execRoCacheDrop (gallery colour unit : Nat) (s : State) : Out :=
  if gallery < 16 then .next (s.roDrop gallery (fun e => e.col == colour && e.pa == unit / 8 * 8)) else .next s

/-! ### Replies (R34, R315, R319) -/

/-- The window after a reply: a marked one halves it, at most once in W replies; W unmarked ones in a row widen it by one.
In mode 1 a mark is ignored (R316). -/
def Tile.windowReply (tile : Tile) (r : Root) (marked : Bool) : Tile :=
  let t := { tile with win := tile.window r }
  let since := min 255 (t.sinceHalf + 1)
  if marked && !r.netMode then
    if t.win ≤ since then { t with win := max (t.win / 2) r.netWmin, unmarked := 0, sinceHalf := 0 }
    else { t with unmarked := 0, sinceHalf := since }
  else if t.win ≤ t.unmarked + 1 then { t with win := min (t.win + 1) r.netWmax, unmarked := 0, sinceHalf := since }
  else { t with unmarked := t.unmarked + 1, sinceHalf := since }

/-- Does the reply carry a generation that is no longer its region's (R34)? -/
def State.stale (s : State) (o : MemOp) : Bool :=
  match o.inst with
  | none => false
  | some k => (s.region k.region).gen != o.gen

/-- Have all the operation's requests been answered? -/
def MemOp.answered (o : MemOp) : Bool :=
  !o.pending && o.reqs.all (fun r => r.replied || r.kind == .fence)

/-- The count of dropped replies rises and saturates (R319). -/
def State.countDrop (s : State) : State := { s with root := { s.root with gdrop := min (s.root.gdrop + 1) 0xFFFFFFFF } }

/-- A reply of a changed generation is dropped and counted; the operation is forgotten after its last one. -/
def State.dropReply (s : State) (o : MemOp) : State := if o.answered then s.countDrop.removeOp o.id else s.countDrop

/-- The reply of request `index` has come: a unit's operation lists it no longer. -/
def MemOp.reply (o : MemOp) (index : Nat) : MemOp :=
  if o.unit then { o with reqs := o.reqs.eraseIdx index }
  else match o.reqs[index]? with
    | some r => { o with reqs := o.reqs.set index { r with replied := true } }
    | none => o

/-- MEMORY_REPLY (R34, R315, R317): the reply of request `index` reaches the tile, with or without a mark; a threshold of 0
marks every request. -/
def execMemoryReply (op index : Nat) (marked : Bool) (s : State) : Out :=
  match s.op op with
  | none => .next s
  | some o =>
    match o.tile, o.reqs[index]? with
    | some t, some r =>
      if r.kind == .fence || r.replied || !s.reqDone o r then .next s
      else
        let o1 := o.reply index
        let s1 := (s.modTile t (fun x => x.windowReply s.root (marked || s.root.netThr == 0))).modOp op (fun _ => o1)
        if s1.stale o1 then .next (s1.dropReply o1) else .next s1
    | _, _ => .next s

/-! ### Completion (R45, R96 to R100, R144) -/

/-- The virtual address of the first request that returned poison. -/
def MemOp.badAddr (o : MemOp) : Option Nat := (o.reqs.find? Req.bad).map (fun r => r.va)

/-- The first request's value. -/
def MemOp.firstValue (o : MemOp) : Nat :=
  match o.reqs with
  | r :: _ => r.value
  | [] => 0

/-- The bits that a vector load gathered. -/
def MemOp.gathered (o : MemOp) (pos : List Nat) : Nat :=
  (o.reqs.zip pos).foldl (fun acc x => acc ||| x.1.value <<< x.2) 0

/-- `DONE.RESULT` (R212): AMOCAS reports whether it succeeded. -/
def MemOp.doneResult (o : MemOp) : Nat :=
  if o.amo = 10 then
    match o.reqs with
    | r :: _ => (match r.state with
      | .performed _ (some _) => 1
      | _ => 0)
    | [] => 0
  else o.result

/-- A synchronous STRM or command lets its core go on. -/
def Core.release (c : Core) (id : Nat) : Core := if c.run = .held id then { c with run := .running } else c

/-- The marks of an operation's destination end. -/
def Core.clearSink (c : Core) (k : Sink) : Core :=
  match k with
  | .xreg r _ _ => c.clearX r
  | .vreg r _ _ _ _ => c.clearV (vreg r)
  | .hreg r => { c with pendH := c.pendH &&& ~~~((1 : BitVec 8) <<< (hreg r).toNat) }
  | _ => c

/-- Write an operation's value to its destination. -/
def State.writeSink (s : State) (p : Nat) (o : MemOp) : State :=
  match o.sink with
  | .xreg r n signed =>
    let v := extendBytes n signed o.firstValue
    if isQueue p r then s.pushQueue p (queueOf r) (narrow (s.core p).firing.tag 0 v [])
    else s.modCore p (fun c => c.wx r v)
  | .vreg r base keep pos unpack =>
    let raw := o.gathered pos
    let new := BitVec.ofNat 512 (if unpack then unpackSix raw else raw)
    s.modCore p (fun c => c.wv (vreg r) (blend new base keep))
  | .hreg r => s.modCore p (fun c => c.wh (hreg r) (BitVec.ofNat 512 o.firstValue))
  | _ => s

/-- Has the destination's output queue the space for the value (R94)? -/
def State.sinkReady (s : State) (p : Nat) (o : MemOp) : Bool :=
  match o.sink with
  | .xreg r _ _ => !isQueue p r || s.canPush p (queueOf r) 1
  | _ => true

/-- The operation's copy ends: its local writes take effect (R51), and a status other than success leaves a failed-range record
with the firing (R231, R232). -/
def State.endCopy (s : State) (p : Nat) (o : MemOp) : State :=
  match s.copies.find? (fun c => c.op == o.id) with
  | none => s
  | some c =>
    let s1 := { s with copies := s.copies.filter (fun x => x.op != o.id) }.commitLocal p c.loc
    if isActor p then s1.modCore p (fun k => { k with firing := { k.firing with failed := c.bad ++ k.firing.failed } })
    else s1

/-- The operation's STRM ends: its local writes take effect (R51, R208). -/
def State.endStream (s : State) (p : Nat) (o : MemOp) : State :=
  match s.streams.find? (fun j => j.op == o.id) with
  | none => s
  | some j => { s with streams := s.streams.filter (fun x => x.op != o.id) }.commitLocal p j.loc

/-- Change a context's bank. -/
def State.modBank (s : State) (t c : Nat) (f : Bank → Bank) : State := s.modCtx t c (fun x => { x with bank := f x.bank })

/-- The front operation has finished; a bank whose ownership has ended is reset once its queue is empty (R356). -/
def Bank.popFront (k : Bank) : Bank :=
  let q := k.queue.tail
  if k.leaving && q.isEmpty then Bank.taken else { k with queue := q }

/-- A drain to memory leaves the node queue once its writes are complete (R365). -/
def State.endNode (s : State) (o : MemOp) : State :=
  if 7000 ≤ o.party && o.party < 8100 then
    (upTo 4).foldl (fun st c =>
      match (st.tctx (o.party - 7000) c).bank.queue with
      | q :: _ => if q.memOp = some o.id then st.modBank (o.party - 7000) c Bank.popFront else st
      | [] => st) s
  else s

/-- The keys of the registers whose values depend on what the operation read (R44, Dependency): its destination, its done
register as an `after`, and the done register of an AMOCAS, which says what it found. -/
def MemOp.taints (o : MemOp) : List Nat :=
  (match o.sink with
    | .xreg r _ _ => [r.toNat]
    | .vreg r _ _ _ _ => [64 + (vreg r).toNat]
    | .hreg r => [112 + (hreg r).toNat]
    | _ => []) ++ (if o.done = 0 then [] else [128 + o.done.toNat]) ++ (if o.amo = 10 then [o.done.toNat] else [])

/-- The registers that an operation has written depend on its reads, where one of them was served without a merge (R55). -/
def State.noteReads (s : State) (p : Nat) (o : MemOp) : State :=
  s.modTrace p (fun t => o.taints.foldl (fun x k => x.set k o.unmerged) t)

/-- An operation that is complete reaches its core: a poisoned value is the poison-consumed exception (R144), before which the done register
takes status 0 and result 0 (DESIGN CHOICE: log entry 90); any other is written with the completion value. -/
def State.reachCore (s : State) (p : Nat) (o : MemOp) : State :=
  let s1 := s.modCore p (fun c => (c.clearSink o.sink).release o.id)
  match o.sink, o.badAddr with
  | .discard, _ | _, none =>
    (((((s1.writeSink p o).endCopy p o).endStream p o).noteReads p o).complete p o.done o.status o.doneResult).reap p
  | _, some va => ((s1.complete p o.done 0 0).raiseAt p (excAt 0x05 0 va) o.pc).reap p

/-- Does the operation wait for LDM_RESULT or STM_COMPLETION? -/
def Sink.isOperator (k : Sink) : Bool :=
  match k with
  | .ldm .. | .stm .. => true
  | _ => false

/-- Does a free-running chain still need what the operation fetched (R378)? -/
def State.chainHolds (s : State) (o : MemOp) : Bool :=
  7000 ≤ o.party && o.party < 8100 && (upTo 4).any (fun c => (s.tctx (o.party - 7000) c).bank.chainOp == some o.id)

/-- May the operation complete now (R45, R94)? -/
def State.completable (s : State) (o : MemOp) : Bool :=
  s.opReady o && !s.chainHolds o && (o.tile.isNone || o.answered) && (match o.core with
    | some p => s.sinkReady p o
    | none => true)

/-- What the host port or a peer port returns to the sender of a request (R59): an atomic's old value, or the acknowledgement of a
write, which every view has applied. -/
def State.answerLink (s : State) (o : MemOp) : State :=
  match o.sink, o.hostPort with
  | .peer port, _ => s.send (if o.reqs.any (fun r => r.kind == .atomic) then .peerValue port o.firstValue else .written port)
  | _, some _ => s.send (.written 8)
  | _, none => s

/-- A stream unit's write is complete: the instance's completion carries its clock (R44, Token row; R341). -/
def State.endPortOp (s : State) (o : MemOp) : State :=
  match o.inst with
  | some k => if 9000 ≤ o.party && o.party < 20000 && o.writes then s.modInst k (fun i => { i with clock := clockMerge i.clock (s.opClock o) })
    else s
  | none => s

/-- An operation other than a fence or an operator's completes (R45, R96). -/
def State.opCompletion (s : State) (op : Nat) : State :=
  match s.op op with
  | none => s
  | some o =>
    if o.isFence || o.sink.isOperator || !s.completable o then s
    else match o.core with
      | none => ((((s.endPortOp o).completeOp o).endNode o).answerLink o)
      | some p => ((s.completeOp o).endNode o).reachCore p o

/-- FENCE_COMPLETE (R56). -/
def execFenceComplete (op : Nat) (s : State) : Out :=
  match s.op op with
  | none => .next s
  | some o =>
    if !o.isFence || !s.opReady o then .next s
    else match o.core with
      | none => .next (s.completeOp o)
      | some p => .next ((s.completeOp o).reachCore p o)

end Sys2Proof.Machine
end

