-- ==== Sys2Proof/Machine/Shape.lean ====
section
/-! DEFINITION. Shape records (R205, R206): their fields, the walk, where an element lies; and the SHP instructions
(R207). -/

namespace Sys2Proof.Machine

/-! ### Fields (R205) -/

/-- Bits `hi` to `lo` of a record. -/
def recBits (h : Vec) (hi lo : Nat) : Nat := bitsAt h.toNat hi lo
/-- `SHAPE.BASE`. -/
def recBase (h : Vec) : Nat := recBits h 63 0
/-- `SHAPE.ETYPE`. -/
def recType (h : Vec) : Nat := recBits h 71 64
/-- `SHAPE.NDIM`. -/
def recDims (h : Vec) : Nat := recBits h 79 72
/-- `SHAPE.SPACE`. -/
def recSpace (h : Vec) : Nat := recBits h 87 80
/-- `SHAPE.FLAGS.EOS`. -/
def recEos (h : Vec) : Bool := h.getLsbD 88
/-- `SHAPE.FLAGS.DESC`. -/
def recDesc (h : Vec) : Bool := h.getLsbD 89
/-- Dimension k of `SHAPE.DIM`. -/
def recDim (h : Vec) (k : Nat) : Nat := recBits h (159 + 32 * k) (128 + 32 * k)
/-- Stride k of `SHAPE.STRIDE`. -/
def recStride (h : Vec) (k : Nat) : Int := (BitVec.ofNat 64 (recBits h (319 + 64 * k) (256 + 64 * k))).toInt
/-- The element type. -/
def recElem (h : Vec) : ElemType := typeOf (recType h)
/-- The queue of a queue-channel record (R205): `SHAPE.BASE` modulo 8. DESIGN CHOICE: log entry 89. -/
def recQueue (h : Vec) : Nat := recBase h % 8

/-! ### The walk (R206) -/

/-- The number of elements. -/
def recCount (h : Vec) : Nat := ((upTo (recDims h)).map (recDim h)).foldl (fun a b => a * b) 1

/-- The element index of walk position k, over `n` dimensions from dimension `d` on. -/
def walkIndex (h : Vec) (d : Nat) : Nat → Nat → Int
  | 0, _ => 0
  | n + 1, k => (k % max 1 (recDim h d) : Nat) * recStride h d + walkIndex h (d + 1) n (k / max 1 (recDim h d))

/-- Where an element lies: its first byte's address, the bit of that byte at which it begins, and the bytes it touches. -/
structure ElemLoc where
  addr : Nat
  shift : Nat
  bytes : Nat
  deriving DecidableEq, Repr

/-- The place of element e of a record (R206). -/
def elemLoc (h : Vec) (e : Int) : ElemLoc :=
  let at_ := fun (x : Int) => (((recBase h : Int) + x) % (2 ^ 64 : Nat)).toNat
  match elemBits (recElem h) with
  | 4 => { addr := at_ (e / 2), shift := 4 * (e % 2).toNat, bytes := 1 }
  | 6 =>
    let i := (e % 84).toNat
    let bit := 24 * (i / 4) + 6 * (i % 4)
    { addr := at_ (64 * (e / 84) + (bit / 8 : Nat)), shift := bit % 8, bytes := if bit % 8 ≤ 2 then 1 else 2 }
  | w => { addr := at_ (e * (w / 8 : Nat)), shift := 0, bytes := w / 8 }

/-- The place of the element at walk position k. -/
def walkLoc (h : Vec) (k : Nat) : ElemLoc := elemLoc h (walkIndex h 0 (recDims h) k)

/-- The element's bits out of the bytes it touches. -/
def elemOf (t : ElemType) (l : ElemLoc) (raw : Nat) : Nat := (raw >>> l.shift) % 2 ^ elemBits t

/-- The bytes with the element's bits replaced. -/
def elemInto (t : ElemType) (l : ElemLoc) (old v : Nat) : Nat :=
  old - (elemOf t l old) * 2 ^ l.shift + v % 2 ^ elemBits t * 2 ^ l.shift

/-- Does the element leave some bits of its bytes alone (R206)? -/
def partElem (t : ElemType) : Bool := elemBits t < 8

/-! ### Checks at issue (R206, R208) -/

/-- The checks of one record: space, dimensions, type, count (R208). -/
def recordBad (h : Vec) : Bool :=
  2 < recSpace h || recDims h = 0 || 4 < recDims h || 15 < recType h || 2 ^ 24 < recCount h

/-- The alignment of a record's base (R206). -/
def recordMisaligned (h : Vec) : Bool :=
  recSpace h != 2 && (match elemBits (recElem h) with
    | 6 => recBase h % 64 != 0
    | 16 => recBase h % 2 != 0
    | 32 => recBase h % 4 != 0
    | _ => false)

/-- The misaligned-access fault at a record's base. -/
def misalignedRecord (h : Vec) : Exc := if recSpace h = 0 then excLocal 0x03 0 (recBase h) else excAt 0x03 0 (recBase h)

/-! ### Whole lines (R78, R208) -/

/-- Is every element of the line that holds walk position k's element written by the walk? -/
def coversLine (h : Vec) (k : Nat) : Bool :=
  let t := recElem h
  let line := (walkLoc h k).addr / 64
  (upTo (lineElems t)).all (fun i =>
    (findUp (fun j =>
      let l := walkLoc h j
      l.addr / 64 == line && (8 * (l.addr % 64) + l.shift == (if elemBits t = 6 then 24 * (i / 4) + 6 * (i % 4) else elemBits t * i)))
      (recCount h)).isSome)

/-- The format code of a type (R76): S32, Z32 and Z16 have none and give 0x00 (R208). -/
def formatCode (t : ElemType) : Nat :=
  match t with
  | .fp32 => 0x01
  | .fp16 => 0x02
  | .bf16 => 0x03
  | .e5m2 => 0x04
  | .e4m3 => 0x05
  | .e3m2 => 0x06
  | .e2m3 => 0x07
  | .e2m1 => 0x08
  | .s16 => 0x09
  | .s8 => 0x0A
  | .z8 => 0x0B
  | .s4 => 0x0C
  | .z4 => 0x0D
  | _ => 0x00

/-- Write the bytes of an element to local memory. -/
def State.localElem (s : State) (p : Nat) (t : ElemType) (l : ElemLoc) (v : Nat) (bad : Bool) : State :=
  s.localWrite p l.addr l.bytes (elemInto t l (s.localRead p l.addr l.bytes) v) bad

/-! ### SHP (R207) -/

/-- SHLD (R207). -/
def execShld (o : Operands) (s : State) : Out :=
  issue ({ Use.onActor with xs := o.a :: secondField o, hds := [hreg o.d] }.tokens o) s (fun rd s1 =>
    let a := rd o.a + second o rd
    match s1.localFault s1.cur a 64 64 true with
    | some e => s1.raise e
    | none =>
      let v := BitVec.ofNat 512 (s1.localRead s1.cur a.toNat 64)
      .next (((s1.modCore s1.cur (fun c => c.wh (hreg o.d) v)).doneNow o.t 0 64).retire o.form))

/-- SHST (R207). -/
def execShst (o : Operands) (s : State) : Out :=
  issue ({ Use.onActor with xs := o.a :: secondField o, hs := [hreg o.d] }.tokens o) s (fun rd s1 =>
    let a := rd o.a + second o rd
    match s1.localFault s1.cur a 64 64 false with
    | some e => s1.raise e
    | none =>
      .next ((((s1.coreWrite s1.cur a.toNat 64 (s1.me.rh (hreg o.d)).toNat).noteStore o.t).doneNow o.t 0 64).retire o.form))

/-- The record that SHBQ builds (R207). -/
def queueRecord (q etype : Nat) (b : Word) : Vec :=
  BitVec.ofNat 512 (q + etype * 2 ^ 64 + 2 ^ 72 + 2 * 2 ^ 80 + bitsAt b.toNat 39 32 * 2 ^ 88 + bitsAt b.toNat 31 0 * 2 ^ 128 +
    2 ^ 160 + 2 ^ 192 + 2 ^ 224)

/-- SHBQ (R207): `A` names a queue and pops nothing. -/
def execShbq (o : Operands) (s : State) : Out :=
  issue { Use.onActor with xs := [o.b], hds := [hreg o.d], bad := badIf (!namesQueue o.a || 15 < extType o || 5 ≤ extRnd o) } s
    (fun rd s1 =>
      .next ((s1.modCore s1.cur (fun c => c.wh (hreg o.d) (queueRecord (queueOf o.a) (extType o) (rd o.b)))).retire o.form))

end Sys2Proof.Machine
end

