-- ==== Sys2Proof/Machine/Strm.lean ====
section
/-! DEFINITION. The STRM instructions (R208, R209): their checks at issue, and the stream unit's walk, which reads an
element, computes, and writes the result before it reads the next. -/

namespace Sys2Proof.Machine

/-! ### Functions (R209) -/

/-- The VALU function f of two elements and of D's old element (R191, R209). -/
def valuLane (f : Nat) : Rnd → ElemType → Nat → Nat → Nat → FRes :=
  match f with
  | 0 => laneFn (fun m t a b _ => fAdd t m a b) (fun a b _ => a + b)
  | 1 => laneFn (fun m t a b _ => fSub t m a b) (fun a b _ => a - b)
  | 2 => laneFn (fun m t a b _ => fMul t m a b) (fun a b _ => a * b)
  | 3 => laneFn (fun m t a b d => fFma t m false a b d) (fun a b d => a * b + d)
  | 4 => laneFn (fun m t a b d => fFma t m true a b d) (fun a b d => a * b - d)
  | 5 => laneFn (fun _ t a b _ => fMinMax t false a b) (fun a b _ => min a b)
  | 6 => laneFn (fun _ t a b _ => fMinMax t true a b) (fun a b _ => max a b)
  | 7 => laneFn (fun _ t a _ _ => fAbs t a) (fun a _ _ => a.natAbs)
  | 8 => laneFn (fun _ t a _ _ => fNeg t a) (fun a _ _ => -a)
  | 9 => bitsFn (fun a b => a &&& b)
  | 10 => bitsFn (fun a b => a ||| b)
  | 11 => bitsFn (fun a b => a ^^^ b)
  | 12 => shiftFn (fun _ a n => a <<< n)
  | 13 => shiftFn (fun _ a n => a >>> n)
  | _ => shiftFn shiftArith

/-- The types that VALU function f accepts (R190). -/
def valuTypes (f : Nat) : Nat → Bool :=
  if f ≤ 8 then okFI else if f ≤ 11 then okAll else okI

/-- SRED's running value after one more element, and the flags (R196, R209): the first element is only widened, as VRSUM's lone lane
is. DEDUCED: log entry 53. -/
def reduceStep (f : Nat) (m : Rnd) (t : ElemType) (acc : Option Int) (x : Nat) : Int × FFlags :=
  if isFloatType t then
    let w : FRes := if f = 0 then widenSum t x else ⟨x, 0⟩
    match acc with
    | none => (w.bits, w.flags)
    | some a =>
      let r := if f = 0 then fAdd .fp32 m a.toNat w.bits else fMinMax t (f == 1) a.toNat w.bits
      (r.bits, w.flags ||| r.flags)
  else
    let v := intValue t x
    match acc with
    | none => (v, 0)
    | some a => (if f = 0 then a + v else if f = 1 then max a v else min a v, 0)

/-- SRED's result (R196): Empty where the record has no element. -/
def reduceResult (f : Nat) (t : ElemType) (acc : Option Int) : Word :=
  match acc with
  | some a => BitVec.ofInt 64 a
  | none =>
    if f = 0 then 0
    else if isFloatType t then BitVec.ofNat 64 (withSign (floatFmt t) (f == 1) (infBits (floatFmt t)))
    else BitVec.ofInt 64 (if f = 1 then (intRange t).1 else (intRange t).2)

/-! ### What a job reads and writes -/

/-- The records that the job reads: A, B where the function has it, and D for VFMA and VFMS; where D is a queue channel they read it
from input queue `qn` and write output queue `on` of its number (R94, R209). DEDUCED: log entry 73. -/
def StreamJob.reads (j : StreamJob) : List Vec :=
  if j.fn = 0 then
    [j.ha] ++ (if j.f = 7 || j.f = 8 then [] else [j.hb]) ++ (if j.f = 3 || j.f = 4 then [j.hd] else [])
  else [j.ha]

/-- The number of elements. -/
def StreamJob.count (j : StreamJob) : Nat := recCount j.ha

/-- The input queues that the job pops, each once. -/
def StreamJob.queues (j : StreamJob) : List Nat :=
  (j.reads.filter (fun h => recSpace h == 2)).map recQueue |>.eraseDups

/-- The elements that a token of a queue carries (R206). -/
def tokenLanes (wide : Bool) (t : ElemType) : Nat := if wide then laneCount t else 1

/-- The element type that a queue's elements have for the job. -/
def StreamJob.queueType (j : StreamJob) (q : Nat) : ElemType :=
  match j.reads.find? (fun h => recSpace h == 2 && recQueue h == q) with
  | some h => recElem h
  | none => .fp32

/-- Must a token be popped from the queue for element k? -/
def State.needsPop (s : State) (j : StreamJob) (q : Nat) : Bool := j.next % tokenLanes (s.inWide j.core q) (j.queueType q) == 0

/-- Pop what the element needs: the job with its tokens in hand, whether one was poisoned, and the state. -/
def popStream (j : StreamJob) : List Nat → StreamJob × Bool × State → StreamJob × Bool × State
  | [], r => r
  | q :: qs, (j1, bad, s) =>
    if !s.needsPop j q then popStream j qs (j1, bad, s)
    else match (s.queueView j.core q).head? with
      | none => popStream j qs (j1, bad, s)
      | some h =>
        let v : Vec := if s.inPred j.core q then BitVec.ofNat 512 (h.tok.payload.toNat % 2) else h.tok.payload
        popStream j qs ({ j1 with hand := AMap.put j1.hand q v }, bad || ctlPoison h.tok.ctl, s.popQueue j.core q h)

/-! ### Units of 8 bytes (R43, R208) -/

/-- Bits `lo` to `lo + n - 1` of a number. -/
def bitRange (v lo n : Nat) : Nat := (v >>> lo) % 2 ^ n

/-- A number with bits `lo` to `lo + n - 1` replaced. -/
def putBits (old lo n v : Nat) : Nat := old - bitRange old lo n * 2 ^ lo + v % 2 ^ n * 2 ^ lo

/-- A number with the bits of a mask taken from another. -/
def mixBits (base v mask : Nat) : Nat := base - (base &&& mask) + (v &&& mask)

/-- The bytes, by bit, of which a mask of bits holds all. -/
def fullBytes (mask : Nat) : Nat := foldUp (fun i acc => if bitRange mask (8 * i) 8 = 255 then acc + 2 ^ i else acc) 8 0

/-- The bytes, by bit, of which a mask of bits holds some. -/
def someBytes (mask : Nat) : Nat := foldUp (fun i acc => if bitRange mask (8 * i) 8 = 0 then acc else acc + 2 ^ i) 8 0

/-- The unit as the job has read it for an operand (3: for a destination of which it writes parts of bytes). -/
def StreamJob.unit (j : StreamJob) (operand pa : Nat) : Option Nat :=
  (j.units.find? (fun u => u.operand == operand && u.pa == pa)).map (fun u => u.value)

/-- A unit that has been read, with what the job has gathered to write there over it. -/
def StreamJob.take (j : StreamJob) (operand pa v : Nat) : StreamJob :=
  let own := match j.writes.find? (fun w => w.pa == pa) with
    | some w => mixBits v w.value w.bits
    | none => v
  { j with units := { operand := operand, pa := pa, value := own } :: j.units }

/-- Gather bits of a unit's write: the units read before hold them too. -/
def StreamJob.gather (j : StreamJob) (fresh : UnitWrite) (lo n v : Nat) : StreamJob :=
  let put := fun (w : UnitWrite) => { w with value := putBits w.value lo n v, bits := w.bits ||| (2 ^ n - 1) * 2 ^ lo }
  { j with
    units := j.units.map (fun (u : UnitRead) => if u.pa == fresh.pa then { u with value := putBits u.value lo n v } else u)
    writes :=
      if j.writes.any (fun w => w.pa == fresh.pa) then j.writes.map (fun w => if w.pa == fresh.pa then put w else w)
      else j.writes ++ [put fresh] }

/-- Does the walk of the destination touch the unit at `va` at or after the job's next element? -/
def StreamJob.returnsTo (j : StreamJob) (va : Nat) : Bool :=
  (findUp (fun i =>
    let l := walkLoc j.hd (j.next + i)
    l.addr < va + 8 && va < l.addr + l.bytes) (j.count - j.next)).isSome

/-- The gathered write that no later element adds to. -/
def StreamJob.ripe (j : StreamJob) : Option UnitWrite := j.writes.find? (fun w => !j.returnsTo w.va)

/-- What a job does next for an operand of its element. -/
inductive Need where
  | ready
  | wait
  | fault (e : Exc)
  | read (operand : Nat) (r : Req)

/-- What the element of a record needs before it can be taken: its checks (R132, R206, R217, R232), and its units in device
memory, each a request (R208). -/
def State.needs (s : State) (j : StreamJob) (o : MemOp) (operand : Nat) (h : Vec) : Need :=
  let l := walkLoc h j.next
  match recSpace h with
  | 0 =>
    match s.localFault j.core (BitVec.ofNat 64 l.addr) l.bytes 1 true with
    | some e => .fault e
    | none => .ready
  | 1 =>
    match s.translate (s.extentsOf j.core) l.addr l.bytes .read with
    | none => .fault (excAt 0x04 0 l.addr)
    | some (pa, key, _) =>
      match s.copyFault j.core true l.addr l.bytes with
      | some e => .fault e
      | none =>
        if (s.view (domainOf o.party)).poisoned pa && (j.unit operand (pa / 8 * 8)).isNone then .fault (excAt 0x05 0 l.addr)
        else match (unitPieces pa l.bytes).find? (fun p => (j.unit operand ((pa + p.1) / 8 * 8)).isNone) with
          | none => .ready
          | some p =>
            let unit := (pa + p.1) / 8 * 8
            if s.ownWritePending o unit 8 || !s.mayInject o o.reqs.length unit 8 then .wait
            else .read operand (Req.make .read ((l.addr + p.1) / 8 * 8) unit 8 0 key)
  | _ => .ready

/-- What the operands of an element need: the first that is not ready. -/
def State.firstNeed (s : State) (j : StreamJob) (o : MemOp) : Nat → List Vec → Need
  | _, [] => .ready
  | i, h :: hs =>
    match s.needs j o i h with
    | .ready => s.firstNeed j o (i + 1) hs
    | n => n

/-- The element of a record, once what it needs is there: local bytes as the unit sees them, the units read, or the token in
hand. -/
def State.element (s : State) (j : StreamJob) (stale operand : Nat) (h : Vec) : Nat :=
  let t := recElem h
  let l := walkLoc h j.next
  match recSpace h with
  | 0 => elemOf t l (locOver j.loc l.addr l.bytes (s.asyncRead j.core j.before stale l.addr l.bytes))
  | 1 =>
    match s.translate (s.extentsOf j.core) l.addr l.bytes .read with
    | none => 0
    | some (pa, _, _) => elemOf t l ((unitPieces pa l.bytes).foldl (fun acc p =>
      acc + bitRange ((j.unit operand ((pa + p.1) / 8 * 8)).getD 0) (8 * ((pa + p.1) % 8)) (8 * p.2) * 2 ^ (8 * p.1)) 0)
  | _ => laneAt t (AMap.get 0 j.hand (recQueue h)) (j.next % tokenLanes (s.inWide j.core (recQueue h)) t)

/-- The elements of the operands. -/
def State.elements (s : State) (j : StreamJob) (stale : Nat) : Nat → List Vec → List Nat
  | _, [] => []
  | i, h :: hs => s.element j stale i h :: s.elements j stale (i + 1) hs

/-- Change a job. -/
def State.modStream (s : State) (op : Nat) (f : StreamJob → StreamJob) : State :=
  { s with streams := s.streams.map (fun j => if j.op == op then f j else j) }

/-- Accrue flags in a firing that is not issuing (R70, R208). -/
def State.accrueAt (s : State) (p : Nat) (f : FFlags) : State :=
  s.modCore p (fun c => { c with firing := { c.firing with fflags := c.firing.fflags ||| f } })

/-- Compute with the elements read: SMAP, SCVT and SCPY have a result to write, SRED takes the element in (R209). -/
def State.computeElem (s : State) (j : StreamJob) (vs : List Nat) : State :=
  let a := vs.getD 0 0
  match j.fn with
  | 0 =>
    let one := j.f = 7 || j.f = 8
    let r := valuLane j.f j.rnd (recElem j.ha) a (if one then 0 else vs.getD 1 0) (vs.getD 2 0)
    (s.accrueAt j.core r.flags).modStream j.op (fun x => { x with stage := some r.bits })
  | 1 =>
    let r := reduceStep j.f j.rnd (recElem j.ha) j.acc a
    (s.accrueAt j.core r.2).modStream j.op (fun x => { x with acc := some r.1, next := x.next + 1 })
  | 2 =>
    let r := convertLane (recElem j.ha) (recElem j.hd) j.rnd a
    (s.accrueAt j.core r.flags).modStream j.op (fun x => { x with stage := some r.bits })
  | _ => s.modStream j.op (fun x => { x with stage := some a })

/-- A gathered write is made: where it holds part of a byte, the rest is what the unit has been read to hold (R206). -/
def State.placeUnit (s : State) (op : Nat) (w : UnitWrite) (old : Nat) : State :=
  s.unitWrite op { Req.make .write w.va w.pa 8 (mixBits old w.value w.bits) w.key with
    be := someBytes w.bits
    desc := if w.pa % 64 < 8 then w.desc else none
    whole := w.whole }

/-- A fault found in the walk (R208): once what the earlier elements wrote is placed, the firing ends (R100). -/
def State.streamFault (s : State) (j : StreamJob) (o : MemOp) (e : Exc) : State :=
  if j.writes.isEmpty then (s.cutJob j.op).raiseAt j.core e o.pc
  else s.modStream j.op (fun x => { x with fail := some e })

/-- A gathered write that is complete leaves: first the unit is read, where part of a byte is to stay. -/
def State.streamPlace (s : State) (j : StreamJob) (o : MemOp) (w : UnitWrite) : State :=
  if s.ownWritePending o w.pa 8 || !s.mayInject o o.reqs.length w.pa 8 then s
  else if fullBytes w.bits = someBytes w.bits then
    (s.placeUnit j.op w 0).modStream j.op (fun x => { x with writes := x.writes.filter (fun y => y.pa != w.pa) })
  else match j.unit 3 w.pa with
    | some old => (s.placeUnit j.op w old).modStream j.op (fun x => { x with writes := x.writes.filter (fun y => y.pa != w.pa) })
    | none =>
      let r := s.unitRead j.op (Req.make .read w.va w.pa 8 0 w.key) true
      r.2.2.modStream j.op (fun x => x.take 3 w.pa r.1)

/-- The reading half of an element: one unit of device memory, or, once all are there, the pops and the computation (R208). A job of a
firing that has ended waits for no token (R100): it stops there as at a fault, which such a firing no longer takes. -/
def State.streamRead (s : State) (j : StreamJob) (o : MemOp) (merge : Bool) (stale : Nat) : State :=
  match s.firstNeed j o 0 j.reads with
  | .wait => s
  | .fault e => s.streamFault j o e
  | .read i r =>
    let got := s.unitRead j.op r (merge || (j.fn != 1 && recSpace j.hd == 1))
    got.2.2.modStream j.op (fun x => x.take i r.pa got.1)
  | .ready =>
    if j.queues.any (fun q => s.needsPop j q && ((s.queueView j.core q).isEmpty || s.queueBusy j.core true q)) then
      if (s.core j.core).run = .ending then s.streamFault j o excIllegal else s
    else
      let p := popStream j j.queues (j, false, s)
      if p.2.1 then p.2.2.streamFault j o (exc 0x05 0x01)
      else (p.2.2.modStream j.op (fun _ => p.1)).computeElem p.1 (p.2.2.elements p.1 stale 0 j.reads)

/-- Go on to the next element. -/
def StreamJob.advance (j : StreamJob) : StreamJob := { j with stage := none, next := j.next + 1 }

/-- Put an element into the units that it touches in device memory; a walk that covers its line makes whole-line writes,
which carry the descriptor (R78, R208) and zero byte 63 of a line of 6-bit elements (R73). -/
def StreamJob.store (j : StreamJob) (pa key v : Nat) : StreamJob :=
  let h := j.hd
  let t := recElem h
  let l := walkLoc h j.next
  let whole := coversLine h j.next
  let desc := if 2 ≤ j.fn && recDesc h && whole then some (formatCode t, 0x7F) else none
  let first := 8 * pa + l.shift
  let last := first + elemBits t
  (unitPieces pa l.bytes).foldl (fun x p =>
    let unit := (pa + p.1) / 8 * 8
    let lo := max first (8 * unit)
    let hi := min last (8 * unit + 64)
    let pad : Bool := whole && sixBit t && unit % 64 == 56
    let fresh : UnitWrite :=
      { va := (l.addr + p.1) / 8 * 8, pa := unit, key := key, value := 0, bits := if pad then 255 * 2 ^ 56 else 0, desc := desc, whole := whole }
    x.gather fresh (lo - 8 * unit) (hi - lo) (v >>> (lo - first))) j

/-- Put an element into local memory, as the unit will have it at its end (R51). -/
def State.storeLocal (s : State) (j : StreamJob) (v : Nat) : StreamJob :=
  let t := recElem j.hd
  let l := walkLoc j.hd j.next
  let old := locOver j.loc l.addr l.bytes (s.localRead j.core l.addr l.bytes)
  let m := locPut j.loc l.addr l.bytes (elemInto t l old v) false
  { j with loc := if sixBit t && coversLine j.hd j.next then locPut m (l.addr / 64 * 64 + 63) 1 0 false else m }

/-- The writing half of an element (R208): a push that is to fault does not wait for space, and a firing that has ended pushes nothing
(R156, R258). DEDUCED: log entry 67. -/
def State.streamWrite (s : State) (j : StreamJob) (o : MemOp) (v : Nat) : State :=
  let h := j.hd
  let t := recElem h
  let l := walkLoc h j.next
  match recSpace h with
  | 0 =>
    match s.localFault j.core (BitVec.ofNat 64 l.addr) l.bytes 1 false with
    | some e => s.streamFault j o e
    | none => s.modStream j.op (fun x => (s.storeLocal x v).advance)
  | 1 =>
    match s.translate (s.extentsOf j.core) l.addr l.bytes .write with
    | none => s.streamFault j o (excAt 0x04 0 l.addr)
    | some (pa, key, _) => s.modStream j.op (fun x => (x.store pa key v).advance)
  | _ =>
    let q := recQueue h
    let wide := s.outWide j.core q
    let lanes := tokenLanes wide t
    let last : Bool := j.next + 1 = j.count
    let out : Vec := j.out ||| BitVec.ofNat 512 (v % 2 ^ elemBits t * 2 ^ (laneBits t * (j.next % lanes)))
    if (j.next + 1) % lanes = 0 || last then
      if (s.core j.core).run = .ending then s.modStream j.op (fun x => { x.advance with out := 0 })
      else if s.overRate j.core q 1 then s.streamFault j o (exc 0x01 0x04)
      else if s.outPred j.core q then s.streamFault j o (exc 0x01 0x05)
      else if !s.canPush j.core q (if wide then 5 else 1) then s
      else
        let tok : Token :=
          { tag := (s.core j.core).firing.tag, ctl := mkCtl false false 0 (last && recEos h) false 0, wide := wide,
            payload := out, clock := [] }
        (s.pushQueue j.core q tok).modStream j.op (fun x => { x.advance with out := 0 })
    else s.modStream j.op (fun x => { x.advance with out := out })

/-- The walk is over: SRED's result is written, and the operation may complete once its writes have (R208, R209). -/
def State.streamEnd (s : State) (j : StreamJob) (o : MemOp) : State :=
  let fin := fun (st : State) => st.modOp o.id (fun x => { x with pending := false, result := j.count })
  if j.fn = 1 then
    let v := reduceResult j.f (recElem j.ha) j.acc
    if isQueue j.core j.d then
      if s.canPush j.core (queueOf j.d) 1 then
        fin ((s.modCore j.core (fun c => c.clearX j.d)).pushQueue j.core (queueOf j.d) (narrow (s.core j.core).firing.tag 0 v []))
      else s
    else fin ((s.modCore j.core (fun c => (c.wx j.d v).clearX j.d)).modTrace j.core (fun t => t.set j.d.toNat o.unmerged))
  else fin s

/-- STREAM_UNIT_TRANSFER (R208): the stream unit places a gathered write, reads for the next element, takes it, writes the one
in hand, or ends the walk; after a fault it places what is left to write. `merge` says whether a read is an arc source in the run
being made (R55); of the firing's local writes that are not ordered before the instruction, the latest `State.unseen` are not yet
seen (R51). -/
def execStreamUnitTransfer (op : Nat) (merge : Bool) (s : State) : Out :=
  match s.streams.find? (fun j => j.op == op), s.op op with
  | some j, some o =>
    if !s.arcsMet o || !o.pending then .next s
    else match j.fail, j.writes with
    | some _, w :: _ => .next (s.streamPlace j o w)
    | some e, [] => .next ((s.cutJob j.op).raiseAt j.core e o.pc)
    | none, _ =>
      match j.ripe, j.stage with
      | some w, _ => .next (s.streamPlace j o w)
      | none, some v => .next (s.streamWrite j o v)
      | none, none => if j.count ≤ j.next then .next (s.streamEnd j o) else .next (s.streamRead j o merge s.unseen)
  | _, _ => .next s

/-! ### Issue (R208, R209) -/

/-- The requests that the walk of a record will make (R44, Same location): those that translate. -/
def State.walkReqs (s : State) (h : Vec) (k : ReqKind) : List Req :=
  if recSpace h != 1 then []
  else (upTo (recCount h)).filterMap (fun i =>
    let l := walkLoc h i
    (s.translate (s.extentsOf s.cur) l.addr l.bytes k).map (fun r => Req.make k l.addr r.1 l.bytes 0 r.2.1))

/-- Do the records name a queue on which another instruction's copy is in flight (R230)? The first of them is D, but for SRED;
VFMA and VFMS read it as well. -/
def State.streamHeld (s : State) (fn f : Nat) (hs : List RegField) : Bool :=
  let recs := hs.map (fun r => s.me.rh (hreg r))
  let on := fun (input : Bool) (h : Vec) => recSpace h == 2 && s.queueBusy s.cur input (recQueue h)
  let readsD : Bool := fn = 1 || (fn = 0 && (f = 3 || f = 4))
  (if readsD then recs else recs.drop 1).any (on true) || (fn != 1 && (recs.take 1).any (on false))

/-- Issue a STRM instruction: `bad` are its own checks, `hs` the records that it names. A synchronous one runs in program order,
as the firing's own accesses do; an asynchronous one's local accesses are ordered by `after` alone (R51, R208). DEDUCED: log
entry 68. -/
def streamIssue (fn : Nat) (hs : List RegField) (xd : Option RegField) (bad : Core → Bool) (o : Operands) (s : State) : Out :=
  let f := o.imm.toNat % 32
  let rnd := bitsAt o.imm.toNat 7 5
  issue ({ Use.onActor with hs := hs.map hreg, xd := xd, hold := s.streamHeld fn f hs }.tokens o) s (fun _ s1 =>
    let c := s1.me
    let recs := hs.map (fun r => c.rh (hreg r))
    if recs.any recordBad || 4 < rnd || bad c then s1.raise excOperand
    else match recs.find? recordMisaligned with
      | some h => s1.raise (misalignedRecord h)
      | none =>
        let j : StreamJob :=
          { op := s1.z.nextId, core := s1.cur, fn := fn, f := f, rnd := rndOf rnd, hd := c.rh (hreg o.d), ha := c.rh (hreg o.a),
            hb := c.rh (hreg o.b), d := o.d, acc := none, next := 0, stage := none, hand := [], out := 0, units := [], writes := [],
            loc := [], fail := none, before := if o.t = 0 then c.firing.trace.count else s1.localBefore o.c }
        let dev := fun (h : Vec) => recSpace h == 1
        let out := fn != 1 && dev j.hd
        let op := { s1.newOp o true with
          acquire := (j.reads.any dev && opAcquires o false) || (out && opAcquires o true)
          release := (j.reads.any dev && opReleases o false) || (out && opReleases o true)
          pending := true
          unit := true
          future := (j.reads.flatMap (fun h => s1.walkReqs h .read)) ++ (if fn = 1 then [] else s1.walkReqs j.hd .write) }
        let s2 := ({ s1.addOp op s1.cur with streams := s1.streams ++ [j] }).modCore s1.cur (fun c =>
          (c.markX (xd.getD 0)).markT o.t)
        let s3 := s2.retire o.form
        .next (if o.t = 0 then s3.modCore s3.cur (fun c => { c with run := .held j.op }) else s3))

/-- SMAP (R209): types and counts agree; VABS and VNEG ignore B. -/
def execSmap (o : Operands) (s : State) : Out :=
  let f := o.imm.toNat % 32
  let one := f = 7 || f = 8
  let hs := if one then [o.d, o.a] else [o.d, o.a, o.b]
  streamIssue 0 hs none (fun c =>
    let rec_ := fun r => c.rh (hreg r)
    15 ≤ f || !valuTypes f (recType (rec_ o.a)) ||
      hs.any (fun r => recType (rec_ r) != recType (rec_ o.a) || recCount (rec_ r) != recCount (rec_ o.a))) o s

/-- SRED (R209): x[`D`] is pending until the instruction completes. -/
def execSred (o : Operands) (s : State) : Out :=
  streamIssue 1 [o.a] (some o.d) (fun c => 3 ≤ o.imm.toNat % 32 || !okFI (recType (c.rh (hreg o.a)))) o s

/-- SCVT (R209). -/
def execScvt (o : Operands) (s : State) : Out :=
  streamIssue 2 [o.d, o.a] none (fun c => recCount (c.rh (hreg o.d)) != recCount (c.rh (hreg o.a))) o s

/-- SCPY (R209). -/
def execScpy (o : Operands) (s : State) : Out :=
  streamIssue 3 [o.d, o.a] none (fun c =>
    recCount (c.rh (hreg o.d)) != recCount (c.rh (hreg o.a)) || recType (c.rh (hreg o.d)) != recType (c.rh (hreg o.a))) o s

end Sys2Proof.Machine
end

