-- ==== Sys2Proof/Machine/Copy.lean ====
section
/-! DEFINITION. The copies CPY, CPYS, CPYF and CPYQ (R225 to R232): their checks, and the copy engine's transfers, which
read parts of a copy and write them, in any order that R226 leaves. -/

namespace Sys2Proof.Machine

/-! ### Ranges (R231) -/

/-- Do the ranges cover [a, a + n)? Each pass takes a range that holds the first byte left. -/
def covered (rs : List (Nat × Nat)) : Nat → Nat → Nat → Bool
  | 0, _, n => n == 0
  | fuel + 1, a, n =>
    if n = 0 then true
    else match rs.find? (fun r => r.1 ≤ a && a < r.1 + r.2) with
      | none => false
      | some r => covered rs fuel (r.1 + r.2) (n - min n (r.1 + r.2 - a))

/-- The ranges of a table that a kind of access may reach. -/
def State.deviceRanges (s : State) (x : AMap Extent) (k : ReqKind) : List (Nat × Nat) :=
  (x.filter (fun p => p.2.valid && p.2.permits k && !s.revoked p.2)).map (fun p => (p.2.vbase, p.2.size))

/-- The local ranges that a core may reach (R217, R218). -/
def State.localRanges (s : State) (p : Nat) : List (Nat × Nat) :=
  if isActor p then
    let c := s.firingCtx p
    (c.scratchBase (slotOf p), c.scr) ::
      (if AMap.has c.areas (s.core p).firing.colour then [(c.areaOf (s.core p).firing.colour, c.lsize)] else [])
  else [(0, 0x10000)]

/-- Is the whole range reachable in its space? -/
def State.rangeOk (s : State) (p : Nat) (x : AMap Extent) (dev : Bool) (k : ReqKind) (a n : Nat) : Bool :=
  if dev then a + n ≤ 2 ^ 57 && covered (s.deviceRanges x k) (x.length + 1) a n else covered (s.localRanges p) 3 a n

/-- The extents of a table that permit the kind: a copy's byte lies in some extent that its party may use (R231). -/
def permitting (x : AMap Extent) (k : ReqKind) : AMap Extent := x.filter (fun p => p.2.permits k)

/-! ### Units of a copy (R226) -/

/-- The bytes of one token of a queue copy (R230). -/
def State.tokenBytes (s : State) (c : Copy) : Nat :=
  match c.kind with
  | .push q .. => if s.outWide c.core q then 64 else 8
  | .pop q .. => if isActor c.core && s.inWide c.core q then 64 else 8
  | _ => 8

/-- How many aligned units of 8 bytes a range touches. -/
def unitCount (a n : Nat) : Nat := if n = 0 then 0 else (a % 8 + n + 7) / 8

/-- Unit i of a range. -/
def rangeUnit (a n i : Nat) : Option Nat := if i < unitCount a n then some (a / 8 + i) else none

/-- The units that the walk of a record touches, each once. -/
def shapeUnits (h : Vec) : List Nat :=
  ((upTo (recCount h)).flatMap (fun k =>
    let l := walkLoc h k
    (upTo (unitCount l.addr l.bytes)).map (fun i => l.addr / 8 + i))).eraseDups

/-- Unit i that the copy reads; none where its data comes from a register or from tokens. -/
def Copy.source (c : Copy) (i : Nat) : Option Nat :=
  match c.kind with
  | .copy src _ _ _ | .push _ src _ _ => rangeUnit src c.len i
  | .shapes .. => c.shapes.1[i]?
  | _ => none

/-- Unit i that the copy writes; none for a push. -/
def Copy.dest (c : Copy) (i : Nat) : Option Nat :=
  match c.kind with
  | .copy _ dst _ _ | .fill dst _ _ | .pop _ dst _ => rangeUnit dst c.len i
  | .shapes .. => c.shapes.2[i]?
  | .push .. => none

/-- How many units the copy writes. -/
def Copy.destCount (c : Copy) : Nat :=
  match c.kind with
  | .copy _ dst _ _ | .fill dst _ _ | .pop _ dst _ => unitCount dst c.len
  | .shapes .. => c.shapes.2.length
  | .push .. => 0

/-- Is the source in device memory? -/
def Copy.fromDevice (c : Copy) : Bool :=
  match c.kind with
  | .copy _ _ dev _ | .push _ _ dev _ => dev
  | .shapes _ h => recSpace h == 1
  | _ => false

/-- Is the destination in device memory? -/
def Copy.toDevice (c : Copy) : Bool :=
  match c.kind with
  | .copy _ _ _ dev | .fill _ _ dev | .pop _ _ dev => dev
  | .shapes h _ => recSpace h == 1
  | .push .. => false

/-- The ranges of bytes that the copy reads. -/
def Copy.sourceRanges (c : Copy) : List (Nat × Nat) :=
  match c.kind with
  | .copy src _ _ _ | .push _ src _ _ => [(src, c.len)]
  | .shapes _ h => (upTo (recCount h)).map (fun k => ((walkLoc h k).addr, (walkLoc h k).bytes))
  | _ => []

/-- The ranges of bytes that the copy writes. -/
def Copy.destRanges (c : Copy) : List (Nat × Nat) :=
  match c.kind with
  | .copy _ dst _ _ | .fill dst _ _ | .pop _ dst _ => [(dst, c.len)]
  | .shapes h _ => (upTo (recCount h)).map (fun k => ((walkLoc h k).addr, (walkLoc h k).bytes))
  | .push .. => []

/-- What ranges touch of unit u: the first byte, and the bytes up to the last. -/
def spanIn (rs : List (Nat × Nat)) (u : Nat) : Nat × Nat :=
  let parts := (rs.filter (fun r => r.1 < 8 * u + 8 && 8 * u < r.1 + r.2)).map (fun r => (max r.1 (8 * u), min (r.1 + r.2) (8 * u + 8)))
  let lo := parts.foldl (fun x p => min x p.1) (8 * u + 8)
  (lo, parts.foldl (fun x p => max x p.2) lo - lo)

/-- A run of bits that a unit of the destination takes from the source: the places of its first bit in both, and its length. -/
structure Frag where
  dst : Nat
  src : Nat
  width : Nat
  deriving DecidableEq, Repr

/-- The runs of a range copied from `src` to `dst` that lie in unit u of the destination, each from one unit of the source. -/
def rangeFrags (src dst len u : Nat) : List Frag :=
  let lo := max dst (8 * u)
  (unitPieces (src + (lo - dst)) (min (dst + len) (8 * u + 8) - lo)).map (fun p =>
    { dst := 8 * (lo + p.1), src := 8 * (src + (lo - dst) + p.1), width := 8 * p.2 })

/-- The runs of a CPYS that lie in unit u: the elements there, in walk order. -/
def shapeFrags (hd ha : Vec) (u : Nat) : List Frag :=
  (upTo (recCount hd)).filterMap (fun k =>
    let l := walkLoc hd k
    let m := walkLoc ha k
    let first := 8 * l.addr + l.shift
    let lo := max first (64 * u)
    let hi := min (first + elemBits (recElem hd)) (64 * u + 64)
    if lo < hi then some { dst := lo, src := 8 * m.addr + m.shift + (lo - first), width := hi - lo } else none)

/-- The runs of unit u of a copy that has a source. A pop's source is the string of its tokens' bytes. -/
def Copy.frags (c : Copy) (u : Nat) : List Frag :=
  match c.kind with
  | .copy src dst _ _ => rangeFrags src dst c.len u
  | .pop _ dst _ => rangeFrags 0 dst c.len u
  | .shapes hd ha => shapeFrags hd ha u
  | _ => []

/-- Bits of the units read, and whether one was poisoned; none where one is not there. -/
def bufBits (b : AMap CopyPart) (src w : Nat) : Option (Nat × Bool) :=
  (upTo ((src % 64 + w + 63) / 64)).foldl (fun acc k =>
    let u := src / 64 + k
    match acc, AMap.find b u with
    | some (v, bad), some p =>
      let lo := max src (64 * u)
      let hi := min (src + w) (64 * u + 64)
      some (v + bitRange p.value (lo % 64) (hi - lo) * 2 ^ (lo - src), bad || p.poison)
    | _, _ => none) (some (0, false))

/-- What a copy has to write to a unit: the value, the bits that it has, and the bytes that poisoned data supplies. -/
structure Piece where
  value : Nat
  bits : Nat
  bad : List (Nat × Nat)
  deriving DecidableEq, Repr

/-- Put a run into a piece. -/
def Piece.put (x : Piece) (f : Frag) (v : Nat) (bad : Bool) : Piece :=
  { value := putBits x.value (f.dst % 64) f.width v
    bits := x.bits ||| (2 ^ f.width - 1) * 2 ^ (f.dst % 64)
    bad := if bad then (f.dst / 8, (f.dst % 8 + f.width + 7) / 8) :: x.bad else x.bad }

/-- The byte of a fill that address a receives (R229). -/
def fillByte (w : Word) (a : Nat) : Nat := byteAt w.toNat (a % 8)

/-- What the copy writes to unit u, once its data is there. -/
def Copy.piece (c : Copy) (u : Nat) : Option Piece :=
  let none_ : Piece := { value := 0, bits := 0, bad := [] }
  match c.kind with
  | .fill dst w _ =>
    some (foldUp (fun i x =>
      if dst ≤ 8 * u + i && 8 * u + i < dst + c.len then x.put { dst := 64 * u + 8 * i, src := 0, width := 8 } (fillByte w i) false
      else x) 8 none_)
  | _ => (c.frags u).foldl (fun acc f =>
    match acc, bufBits c.buf f.src f.width with
    | some x, some (v, bad) => some (x.put f v bad)
    | _, _ => none) (some none_)

/-- Does the copy carry its source lines' descriptors (R78, R227)? -/
def Copy.carries (c : Copy) : Bool :=
  match c.kind with
  | .copy src dst true true => src % 64 == 0 && dst % 64 == 0 && c.len % 64 == 0
  | _ => false

/-- Does the copy write the whole line of unit u (R144), and the descriptor that it then places (R78, R208, R227)? -/
def Copy.lineOf (c : Copy) (u : Nat) : Bool × Option (Nat × Nat) :=
  match c.kind with
  | .shapes hd _ =>
    match findUp (fun k => (walkLoc hd k).addr / 64 == u / 8) (recCount hd) with
    | none => (false, none)
    | some k =>
      let whole := coversLine hd k
      (whole, if recDesc hd && whole then some (formatCode (recElem hd), 0x7F) else none)
  | .copy src dst _ _ =>
    let whole : Bool := dst ≤ u / 8 * 64 && u / 8 * 64 + 64 ≤ dst + c.len
    (whole, if c.carries then (AMap.find c.buf ((src + (8 * u - dst)) / 8)).bind (fun p => p.desc) else none)
  | .fill dst _ _ | .pop _ dst _ => (dst ≤ u / 8 * 64 && u / 8 * 64 + 64 ≤ dst + c.len, none)
  | .push .. => (false, none)

/-- A line of 6-bit elements that a CPYS writes in whole has byte 63 zero (R73). -/
def Copy.padded (c : Copy) (u : Nat) (x : Piece) : Piece :=
  match c.kind with
  | .shapes hd _ => if sixBit (recElem hd) && u % 8 == 7 && (c.lineOf u).1 then { x with bits := x.bits ||| 255 * 2 ^ 56 } else x
  | _ => x

/-- Change a copy. -/
def State.modCopy (s : State) (op : Nat) (f : Copy → Copy) : State :=
  { s with copies := s.copies.map (fun c => if c.op == op then f c else c) }

/-- A copy reaches a revoked extent (R134, R231): it stops, and the instance ends with the extent violation. -/
def State.copyRevoked (s : State) (c : Copy) (o : MemOp) (va : Nat) : State := (s.cutJob c.op).raiseAt c.core (excAt 0x04 0 va) o.pc

/-! ### Reading -/

/-- A unit has been read. -/
def State.copyTake (s : State) (c : Copy) (u : Nat) (p : CopyPart) : State :=
  s.modCopy c.op (fun x => { x with buf := AMap.put x.buf u p })

/-- Read unit i into the copy engine (R226, R231): of local memory as it is without the firing's latest `stale` writes that are not
ordered before the copy (R51). -/
def State.copyRead (s : State) (c : Copy) (o : MemOp) (i stale : Nat) : State :=
  match c.source i with
  | none => s
  | some u =>
    if AMap.has c.buf u then s
    else
      let span := spanIn c.sourceRanges u
      let up := 2 ^ (8 * (span.1 % 8))
      if !c.fromDevice then
        s.copyTake c u { value := s.asyncRead c.core c.before stale span.1 span.2 * up, poison := s.localBad c.core span.1 span.2, desc := none }
      else match s.translate (permitting c.extents .read) span.1 span.2 .read with
        | none => s.copyRevoked c o span.1
        | some (pa, key, _) =>
          if !s.mayInject o o.reqs.length pa span.2 then s
          else
            let got := s.unitRead c.op (Req.make .read span.1 pa span.2 0 key) true
            got.2.2.copyTake c u { value := got.1 * up, poison := got.2.1,
                                   desc := if c.carries && u % 8 == 0 then some ((s.view (domainOf o.party)).descriptor (pa / 64)) else none }

/-! ### Writing -/

/-- Unit i has been written. -/
def State.partDone (s : State) (c : Copy) (i : Nat) (p : Piece) : State :=
  let s1 := s.modCopy c.op (fun x =>
    { x with
      done := i :: x.done
      bad := p.bad.map (fun r => { device := c.toDevice, addr := r.1, size := r.2 : FailedRange }) ++ x.bad })
  if p.bad.isEmpty then s1 else s1.modOp c.op (fun o => { o with status := 0x03 })

/-- Write a unit of local memory, as the firing will see it at the copy's completion (R51). -/
def State.copyLocal (s : State) (c : Copy) (u : Nat) (p : Piece) : State :=
  let some_ := someBytes p.bits
  let v := if fullBytes p.bits = some_ then p.value else mixBits (locOver c.loc (8 * u) 8 (s.localRead c.core (8 * u) 8)) p.value p.bits
  s.modCopy c.op (fun x => { x with
    loc := if some_ = 255 then locPut x.loc (8 * u) 8 v (!p.bad.isEmpty)
      else foldUp (fun i m => if some_.testBit i then locPut m (8 * u + i) 1 (byteAt v i) (!p.bad.isEmpty) else m) 8 x.loc })

/-- The number under which a copy keeps what a unit of its destination holds, where it writes part of a byte. -/
def oldUnit (u : Nat) : Nat := 2 ^ 64 + u

/-- Write unit i (R226, R231): poisoned data is written poisoned. Where part of a byte is to stay, the unit is read first. -/
def State.copyWrite (s : State) (c : Copy) (o : MemOp) (i : Nat) : State :=
  if c.done.contains i then s
  else match c.dest i with
    | none => s
    | some u => match c.piece u with
      | none => s
      | some x =>
        let p := c.padded u x
        if !c.toDevice then (s.copyLocal c u p).partDone c i p
        else
          let span := spanIn c.destRanges u
          match s.translate (permitting c.extents .write) span.1 span.2 .write with
          | none => s.copyRevoked c o span.1
          | some (pa, key, _) =>
            let unit := pa - (span.1 - 8 * u)
            let whole := fullBytes p.bits = someBytes p.bits
            if !s.mayInject o o.reqs.length unit 8 then s
            else if !whole && !AMap.has c.buf (oldUnit u) then
              let got := s.unitRead c.op (Req.make .read (8 * u) unit 8 0 key) true
              got.2.2.copyTake c (oldUnit u) { value := got.1, poison := false, desc := none }
            else
              let line := c.lineOf u
              let old := (AMap.get { value := 0, poison := false, desc := none } c.buf (oldUnit u)).value
              (s.unitWrite c.op { Req.make .write (8 * u) unit 8 (if whole then p.value else mixBits old p.value p.bits) key with
                be := someBytes p.bits
                desc := if u % 8 = 0 then line.2 else none
                whole := line.1
                poison := !p.bad.isEmpty }).partDone c i p

/-! ### Queue copies (R230) -/

/-- A token's bytes come into the engine: one unit of 8 bytes, or eight. -/
def Copy.popped (c : Copy) (n payload : Nat) (bad : Bool) : Copy :=
  { c with
    tokens := c.tokens + 1
    buf := foldUp (fun k b =>
      AMap.put b (c.tokens * (n / 8) + k) { value := bitRange payload (64 * k) 64, poison := bad, desc := none }) (n / 8) c.buf }

/-- Has the copy a unit of its destination that it could write now? -/
def Copy.canWrite (c : Copy) : Bool := (upTo c.destCount).any (fun i => !c.done.contains i && ((c.dest i).bind c.piece).isSome)

/-- Take the next token of a pop into the engine; the clocks that it carries reach the copy's requests (R44, Token row). A copy of a firing
that has ended waits for no token: with none there, and what it has popped written, it stops (R100). -/
def State.copyPop (s : State) (c : Copy) (o : MemOp) (q : Nat) : State :=
  let n := s.tokenBytes c
  if c.len ≤ c.tokens * n then s
  else if isActor c.core then
    match (s.queueView c.core q).head? with
    | none => if (s.core c.core).run = .ending && !c.canWrite then s.cutJob c.op else s
    | some h =>
      ((s.popQueue c.core q h).mergeOpClock o h.tok.clock).modCopy c.op (fun x => x.popped n h.tok.payload.toNat (ctlPoison h.tok.ctl))
  else
    match (s.core c.core).inbox with
    | [] => s
    | t :: rest =>
      (((s.modCore c.core (fun k => { k with inbox := rest })).mergeClock c.core t.clock).mergeOpClock o t.clock).modCopy c.op
        (fun x => x.popped n t.payload.toNat (ctlPoison t.ctl))

/-- Push the next token of a push (R230): from poisoned data, with poison set. A firing that has ended pushes none (R156, R258). -/
def State.copyPush (s : State) (c : Copy) (o : MemOp) (q src : Nat) (last : Bool) : State :=
  let n := s.tokenBytes c
  if c.len ≤ c.tokens * n then s
  else if (s.core c.core).run = .ending then
    if (bufBits c.buf (8 * (src + c.tokens * n)) (8 * n)).isSome then s.modCopy c.op (fun x => { x with tokens := x.tokens + 1 }) else s
  else if !(s.firingCtx c.core).canSend q (if n = 64 then 5 else 1) then s
  else match bufBits c.buf (8 * (src + c.tokens * n)) (8 * n) with
    | none => s
    | some (v, bad) =>
      let fin : Bool := (c.tokens + 1) * n = c.len
      let tok : Token :=
        { tag := (s.core c.core).firing.tag, ctl := mkCtl false false 0 (last && fin) bad 0, wide := n == 64,
          payload := BitVec.ofNat 512 v, clock := s.opClock o }
      let s1 := (s.pushQueue c.core q tok).modCopy c.op (fun x => { x with tokens := x.tokens + 1 })
      if bad then s1.modOp c.op (fun o => { o with status := 0x03 }) else s1

/-! ### The engine (R225, R226) -/

/-- Has the copy moved everything? -/
def State.copyOver (s : State) (c : Copy) : Bool :=
  match c.kind with
  | .push .. => c.len ≤ c.tokens * s.tokenBytes c
  | _ => c.destCount ≤ c.done.length

/-- The copy may complete once it has moved everything and its requests have completed. -/
def State.copyFinish (s : State) (op : Nat) : State :=
  match s.copies.find? (fun c => c.op == op) with
  | none => s
  | some c => if s.copyOver c then s.modOp op (fun o => { o with pending := false }) else s

/-- COPY_ENGINE_TRANSFER (R226): the engine reads unit `index` of a copy's source, or writes unit `index` of its destination; a
queue copy takes or sends its next token. Of the firing's local writes that are not ordered before the copy, the latest
`State.unseen` are not yet seen (R51). -/
def execCopyEngineTransfer (op index : Nat) (write : Bool) (s : State) : Out :=
  match s.copies.find? (fun c => c.op == op), s.op op with
  | some c, some o =>
    if !s.arcsMet o || !o.pending then .next s
    else
      let s1 := match c.kind, write with
        | .pop q .., false => s.copyPop c o q
        | .push q src _ last, true => s.copyPush c o q src last
        | _, false => s.copyRead c o index s.unseen
        | _, true => s.copyWrite c o index
      .next (s1.copyFinish op)
  | _, _ => .next s

/-! ### Issue -/

/-- The copies that share the core's copy engine (R225). -/
def State.engineCopies (s : State) (p : Nat) : Nat := s.copies.countP (fun c => copyParty c.core == copyParty p)

/-- May the engine take a further copy (R225)? -/
def State.engineFull (s : State) (p : Nat) : Bool := (if isActor p then 32 else 16) ≤ s.engineCopies p

/-- The bytes that a copy writes, for `DONE.RESULT`; of 4-bit and 6-bit elements, their bits in bytes, rounded up. DESIGN CHOICE:
log entry 75. -/
def Copy.written (c : Copy) : Nat :=
  match c.kind with
  | .shapes h _ => (recCount h * elemBits (recElem h) + 7) / 8
  | _ => c.len

/-- The status of the range checks (R231), and whether the whole destination is a failed range. Where several fail, the status is
0x01 before 0x02 before 0x04. DESIGN CHOICE: log entry 74. -/
def State.copyStatus (s : State) (c : Copy) : Nat × List FailedRange :=
  let p := c.core
  let ok := fun (dev : Bool) (k : ReqKind) (a n : Nat) => s.rangeOk p c.extents dev k a n
  let whole := fun (dev : Bool) (a n : Nat) => [{ device := dev, addr := a, size := n : FailedRange }]
  let judge := fun (sdev sok ddev dok : Bool) (dst : List FailedRange) =>
    if sdev && !sok then (0x01, dst)
    else if ddev && !dok then (0x02, dst)
    else if !sok || !dok then (0x04, if !ddev && dok then dst else [])
    else (0x00, [])
  match c.kind with
  | .copy src dst sd dd => judge sd (ok sd .read src c.len) dd (ok dd .write dst c.len) (whole dd dst c.len)
  | .fill dst _ dd => judge false true dd (ok dd .write dst c.len) (whole dd dst c.len)
  | .push _ src sd _ => judge sd (ok sd .read src c.len) false true []
  | .pop _ dst dd => judge false true dd (ok dd .write dst c.len) (whole dd dst c.len)
  | .shapes hd ha =>
    let all := fun (h : Vec) (k : ReqKind) =>
      (upTo (recCount h)).all (fun i => ok (recSpace h == 1) k (walkLoc h i).addr (walkLoc h i).bytes)
    judge (recSpace ha == 1) (all ha .read) (recSpace hd == 1) (all hd .write)
      ((upTo (recCount hd)).map (fun i =>
        { device := recSpace hd == 1, addr := (walkLoc hd i).addr, size := (walkLoc hd i).bytes }))

/-- The physical ranges that the bytes of a copy have, for the Same location row of R44. -/
def extentRanges (x : AMap Extent) (k : ReqKind) (rs : List (Nat × Nat)) : List Req :=
  rs.flatMap (fun r => x.flatMap (fun (e : Nat × Extent) =>
    let lo := max r.1 e.2.vbase
    let hi := min (r.1 + r.2) (e.2.vbase + e.2.size)
    if e.2.valid && e.2.permits k && lo < hi then (e.2.places lo (hi - lo)).map (fun q => Req.make k lo q.1 q.2 0 e.2.key) else []))

/-- Put a copy in flight: its engine is the party, its clock starts as the issuer's (R226), its ranges are checked first
(R231). -/
def State.launchCopy (s : State) (kind : CopyKind) (len : Nat) (o : Operands) : Out :=
  let c : Copy :=
    { op := s.z.nextId, core := s.cur, kind := kind, len := len, extents := s.extentsOf s.cur,
      shapes := match kind with
        | .shapes hd ha => (shapeUnits ha, shapeUnits hd)
        | _ => ([], [])
      buf := [], done := [], tokens := 0, bad := [], loc := [], before := s.localBefore o.c }
  let st := s.copyStatus c
  let empty : Bool := s.copyOver c
  let op := { s.newOp o true with
    party := copyParty s.cur
    own := some (s.clock s.cur)
    acquire := o.md.getLsbD 2
    release := o.md.getLsbD 3
    status := st.1
    result := if st.1 = 0 then c.written else 0
    pending := st.1 = 0 && !empty
    unit := true
    future := (if c.fromDevice then extentRanges c.extents .read c.sourceRanges else []) ++
      (if c.toDevice then extentRanges c.extents .write c.destRanges else []) }
  let c1 := { c with bad := st.2 }
  .next (({ s.addOp op s.cur with copies := s.copies ++ [c1] }.modCore s.cur (fun k => k.markT o.t)).retire o.form)

/-- A copy of length 0 completes at once (R227). -/
def State.copyOrNothing (s : State) (kind : CopyKind) (len : Nat) (o : Operands) : Out :=
  if len = 0 then .next ((s.doneNow o.t 0 0).retire o.form) else s.launchCopy kind len o

/-- CPY (R227): bits 0 and 1 of `IMM16` name the spaces. -/
def execCpy (o : Operands) (s : State) : Out :=
  let bad := badIf (o.t == 0 || o.imm.toNat / 4 != 0)
  issue ({ Use.none with xs := [o.d, o.a, o.b], hold := s.engineFull s.cur, bad := bad }.tokens o) s (fun rd s1 =>
    let n := (rd o.b).toNat
    if 2 ^ 32 ≤ n then s1.raise excOperand
    else s1.copyOrNothing (.copy (rd o.a).toNat (rd o.d).toNat (o.imm.getLsbD 0) (o.imm.getLsbD 1)) n o)

/-- CPYF (R229). -/
def execCpyf (o : Operands) (s : State) : Out :=
  let bad := badIf (o.t == 0 || o.imm.toNat / 4 != 0)
  issue ({ Use.none with xs := [o.d, o.a, o.b], hold := s.engineFull s.cur, bad := bad }.tokens o) s (fun rd s1 =>
    let n := (rd o.b).toNat
    if 2 ^ 32 ≤ n then s1.raise excOperand
    else s1.copyOrNothing (.fill (rd o.d).toNat (rd o.a) (o.imm.getLsbD 1)) n o)

/-- CPYS (R228): element k of h[`A`] to element k of h[`D`]. A copy has no alignment requirement (R211). -/
def execCpys (o : Operands) (s : State) : Out :=
  issue ({ Use.none with hs := [hreg o.d, hreg o.a], hold := s.engineFull s.cur, bad := badIf (o.t == 0) }.tokens o) s
    (fun _ s1 =>
      let (hd, ha) := (s1.me.rh (hreg o.d), s1.me.rh (hreg o.a))
      if recordBad hd || recordBad ha || recSpace hd == 2 || recSpace ha == 2 || recType hd != recType ha ||
          recCount hd != recCount ha then s1.raise excOperand
      else s1.copyOrNothing (.shapes hd ha) (recCount ha) o)

/-- CPYQ (R230): `IMM16`[2] set is a pop, clear a push, which follows a result that is pending for the same queue (R98). -/
def queueCopy (o : Operands) (s : State) : Out :=
  let pop := o.imm.getLsbD 2
  let q := queueOf o.d
  let actor := isActor s.cur
  let bad :=
    if o.t == 0 || o.imm.toNat / 16 != 0 || o.imm.getLsbD 1 || !namesQueue o.d || (!pop && !actor) then some excOperand
    else if actor && (if pop then s.inPred s.cur q else s.outPred s.cur q) then some (exc 0x01 0x05)
    else none
  let hold := s.engineFull s.cur || (actor && (s.queueBusy s.cur pop q || (!pop && s.me.pendingX o.d)))
  issue ({ Use.none with xs := [o.a, o.b], hold := hold, bad := bad }.tokens o) s (fun rd s1 =>
    let n := (rd o.b).toNat
    let wide := actor && (if pop then s1.inWide s1.cur q else s1.outWide s1.cur q)
    let unit := if wide then 64 else 8
    if n % unit != 0 then s1.raise excOperand
    else if !pop && s1.overRate s1.cur q (n / unit) then s1.raise (exc 0x01 0x04)
    else
      let kind := if pop then CopyKind.pop q (rd o.a).toNat (o.imm.getLsbD 0)
        else CopyKind.push q (rd o.a).toNat (o.imm.getLsbD 0) (o.imm.getLsbD 3)
      s1.copyOrNothing kind n o)

/-- CPYQ, push (R230). -/
def execCpyqPush (o : Operands) (s : State) : Out := queueCopy o s
/-- CPYQ, pop (R230). -/
def execCpyqPop (o : Operands) (s : State) : Out := queueCopy o s

end Sys2Proof.Machine
end

