-- ==== Sys2Proof/WellFormed.lean ====
section
/-! DEFINITION. Well-formed instructions: the lengths that each instruction accepts, the fields that a length does not
supply, the forms that share one opcode, and the event's tile numbers. -/

namespace Sys2Proof

/-- The operand fields of an instruction; none for a hint and for an event. -/
def Instr.operands : Instr → Option Operands
  | .add o | .sub o | .and o | .or o | .xor o | .andn o | .shl o | .shr o | .sha o | .rot o | .min o | .max o | .minz
    o | .maxz o | .slt o | .sltz o | .seq o | .sne o | .addW o | .subW o | .andW o | .orW o | .xorW o | .andnW o |
    .shlW o | .shrW o | .shaW o | .rotW o | .minW o | .maxW o | .minzW o | .maxzW o | .sltW o | .sltzW o | .seqW o |
    .sneW o | .mul o | .mulh o | .mulhz o | .div o | .divz o | .rem o | .remz o | .clz o | .ctz o | .pop o | .brev o |
    .bswap o | .ext o | .dep o | .mov o | .li o | .sel o | .selz o | .fadd o | .fsub o | .fmul o | .fma o | .fms o |
    .fdiv o | .fsqrt o | .fmin o | .fmax o | .fabs o | .fneg o | .feq o | .flt o | .fle o | .funord o | .fclass o |
    .cvt o | .frnd o | .beq o | .bne o | .blt o | .bge o | .bltz o | .bgez o | .jmp o | .jal o | .jr o | .loop o |
    .waitt o | .waitq o | .endFiring o | .halt o | .ldB o | .ldH o | .ldW o | .ldD o | .ldBz o | .ldHz o | .ldWz o |
    .ldRob o | .ldRoh o | .ldRow o | .ldRod o | .stB o | .stH o | .stW o | .stD o | .ldlB o | .ldlH o | .ldlW o |
    .ldlD o | .stlB o | .stlH o | .stlW o | .stlD o | .amoadd o | .amofadd o | .amomin o | .amomax o | .amominz o |
    .amomaxz o | .amoand o | .amoor o | .amoxor o | .amoswp o | .amocas o | .amoinc o | .fence o | .invro o | .pref o
    | .waitv o | .cpy o | .cpys o | .cpyf o | .cpyqPush o | .cpyqPop o | .emit o | .emitp o | .peek o | .tagrd o |
    .tagmk o | .vadd o | .vsub o | .vmul o | .vfma o | .vfms o | .vmin o | .vmax o | .vabs o | .vneg o | .vand o |
    .vor o | .vxor o | .vshl o | .vshr o | .vsha o | .veq o | .vlt o | .vle o | .vun o | .vcvt o | .vrnd o | .vscl o |
    .vexp o | .vmov o | .vbc o | .vsel o | .vperm o | .vslide o | .viota o | .vins o | .vxtr o | .vrsum o | .vrmax o |
    .vrmin o | .vldl o | .vstl o | .vldg o | .vsts o | .vld o | .vst o | .vqrd o | .vowr o | .vexp2f o | .vlog2f o |
    .vrcp o | .vrsq o | .cordSin o | .cordCos o | .cordAtn o | .cordHyp o | .mand o | .mor o | .mxor o | .mandn o |
    .mnot o | .mpop o | .mfst o | .mmov o | .mset o | .shld o | .shst o | .shbq o | .smap o | .sred o | .scvt o |
    .scpy o | .mxcfg o | .mxzero o | .mxmul o | .mxdrnMemory o | .mxdrnQueue o | .mxdrnRegisters o | .mxmsk o | .mxmpb
    o | .mxwait o | .qscfg o | .qsstep o | .qsrun o | .qsrd o | .qssav o | .qsrst o | .qsmskAnd o | .qsmskCandidates o
    | .qsmskBeyond o | .samp o | .acpt o | .cmit o | .seedFresh o | .seedExplicit o | .seedReplay o | .seedClear o |
    .cfgldLoad o | .cfgldUnload o | .cfgsw o | .cfgck o | .cfged o | .bind o | .unbind o | .portwGatcnt o |
    .portwCompletions o | .portwDiscards o | .portwReply o | .arm o | .inj o | .awaitCompletion o | .awaitInbox o |
    .awaitEither o | .barr o | .copen o | .cclose o | .cquota o | .ckill o | .lease o | .unlease o | .lnchW o | .lnchN
    o | .qset o | .qyld o | .tcrd o | .swpol o | .swpenEnable o | .swpenDisable o | .swpx o | .swplg o | .trap o |
    .brk o | .syscImageExtent o | .syscSlotEvent o | .syscTimestamp o | .eret o | .idle o | .rdsr o | .wrsr o | .keyld
    o | .keyz o | .ifstLock o | .ifstRun o | .ifstStop o | .ifrpt o => some o
  | .nop _ | .hintRegion _ | .faultEntry _ | .resetPart _ _ _ _ | .requestToken _ _ _ _ _ _ _ | .controlRead _ _ |
    .controlWrite _ _ _ | .memoryWrite _ _ _ | .memoryRead _ _ _ | .unknownMessage | .ctlsemAcquire _ _ |
    .ctlsemRelease _ _ | .violaddrClear _ | .violaddrRead _ | .ifstatRead _ _ | .frozenRegisterWrite _ _ _ _ |
    .evtbWrite _ _ | .evttailWrite _ _ | .evtack _ _ | .eventRecordWrite _ | .tfence _ | .netctlWrite _ | .merrstRead
    | .merrstOvfClear | .gdropRead | .sillstRead _ | .sillstEfailClear _ | .operatingPointChange _ _ |
    .entropyHealthFailure _ _ | .entropyStartupPass _ | .peerTokenArrival _ _ _ _ _ _ _ | .systemScopeAcknowledge _ _
    | .crcMismatch _ _ | .linkFailed _ | .tokenArrival _ | .mapFiring _ _ _ | .redFiring _ _ _ | .nrmFiring _ _ _ |
    .lutFiring _ _ _ | .steFiring _ _ _ | .mrgFiring _ _ _ | .jonComparison _ _ _ | .genTrigger _ _ _ | .genEmit _ _ |
    .tagFiring _ _ _ | .ldmFiring _ _ _ | .ldmResult _ | .stmFiring _ _ _ | .stmCompletion _ | .gatEntryFiring _ _ _ |
    .louvreAdmit _ _ | .exitResultForward _ _ _ | .exitDoneFiring _ _ _ | .sweepAcknowledge _ _ _ _ | .completionEmit
    _ _ _ | .stallSpill _ _ _ _ | .sumpRefill _ _ _ _ | .streamPortRead _ _ _ _ | .streamPortWrite _ _ _ _ |
    .actorFiringIssue _ _ _ _ | .firingBudgetSuspend _ | .watchdogExpiry _ | .quantumExpiry _ |
    .blockSchedulerActivate _ | .idleEnd _ | .doneCompletion _ | .awaitTake _ | .pendingLaunchProcess _ | .memoryReply
    _ _ _ | .zaluloIssue _ _ _ | .zaluloDeliver _ _ | .roCacheFill _ _ _ _ | .roCacheDrop _ _ _ | .zaluloAtomic _ _ _
    | .fenceComplete _ | .copyEngineTransfer _ _ _ | .migrationStart _ _ _ _ | .migrationRound _ | .migrationCommit _
    | .migrationAbandon _ | .oldFrameRelease _ | .frameScrub _ | .correctedError | .uncorrectableError _ _ _ |
    .cxlPoisonReport _ | .leaseComplete _ | .cfgldComplete _ | .cfgswFlip _ | .cfgedApply _ | .ccloseFinish _ |
    .ckillFinish _ | .barrReopen _ | .unleaseEnd _ | .unbindComplete _ | .keyzZeroise _ | .loaderServiceLoad _ _ _ _ |
    .mxBankAcquire _ | .mxPass _ _ | .mxQueueOperation _ _ | .mxDrainRun _ _ | .chainStart _ _ _ | .chainPass _ _ |
    .chainDrain _ _ | .qsChannelAcquire _ | .qsTransposeChunk _ _ | .qsPlaneStep _ _ | .swapInstant _ |
    .swapBoundaryReached _ | .swapBoundaryTimeout _ | .swapFlip _ | .transomForward _ _ _ _ | .transomClose _ _ |
    .peerMemoryRequest _ _ _ _ _ _ _ | .streamUnitTransfer _ _ | .spdmRequest _ _ => none

/-- The lengths that an instruction accepts (R88, R165 to R168, R171, R177, R183, R190, R199, R202 to R204, R208, R225,
R326, R365, R395, R406, R429, R471); none for a hint and for an event. -/
def Instr.forms : Instr → List Form
  | .mand _ | .mor _ | .mxor _ | .mandn _ | .mnot _ | .mpop _ | .mfst _ | .mmov _ | .mxwait _ => [.w32]
  | .cpy _ | .cpys _ | .cpyf _ | .cpyqPush _ | .cpyqPop _ | .tagmk _ | .cordSin _ | .cordCos _ | .cordAtn _ | .cordHyp
    _ | .mxdrnMemory _ | .mxdrnQueue _ | .mxdrnRegisters _ | .qsrd _ | .seedFresh _ | .seedExplicit _ | .seedReplay _
    | .seedClear _ | .rdsr _ | .wrsr _ => [.w64]
  | .fsqrt _ | .fabs _ | .fneg _ | .fclass _ | .frnd _ | .fence _ | .invro _ | .pref _ | .waitv _ | .vabs _ |
    .vneg _ | .vcvt _ | .vrnd _ | .vexp _ | .vmov _ | .viota _ | .vrsum _ | .vrmax _ | .vrmin _ | .vldg _ | .vsts _ |
    .vqrd _ | .vowr _ | .vexp2f _ | .vlog2f _ | .vrcp _ | .vrsq _ | .smap _ | .sred _ | .scvt _ | .scpy _ | .mxcfg _ |
    .mxzero _ | .mxmul _ | .mxmsk _ | .mxmpb _ | .qscfg _ | .qsstep _ | .qsrun _ | .qssav _ | .qsrst _ | .qsmskAnd _ |
    .qsmskCandidates _ | .qsmskBeyond _ | .samp _ | .acpt _ | .cmit _ | .cfgldLoad _ | .cfgldUnload _ | .cfgsw _ |
    .cfgck _ | .cfged _ | .bind _ | .unbind _ | .portwGatcnt _ | .portwCompletions _ | .portwDiscards _ | .portwReply
    _ | .arm _ | .inj _ | .awaitCompletion _ | .awaitInbox _ | .awaitEither _ | .barr _ | .copen _ | .cclose _ |
    .cquota _ | .ckill _ | .lease _ | .unlease _ | .lnchW _ | .lnchN _ | .qset _ | .qyld _ | .tcrd _ | .swpol _ |
    .swpenEnable _ | .swpenDisable _ | .swpx _ | .swplg _ | .keyld _ | .keyz _ | .ifstLock _ | .ifstRun _ | .ifstStop
    _ | .ifrpt _ => [.w32, .w64]
  | .beq _ | .bne _ | .blt _ | .bge _ | .bltz _ | .bgez _ | .jmp _ | .jal _ | .loop _ => [.w64, .w96]
  | .add _ | .sub _ | .and _ | .or _ | .xor _ | .andn _ | .shl _ | .shr _ | .sha _ | .rot _ | .min _ | .max _ | .minz
    _ | .maxz _ | .slt _ | .sltz _ | .seq _ | .sne _ | .addW _ | .subW _ | .andW _ | .orW _ | .xorW _ | .andnW _ |
    .shlW _ | .shrW _ | .shaW _ | .rotW _ | .minW _ | .maxW _ | .minzW _ | .maxzW _ | .sltW _ | .sltzW _ | .seqW _ |
    .sneW _ | .mul _ | .mulh _ | .mulhz _ | .div _ | .divz _ | .rem _ | .remz _ | .clz _ | .ctz _ | .pop _ | .brev _ |
    .bswap _ | .ext _ | .dep _ | .mov _ | .li _ | .sel _ | .selz _ | .fadd _ | .fsub _ | .fmul _ | .fma _ | .fms _ |
    .fdiv _ | .cvt _ | .fmin _ | .fmax _ | .feq _ | .flt _ | .fle _ | .funord _ | .jr _ | .waitt _ | .waitq _ | .endFiring _ |
    .halt _ | .ldB _ | .ldH _ | .ldW _ | .ldD _ | .ldBz _ | .ldHz _ | .ldWz _ | .ldRob _ | .ldRoh _ | .ldRow _ |
    .ldRod _ | .stB _ | .stH _ | .stW _ | .stD _ | .ldlB _ | .ldlH _ | .ldlW _ | .ldlD _ | .stlB _ | .stlH _ | .stlW _
    | .stlD _ | .amoadd _ | .amofadd _ | .amomin _ | .amomax _ | .amominz _ | .amomaxz _ | .amoand _ | .amoor _ |
    .amoxor _ | .amoswp _ | .amocas _ | .amoinc _ | .emit _ | .emitp _ | .peek _ | .tagrd _ | .vadd _ | .vsub _ |
    .vmul _ | .vfma _ | .vfms _ | .vmin _ | .vmax _ | .vand _ | .vor _ | .vxor _ | .vshl _ | .vshr _ | .vsha _ | .veq
    _ | .vlt _ | .vle _ | .vun _ | .vscl _ | .vbc _ | .vsel _ | .vperm _ | .vslide _ | .vins _ | .vxtr _ | .vldl _ |
    .vstl _ | .vld _ | .vst _ | .mset _ | .shld _ | .shst _ | .shbq _ | .trap _ | .brk _ | .syscImageExtent _ |
    .syscSlotEvent _ | .syscTimestamp _ | .eret _ | .idle _ => [.w32, .w64, .w96]
  | .nop _ | .hintRegion _ | .faultEntry _ | .resetPart _ _ _ _ | .requestToken _ _ _ _ _ _ _ | .controlRead _ _ |
    .controlWrite _ _ _ | .memoryWrite _ _ _ | .memoryRead _ _ _ | .unknownMessage | .ctlsemAcquire _ _ |
    .ctlsemRelease _ _ | .violaddrClear _ | .violaddrRead _ | .ifstatRead _ _ | .frozenRegisterWrite _ _ _ _ |
    .evtbWrite _ _ | .evttailWrite _ _ | .evtack _ _ | .eventRecordWrite _ | .tfence _ | .netctlWrite _ | .merrstRead
    | .merrstOvfClear | .gdropRead | .sillstRead _ | .sillstEfailClear _ | .operatingPointChange _ _ |
    .entropyHealthFailure _ _ | .entropyStartupPass _ | .peerTokenArrival _ _ _ _ _ _ _ | .systemScopeAcknowledge _ _
    | .crcMismatch _ _ | .linkFailed _ | .tokenArrival _ | .mapFiring _ _ _ | .redFiring _ _ _ | .nrmFiring _ _ _ |
    .lutFiring _ _ _ | .steFiring _ _ _ | .mrgFiring _ _ _ | .jonComparison _ _ _ | .genTrigger _ _ _ | .genEmit _ _ |
    .tagFiring _ _ _ | .ldmFiring _ _ _ | .ldmResult _ | .stmFiring _ _ _ | .stmCompletion _ | .gatEntryFiring _ _ _ |
    .louvreAdmit _ _ | .exitResultForward _ _ _ | .exitDoneFiring _ _ _ | .sweepAcknowledge _ _ _ _ | .completionEmit
    _ _ _ | .stallSpill _ _ _ _ | .sumpRefill _ _ _ _ | .streamPortRead _ _ _ _ | .streamPortWrite _ _ _ _ |
    .actorFiringIssue _ _ _ _ | .firingBudgetSuspend _ | .watchdogExpiry _ | .quantumExpiry _ |
    .blockSchedulerActivate _ | .idleEnd _ | .doneCompletion _ | .awaitTake _ | .pendingLaunchProcess _ | .memoryReply
    _ _ _ | .zaluloIssue _ _ _ | .zaluloDeliver _ _ | .roCacheFill _ _ _ _ | .roCacheDrop _ _ _ | .zaluloAtomic _ _ _
    | .fenceComplete _ | .copyEngineTransfer _ _ _ | .migrationStart _ _ _ _ | .migrationRound _ | .migrationCommit _
    | .migrationAbandon _ | .oldFrameRelease _ | .frameScrub _ | .correctedError | .uncorrectableError _ _ _ |
    .cxlPoisonReport _ | .leaseComplete _ | .cfgldComplete _ | .cfgswFlip _ | .cfgedApply _ | .ccloseFinish _ |
    .ckillFinish _ | .barrReopen _ | .unleaseEnd _ | .unbindComplete _ | .keyzZeroise _ | .loaderServiceLoad _ _ _ _ |
    .mxBankAcquire _ | .mxPass _ _ | .mxQueueOperation _ _ | .mxDrainRun _ _ | .chainStart _ _ _ | .chainPass _ _ |
    .chainDrain _ _ | .qsChannelAcquire _ | .qsTransposeChunk _ _ | .qsPlaneStep _ _ | .swapInstant _ |
    .swapBoundaryReached _ | .swapBoundaryTimeout _ | .swapFlip _ | .transomForward _ _ _ _ | .transomClose _ _ |
    .peerMemoryRequest _ _ _ _ _ _ _ | .streamUnitTransfer _ _ | .spdmRequest _ _ => []

/-- A field that the length's parcels do not hold is zero (R86). -/
def Operands.canonical (o : Operands) : Bool :=
  match o.form with
  | .w32 => o.c == 0 && o.md == 0 && o.t == 0 && o.imm == 0 && o.lit == 0
  | .w64 => o.lit == 0
  | .w96 => true

/-- Where several rows of the table share one opcode and function, the instruction is the one that its fields name. The
forms of CFGLD and of IFST differ by a register's value and not by a field, so decoding names the first of them. -/
def Instr.named (i : Instr) : Bool :=
  match i with
  | .cpyqPop o => o.imm.getLsbD 2 == true
  | .cpyqPush o => o.imm.getLsbD 2 != true
  | .mxdrnQueue o => o.imm.toNat % 4 == 1
  | .mxdrnRegisters o => o.imm.toNat % 4 == 2
  | .mxdrnMemory o => o.imm.toNat % 4 != 1 && o.imm.toNat % 4 != 2
  | .qsmskCandidates o => o.imm.toNat % 4 == 1
  | .qsmskBeyond o => o.imm.toNat % 4 == 2
  | .qsmskAnd o => o.imm.toNat % 4 != 1 && o.imm.toNat % 4 != 2
  | .seedExplicit o => o.imm.toNat % 4 == 1
  | .seedReplay o => o.imm.toNat % 4 == 2
  | .seedClear o => o.imm.toNat % 4 == 3
  | .seedFresh o => o.imm.toNat % 4 != 1 && o.imm.toNat % 4 != 2 && o.imm.toNat % 4 != 3
  | .portwCompletions o => o.imm.toNat % 16 == 6
  | .portwDiscards o => o.imm.toNat % 16 == 7
  | .portwReply o => o.imm.toNat % 16 == 8
  | .portwGatcnt o => o.imm.toNat % 16 != 6 && o.imm.toNat % 16 != 7 && o.imm.toNat % 16 != 8
  | .awaitInbox o => o.imm.toNat % 4 == 1
  | .awaitEither o => o.imm.toNat % 4 == 2
  | .awaitCompletion o => o.imm.toNat % 4 != 1 && o.imm.toNat % 4 != 2
  | .swpenEnable o => o.imm.getLsbD 0 == true
  | .swpenDisable o => o.imm.getLsbD 0 != true
  | .syscSlotEvent o => o.imm.toNat == 2
  | .syscTimestamp o => o.imm.toNat == 3
  | .syscImageExtent o => o.imm.toNat != 2 && o.imm.toNat != 3
  | .cfgldUnload _ | .ifstRun _ | .ifstStop _ => false
  | .add _ | .sub _ | .and _ | .or _ | .xor _ | .andn _ | .shl _ | .shr _ | .sha _ | .rot _ | .min _ | .max _ | .minz
    _ | .maxz _ | .slt _ | .sltz _ | .seq _ | .sne _ | .addW _ | .subW _ | .andW _ | .orW _ | .xorW _ | .andnW _ |
    .shlW _ | .shrW _ | .shaW _ | .rotW _ | .minW _ | .maxW _ | .minzW _ | .maxzW _ | .sltW _ | .sltzW _ | .seqW _ |
    .sneW _ | .mul _ | .mulh _ | .mulhz _ | .div _ | .divz _ | .rem _ | .remz _ | .clz _ | .ctz _ | .pop _ | .brev _ |
    .bswap _ | .ext _ | .dep _ | .mov _ | .li _ | .sel _ | .selz _ | .fadd _ | .fsub _ | .fmul _ | .fma _ | .fms _ |
    .fdiv _ | .fsqrt _ | .fmin _ | .fmax _ | .fabs _ | .fneg _ | .feq _ | .flt _ | .fle _ | .funord _ | .fclass _ |
    .cvt _ | .frnd _ | .beq _ | .bne _ | .blt _ | .bge _ | .bltz _ | .bgez _ | .jmp _ | .jal _ | .jr _ | .loop _ |
    .waitt _ | .waitq _ | .endFiring _ | .halt _ | .ldB _ | .ldH _ | .ldW _ | .ldD _ | .ldBz _ | .ldHz _ | .ldWz _ |
    .ldRob _ | .ldRoh _ | .ldRow _ | .ldRod _ | .stB _ | .stH _ | .stW _ | .stD _ | .ldlB _ | .ldlH _ | .ldlW _ |
    .ldlD _ | .stlB _ | .stlH _ | .stlW _ | .stlD _ | .amoadd _ | .amofadd _ | .amomin _ | .amomax _ | .amominz _ |
    .amomaxz _ | .amoand _ | .amoor _ | .amoxor _ | .amoswp _ | .amocas _ | .amoinc _ | .fence _ | .invro _ | .pref _
    | .waitv _ | .cpy _ | .cpys _ | .cpyf _ | .emit _ | .emitp _ | .peek _ | .tagrd _ | .tagmk _ | .vadd _ | .vsub _ |
    .vmul _ | .vfma _ | .vfms _ | .vmin _ | .vmax _ | .vabs _ | .vneg _ | .vand _ | .vor _ | .vxor _ | .vshl _ | .vshr
    _ | .vsha _ | .veq _ | .vlt _ | .vle _ | .vun _ | .vcvt _ | .vrnd _ | .vscl _ | .vexp _ | .vmov _ | .vbc _ | .vsel
    _ | .vperm _ | .vslide _ | .viota _ | .vins _ | .vxtr _ | .vrsum _ | .vrmax _ | .vrmin _ | .vldl _ | .vstl _ |
    .vldg _ | .vsts _ | .vld _ | .vst _ | .vqrd _ | .vowr _ | .vexp2f _ | .vlog2f _ | .vrcp _ | .vrsq _ | .cordSin _ |
    .cordCos _ | .cordAtn _ | .cordHyp _ | .mand _ | .mor _ | .mxor _ | .mandn _ | .mnot _ | .mpop _ | .mfst _ | .mmov
    _ | .mset _ | .shld _ | .shst _ | .shbq _ | .smap _ | .sred _ | .scvt _ | .scpy _ | .mxcfg _ | .mxzero _ | .mxmul
    _ | .mxmsk _ | .mxmpb _ | .mxwait _ | .qscfg _ | .qsstep _ | .qsrun _ | .qsrd _ | .qssav _ | .qsrst _ | .samp _ |
    .acpt _ | .cmit _ | .cfgldLoad _ | .cfgsw _ | .cfgck _ | .cfged _ | .bind _ | .unbind _ | .arm _ | .inj _ | .barr
    _ | .copen _ | .cclose _ | .cquota _ | .ckill _ | .lease _ | .unlease _ | .lnchW _ | .lnchN _ | .qset _ | .qyld _
    | .tcrd _ | .swpol _ | .swpx _ | .swplg _ | .trap _ | .brk _ | .eret _ | .idle _ | .rdsr _ | .wrsr _ | .keyld _ |
    .keyz _ | .ifstLock _ | .ifrpt _ => true
  | .nop _ | .hintRegion _ | .faultEntry _ | .resetPart _ _ _ _ | .requestToken _ _ _ _ _ _ _ | .controlRead _ _ |
    .controlWrite _ _ _ | .memoryWrite _ _ _ | .memoryRead _ _ _ | .unknownMessage | .ctlsemAcquire _ _ |
    .ctlsemRelease _ _ | .violaddrClear _ | .violaddrRead _ | .ifstatRead _ _ | .frozenRegisterWrite _ _ _ _ |
    .evtbWrite _ _ | .evttailWrite _ _ | .evtack _ _ | .eventRecordWrite _ | .tfence _ | .netctlWrite _ | .merrstRead
    | .merrstOvfClear | .gdropRead | .sillstRead _ | .sillstEfailClear _ | .operatingPointChange _ _ |
    .entropyHealthFailure _ _ | .entropyStartupPass _ | .peerTokenArrival _ _ _ _ _ _ _ | .systemScopeAcknowledge _ _
    | .crcMismatch _ _ | .linkFailed _ | .tokenArrival _ | .mapFiring _ _ _ | .redFiring _ _ _ | .nrmFiring _ _ _ |
    .lutFiring _ _ _ | .steFiring _ _ _ | .mrgFiring _ _ _ | .jonComparison _ _ _ | .genTrigger _ _ _ | .genEmit _ _ |
    .tagFiring _ _ _ | .ldmFiring _ _ _ | .ldmResult _ | .stmFiring _ _ _ | .stmCompletion _ | .gatEntryFiring _ _ _ |
    .louvreAdmit _ _ | .exitResultForward _ _ _ | .exitDoneFiring _ _ _ | .sweepAcknowledge _ _ _ _ | .completionEmit
    _ _ _ | .stallSpill _ _ _ _ | .sumpRefill _ _ _ _ | .streamPortRead _ _ _ _ | .streamPortWrite _ _ _ _ |
    .actorFiringIssue _ _ _ _ | .firingBudgetSuspend _ | .watchdogExpiry _ | .quantumExpiry _ |
    .blockSchedulerActivate _ | .idleEnd _ | .doneCompletion _ | .awaitTake _ | .pendingLaunchProcess _ | .memoryReply
    _ _ _ | .zaluloIssue _ _ _ | .zaluloDeliver _ _ | .roCacheFill _ _ _ _ | .roCacheDrop _ _ _ | .zaluloAtomic _ _ _
    | .fenceComplete _ | .copyEngineTransfer _ _ _ | .migrationStart _ _ _ _ | .migrationRound _ | .migrationCommit _
    | .migrationAbandon _ | .oldFrameRelease _ | .frameScrub _ | .correctedError | .uncorrectableError _ _ _ |
    .cxlPoisonReport _ | .leaseComplete _ | .cfgldComplete _ | .cfgswFlip _ | .cfgedApply _ | .ccloseFinish _ |
    .ckillFinish _ | .barrReopen _ | .unleaseEnd _ | .unbindComplete _ | .keyzZeroise _ | .loaderServiceLoad _ _ _ _ |
    .mxBankAcquire _ | .mxPass _ _ | .mxQueueOperation _ _ | .mxDrainRun _ _ | .chainStart _ _ _ | .chainPass _ _ |
    .chainDrain _ _ | .qsChannelAcquire _ | .qsTransposeChunk _ _ | .qsPlaneStep _ _ | .swapInstant _ |
    .swapBoundaryReached _ | .swapBoundaryTimeout _ | .swapFlip _ | .transomForward _ _ _ _ | .transomClose _ _ |
    .peerMemoryRequest _ _ _ _ _ _ _ | .streamUnitTransfer _ _ | .spdmRequest _ _ => true

/-- A well-formed instruction: one that some parcels decode to. -/
def Instr.wf (i : Instr) : Bool :=
  match i with
  | .nop _ => true
  | .hintRegion h => h.rest.canonical
  | _ =>
    match i.operands with
    | some o => o.canonical && i.forms.contains o.form && i.named
    | none => false

/-- Is it an event that the outside or the machine's own freedom brings, and no instruction or fault of one? -/
def Instr.isEvent (i : Instr) : Bool :=
  match i with
  | .nop _ | .hintRegion _ | .faultEntry _ => false
  | _ => i.operands.isNone

end Sys2Proof
end

