-- ==== Sys2Proof/Decode.lean ====
section
/-! DEFINITION. The decoder, total on any bytes and rejecting by name, and after it the encoder, both written from the
encoding tables (R85, R86, R101, R102, R103). -/

namespace Sys2Proof

/-- Why bytes are no instruction (R103). -/
inductive DecodeError where
  /-- Fewer bytes than the length needs. -/
  | truncated
  /-- `OP` is unassigned in R101. -/
  | unassignedOp
  /-- `FN` is unassigned in its family (R102). -/
  | unassignedFn
  /-- The instruction does not accept the length (R88). -/
  | illegalLength
  deriving DecidableEq, Repr

/-- A 32-bit parcel (R85). -/
abbrev Parcel := BitVec 32

/-- `LEN` (R86). -/
def lenField (p : Parcel) : BitVec 2 := p.extractLsb' 0 2
/-- `OP` (R86). -/
def opField (p : Parcel) : BitVec 7 := p.extractLsb' 2 7
/-- `FN` (R86). -/
def fnField (p : Parcel) : BitVec 5 := p.extractLsb' 27 5

/-- The form that `LEN` names (R85); a hint parcel is one parcel long. -/
def formOfLen (l : BitVec 2) : Form := if l = 1 then .w64 else if l = 2 then .w96 else .w32

/-- The fields of the parcels (R86). -/
def fieldsOf (f : Form) (p0 p1 p2 : Parcel) : Operands :=
  let second := f != .w32
  { form := f
    d := p0.extractLsb' 9 6
    a := p0.extractLsb' 15 6
    b := p0.extractLsb' 21 6
    c := if second then p1.extractLsb' 0 6 else 0
    md := if second then p1.extractLsb' 6 4 else 0
    t := if second then p1.extractLsb' 10 6 else 0
    imm := if second then p1.extractLsb' 16 16 else 0
    lit := if f = .w96 then p2 else 0 }

/-- The form of CPYQ that the fields name: `IMM16`[2] set means pop (R230). -/
def cpyqForm (o : Operands) : Instr :=
  match o.imm.getLsbD 2 with
  | true => .cpyqPop o
  | _ => .cpyqPush o

/-- The form of MXDRN that the fields name: `DRN.DST`, the low bits of `IMM16` (R363). -/
def mxdrnForm (o : Operands) : Instr :=
  match o.imm.toNat % 4 with
  | 1 => .mxdrnQueue o
  | 2 => .mxdrnRegisters o
  | _ => .mxdrnMemory o

/-- The form of QSMSK that the fields name: the mode m, `IMM16`[1:0] (R400). -/
def qsmskForm (o : Operands) : Instr :=
  match o.imm.toNat % 4 with
  | 1 => .qsmskCandidates o
  | 2 => .qsmskBeyond o
  | _ => .qsmskAnd o

/-- The form of SEED that the fields name: the mode, `IMM16`[1:0] (R406). -/
def seedForm (o : Operands) : Instr :=
  match o.imm.toNat % 4 with
  | 1 => .seedExplicit o
  | 2 => .seedReplay o
  | 3 => .seedClear o
  | _ => .seedFresh o

/-- The form of PORTW that the fields name: the window w, `IMM16`[3:0] (R342). -/
def portwForm (o : Operands) : Instr :=
  match o.imm.toNat % 16 with
  | 6 => .portwCompletions o
  | 7 => .portwDiscards o
  | 8 => .portwReply o
  | _ => .portwGatcnt o

/-- The form of AWAIT that the fields name: the source src, `IMM16`[1:0] (R344). -/
def awaitForm (o : Operands) : Instr :=
  match o.imm.toNat % 4 with
  | 1 => .awaitInbox o
  | 2 => .awaitEither o
  | _ => .awaitCompletion o

/-- The form of SWPEN that the fields name: en, `IMM16`[0] (R432). -/
noncomputable def swpenForm (o : Operands) : Instr :=
  match o.imm.getLsbD 0 with
  | true => .swpenEnable o
  | _ => .swpenDisable o

/-- The form of SYSC that the fields name: the call n, `IMM16` (R467). -/
noncomputable def syscForm (o : Operands) : Instr :=
  match o.imm.toNat with
  | 2 => .syscSlotEvent o
  | 3 => .syscTimestamp o
  | _ => .syscImageExtent o

/-- The functions of IALU, OP 0x00 (R102). -/
def famIalu (fn : Nat) : Option (Operands → Instr) :=
  match fn with
  | 0 => some .add
  | 1 => some .sub
  | 2 => some .and
  | 3 => some .or
  | 4 => some .xor
  | 5 => some .andn
  | 6 => some .shl
  | 7 => some .shr
  | 8 => some .sha
  | 9 => some .rot
  | 10 => some .min
  | 11 => some .max
  | 12 => some .minz
  | 13 => some .maxz
  | 14 => some .slt
  | 15 => some .sltz
  | 16 => some .seq
  | 17 => some .sne
  | _ => none

/-- The functions of IALU.W, OP 0x01 (R102). -/
def famIaluW (fn : Nat) : Option (Operands → Instr) :=
  match fn with
  | 0 => some .addW
  | 1 => some .subW
  | 2 => some .andW
  | 3 => some .orW
  | 4 => some .xorW
  | 5 => some .andnW
  | 6 => some .shlW
  | 7 => some .shrW
  | 8 => some .shaW
  | 9 => some .rotW
  | 10 => some .minW
  | 11 => some .maxW
  | 12 => some .minzW
  | 13 => some .maxzW
  | 14 => some .sltW
  | 15 => some .sltzW
  | 16 => some .seqW
  | 17 => some .sneW
  | _ => none

/-- The functions of IMUL, OP 0x02 (R102). -/
def famImul (fn : Nat) : Option (Operands → Instr) :=
  match fn with
  | 0 => some .mul
  | 1 => some .mulh
  | 2 => some .mulhz
  | 3 => some .div
  | 4 => some .divz
  | 5 => some .rem
  | 6 => some .remz
  | _ => none

/-- The functions of IBIT, OP 0x03 (R102). -/
def famIbit (fn : Nat) : Option (Operands → Instr) :=
  match fn with
  | 0 => some .clz
  | 1 => some .ctz
  | 2 => some .pop
  | 3 => some .brev
  | 4 => some .bswap
  | 5 => some .ext
  | 6 => some .dep
  | _ => none

/-- The functions of IMOV, OP 0x04 (R102). -/
def famImov (fn : Nat) : Option (Operands → Instr) :=
  match fn with
  | 0 => some .mov
  | 1 => some .li
  | 2 => some .sel
  | 3 => some .selz
  | _ => none

/-- The functions of FALU, OP 0x10 (R102). -/
def famFalu (fn : Nat) : Option (Operands → Instr) :=
  match fn with
  | 0 => some .fadd
  | 1 => some .fsub
  | 2 => some .fmul
  | 3 => some .fma
  | 4 => some .fms
  | 5 => some .fdiv
  | 6 => some .fsqrt
  | 7 => some .fmin
  | 8 => some .fmax
  | 9 => some .fabs
  | 10 => some .fneg
  | _ => none

/-- The functions of FCMP, OP 0x11 (R102). -/
def famFcmp (fn : Nat) : Option (Operands → Instr) :=
  match fn with
  | 0 => some .feq
  | 1 => some .flt
  | 2 => some .fle
  | 3 => some .funord
  | 4 => some .fclass
  | _ => none

/-- The functions of FCVT, OP 0x12 (R102). -/
def famFcvt (fn : Nat) : Option (Operands → Instr) :=
  match fn with
  | 0 => some .cvt
  | 1 => some .frnd
  | _ => none

/-- The functions of BR, OP 0x18 (R102). -/
def famBr (fn : Nat) : Option (Operands → Instr) :=
  match fn with
  | 0 => some .beq
  | 1 => some .bne
  | 2 => some .blt
  | 3 => some .bge
  | 4 => some .bltz
  | 5 => some .bgez
  | _ => none

/-- The functions of JMP, OP 0x19 (R102). -/
def famJmp (fn : Nat) : Option (Operands → Instr) :=
  match fn with
  | 0 => some .jmp
  | 1 => some .jal
  | 2 => some .jr
  | _ => none

/-- The functions of LOOP, OP 0x1A (R102). -/
def famLoop (fn : Nat) : Option (Operands → Instr) :=
  match fn with
  | 0 => some .loop
  | _ => none

/-- The functions of WAIT, OP 0x1B (R102). -/
def famWait (fn : Nat) : Option (Operands → Instr) :=
  match fn with
  | 0 => some .waitt
  | 1 => some .waitq
  | _ => none

/-- The functions of END, OP 0x1C (R102). -/
def famEnd (fn : Nat) : Option (Operands → Instr) :=
  match fn with
  | 0 => some .endFiring
  | 1 => some .halt
  | _ => none

/-- The functions of LD, OP 0x20 (R102). -/
def famLd (fn : Nat) : Option (Operands → Instr) :=
  match fn with
  | 0 => some .ldB
  | 1 => some .ldH
  | 2 => some .ldW
  | 3 => some .ldD
  | 4 => some .ldBz
  | 5 => some .ldHz
  | 6 => some .ldWz
  | 7 => some .ldRob
  | 8 => some .ldRoh
  | 9 => some .ldRow
  | 10 => some .ldRod
  | _ => none

/-- The functions of ST, OP 0x21 (R102). -/
def famSt (fn : Nat) : Option (Operands → Instr) :=
  match fn with
  | 0 => some .stB
  | 1 => some .stH
  | 2 => some .stW
  | 3 => some .stD
  | _ => none

/-- The functions of LOC, OP 0x22 (R102). -/
def famLoc (fn : Nat) : Option (Operands → Instr) :=
  match fn with
  | 0 => some .ldlB
  | 1 => some .ldlH
  | 2 => some .ldlW
  | 3 => some .ldlD
  | 4 => some .stlB
  | 5 => some .stlH
  | 6 => some .stlW
  | 7 => some .stlD
  | _ => none

/-- The functions of AMO, OP 0x23 (R102). -/
def famAmo (fn : Nat) : Option (Operands → Instr) :=
  match fn with
  | 0 => some .amoadd
  | 1 => some .amofadd
  | 2 => some .amomin
  | 3 => some .amomax
  | 4 => some .amominz
  | 5 => some .amomaxz
  | 6 => some .amoand
  | 7 => some .amoor
  | 8 => some .amoxor
  | 9 => some .amoswp
  | 10 => some .amocas
  | 11 => some .amoinc
  | _ => none

/-- The functions of ORD, OP 0x24 (R102). -/
def famOrd (fn : Nat) : Option (Operands → Instr) :=
  match fn with
  | 0 => some .fence
  | 1 => some .invro
  | 2 => some .pref
  | 3 => some .waitv
  | _ => none

/-- The functions of CPY, OP 0x28 (R102). -/
def famCpy (fn : Nat) : Option (Operands → Instr) :=
  match fn with
  | 0 => some .cpy
  | 1 => some .cpys
  | 2 => some .cpyf
  | 3 => some cpyqForm
  | _ => none

/-- The functions of EMIT, OP 0x29 (R102). -/
def famEmit (fn : Nat) : Option (Operands → Instr) :=
  match fn with
  | 0 => some .emit
  | 1 => some .emitp
  | 2 => some .peek
  | 3 => some .tagrd
  | 4 => some .tagmk
  | _ => none

/-- The functions of VALU, OP 0x30 (R102). -/
def famValu (fn : Nat) : Option (Operands → Instr) :=
  match fn with
  | 0 => some .vadd
  | 1 => some .vsub
  | 2 => some .vmul
  | 3 => some .vfma
  | 4 => some .vfms
  | 5 => some .vmin
  | 6 => some .vmax
  | 7 => some .vabs
  | 8 => some .vneg
  | 9 => some .vand
  | 10 => some .vor
  | 11 => some .vxor
  | 12 => some .vshl
  | 13 => some .vshr
  | 14 => some .vsha
  | _ => none

/-- The functions of VCMP, OP 0x31 (R102). -/
def famVcmp (fn : Nat) : Option (Operands → Instr) :=
  match fn with
  | 0 => some .veq
  | 1 => some .vlt
  | 2 => some .vle
  | 3 => some .vun
  | _ => none

/-- The functions of VCVT, OP 0x32 (R102). -/
def famVcvt (fn : Nat) : Option (Operands → Instr) :=
  match fn with
  | 0 => some .vcvt
  | 1 => some .vrnd
  | 2 => some .vscl
  | 3 => some .vexp
  | _ => none

/-- The functions of VMOV, OP 0x33 (R102). -/
def famVmov (fn : Nat) : Option (Operands → Instr) :=
  match fn with
  | 0 => some .vmov
  | 1 => some .vbc
  | 2 => some .vsel
  | 3 => some .vperm
  | 4 => some .vslide
  | 5 => some .viota
  | 6 => some .vins
  | 7 => some .vxtr
  | _ => none

/-- The functions of VRED, OP 0x34 (R102). -/
def famVred (fn : Nat) : Option (Operands → Instr) :=
  match fn with
  | 0 => some .vrsum
  | 1 => some .vrmax
  | 2 => some .vrmin
  | _ => none

/-- The functions of VMEM, OP 0x35 (R102). -/
def famVmem (fn : Nat) : Option (Operands → Instr) :=
  match fn with
  | 0 => some .vldl
  | 1 => some .vstl
  | 2 => some .vldg
  | 3 => some .vsts
  | 4 => some .vld
  | 5 => some .vst
  | 6 => some .vqrd
  | 7 => some .vowr
  | _ => none

/-- The functions of VSFU, OP 0x36 (R102). -/
def famVsfu (fn : Nat) : Option (Operands → Instr) :=
  match fn with
  | 0 => some .vexp2f
  | 1 => some .vlog2f
  | 2 => some .vrcp
  | 3 => some .vrsq
  | _ => none

/-- The functions of CORD, OP 0x37 (R102). -/
def famCord (fn : Nat) : Option (Operands → Instr) :=
  match fn with
  | 0 => some .cordSin
  | 1 => some .cordCos
  | 2 => some .cordAtn
  | 3 => some .cordHyp
  | _ => none

/-- The functions of MSK, OP 0x50 (R102). -/
def famMsk (fn : Nat) : Option (Operands → Instr) :=
  match fn with
  | 0 => some .mand
  | 1 => some .mor
  | 2 => some .mxor
  | 3 => some .mandn
  | 4 => some .mnot
  | 5 => some .mpop
  | 6 => some .mfst
  | 7 => some .mmov
  | 8 => some .mset
  | _ => none

/-- The functions of SHP, OP 0x52 (R102). -/
def famShp (fn : Nat) : Option (Operands → Instr) :=
  match fn with
  | 0 => some .shld
  | 1 => some .shst
  | 2 => some .shbq
  | _ => none

/-- The functions of STRM, OP 0x53 (R102). -/
def famStrm (fn : Nat) : Option (Operands → Instr) :=
  match fn with
  | 0 => some .smap
  | 1 => some .sred
  | 2 => some .scvt
  | 3 => some .scpy
  | _ => none

/-- The functions of MX, OP 0x5C (R102). -/
def famMx (fn : Nat) : Option (Operands → Instr) :=
  match fn with
  | 0 => some .mxcfg
  | 1 => some .mxzero
  | 2 => some .mxmul
  | 3 => some mxdrnForm
  | 4 => some .mxmsk
  | 5 => some .mxmpb
  | 6 => some .mxwait
  | _ => none

/-- The functions of QS, OP 0x64 (R102). -/
def famQs (fn : Nat) : Option (Operands → Instr) :=
  match fn with
  | 0 => some .qscfg
  | 1 => some .qsstep
  | 2 => some .qsrun
  | 3 => some .qsrd
  | 4 => some .qssav
  | 5 => some .qsrst
  | 6 => some qsmskForm
  | _ => none

/-- The functions of SILL, OP 0x65 (R102). -/
def famSill (fn : Nat) : Option (Operands → Instr) :=
  match fn with
  | 0 => some .samp
  | 1 => some .acpt
  | 2 => some .cmit
  | 3 => some seedForm
  | _ => none

/-- The functions of CFG, OP 0x6C (R102). -/
def famCfg (fn : Nat) : Option (Operands → Instr) :=
  match fn with
  | 0 => some .cfgldLoad
  | 1 => some .cfgsw
  | 2 => some .cfgck
  | 3 => some .cfged
  | _ => none

/-- The functions of PORT, OP 0x6D (R102). -/
def famPort (fn : Nat) : Option (Operands → Instr) :=
  match fn with
  | 0 => some .bind
  | 1 => some .unbind
  | 2 => some portwForm
  | _ => none

/-- The functions of INST, OP 0x6E (R102). -/
def famInst (fn : Nat) : Option (Operands → Instr) :=
  match fn with
  | 0 => some .arm
  | 1 => some .inj
  | 2 => some awaitForm
  | 3 => some .barr
  | _ => none

/-- The functions of COL, OP 0x6F (R102). -/
noncomputable def famCol (fn : Nat) : Option (Operands → Instr) :=
  match fn with
  | 0 => some .copen
  | 1 => some .cclose
  | 2 => some .cquota
  | 3 => some .ckill
  | _ => none

/-- The functions of LEASE, OP 0x70 (R102). -/
noncomputable def famLease (fn : Nat) : Option (Operands → Instr) :=
  match fn with
  | 0 => some .lease
  | 1 => some .unlease
  | _ => none

/-- The functions of LAUNCH, OP 0x71 (R102). -/
noncomputable def famLaunch (fn : Nat) : Option (Operands → Instr) :=
  match fn with
  | 0 => some .lnchW
  | 1 => some .lnchN
  | _ => none

/-- The functions of QUANT, OP 0x72 (R102). -/
noncomputable def famQuant (fn : Nat) : Option (Operands → Instr) :=
  match fn with
  | 0 => some .qset
  | 1 => some .qyld
  | _ => none

/-- The functions of PLACE, OP 0x73 (R102). -/
noncomputable def famPlace (fn : Nat) : Option (Operands → Instr) :=
  match fn with
  | 0 => some .tcrd
  | 1 => some .swpol
  | 2 => some swpenForm
  | 3 => some .swpx
  | 4 => some .swplg
  | _ => none

/-- The functions of SYS, OP 0x78 (R102). -/
noncomputable def famSys (fn : Nat) : Option (Operands → Instr) :=
  match fn with
  | 0 => some .trap
  | 1 => some .brk
  | 2 => some syscForm
  | 3 => some .eret
  | 4 => some .idle
  | _ => none

/-- The functions of SREG, OP 0x79 (R102). -/
noncomputable def famSreg (fn : Nat) : Option (Operands → Instr) :=
  match fn with
  | 0 => some .rdsr
  | 1 => some .wrsr
  | _ => none

/-- The functions of SEC, OP 0x7A (R102). -/
noncomputable def famSec (fn : Nat) : Option (Operands → Instr) :=
  match fn with
  | 0 => some .keyld
  | 1 => some .keyz
  | 2 => some .ifstLock
  | 3 => some .ifrpt
  | _ => none

/-- The families (R101). -/
noncomputable def familyOf (op : Nat) : Option (Nat → Option (Operands → Instr)) :=
  match op with
  | 0x00 => some famIalu
  | 0x01 => some famIaluW
  | 0x02 => some famImul
  | 0x03 => some famIbit
  | 0x04 => some famImov
  | 0x10 => some famFalu
  | 0x11 => some famFcmp
  | 0x12 => some famFcvt
  | 0x18 => some famBr
  | 0x19 => some famJmp
  | 0x1A => some famLoop
  | 0x1B => some famWait
  | 0x1C => some famEnd
  | 0x20 => some famLd
  | 0x21 => some famSt
  | 0x22 => some famLoc
  | 0x23 => some famAmo
  | 0x24 => some famOrd
  | 0x28 => some famCpy
  | 0x29 => some famEmit
  | 0x30 => some famValu
  | 0x31 => some famVcmp
  | 0x32 => some famVcvt
  | 0x33 => some famVmov
  | 0x34 => some famVred
  | 0x35 => some famVmem
  | 0x36 => some famVsfu
  | 0x37 => some famCord
  | 0x50 => some famMsk
  | 0x52 => some famShp
  | 0x53 => some famStrm
  | 0x5C => some famMx
  | 0x64 => some famQs
  | 0x65 => some famSill
  | 0x6C => some famCfg
  | 0x6D => some famPort
  | 0x6E => some famInst
  | 0x6F => some famCol
  | 0x70 => some famLease
  | 0x71 => some famLaunch
  | 0x72 => some famQuant
  | 0x73 => some famPlace
  | 0x78 => some famSys
  | 0x79 => some famSreg
  | 0x7A => some famSec
  | _ => none

/-- The instruction in three parcels, of which only its own length's are read (R85, R103). -/
noncomputable def decodeParcels (p0 p1 p2 : Parcel) : Except DecodeError Instr :=
  if lenField p0 = 3 then .ok (.nop (p0.extractLsb' 2 30))
  else
    let o := fieldsOf (formOfLen (lenField p0)) p0 p1 p2
    let op := (opField p0).toNat
    if 0x7C ≤ op then .ok (.hintRegion { op := (opField p0).extractLsb' 0 2, fn := fnField p0, rest := o })
    else
      match familyOf op with
      | none => .error .unassignedOp
      | some family =>
        match family (fnField p0).toNat with
        | none => .error .unassignedFn
        | some make => if (make o).forms.contains o.form then .ok (make o) else .error .illegalLength

/-- The parcel in four bytes, least significant first (R4, R85). -/
def parcelOf (b0 b1 b2 b3 : Byte) : Parcel := b3 ++ b2 ++ b1 ++ b0

/-- The length in bytes of the instruction whose first parcel this is (R85). -/
def lengthOf (p0 : Parcel) : Nat :=
  match formOfLen (lenField p0) with
  | .w32 => 4
  | .w64 => 8
  | .w96 => 12

/-- Split off a little-endian parcel. -/
def takeParcel : List Byte → Option (Parcel × List Byte)
  | b0 :: b1 :: b2 :: b3 :: rest => some (parcelOf b0 b1 b2 b3, rest)
  | _ => none

/-- Decode the instruction at the head of a list of bytes, and the bytes after it. -/
noncomputable def decode (bytes : List Byte) : Except DecodeError (Instr × List Byte) :=
  match takeParcel bytes with
  | none => .error .truncated
  | some (p0, r0) =>
    match formOfLen (lenField p0) with
    | .w32 => (decodeParcels p0 0 0).map (fun i => (i, r0))
    | .w64 =>
      match takeParcel r0 with
      | none => .error .truncated
      | some (p1, r1) => (decodeParcels p0 p1 0).map (fun i => (i, r1))
    | .w96 =>
      match takeParcel r0 with
      | none => .error .truncated
      | some (p1, r1) =>
        match takeParcel r1 with
        | none => .error .truncated
        | some (p2, r2) => (decodeParcels p0 p1 p2).map (fun i => (i, r2))

/-- The bytes of a number of `n` bytes, least significant first. -/
def leBytes : Nat → Nat → List Byte
  | 0, _ => []
  | n + 1, w => BitVec.ofNat 8 w :: leBytes n (w / 256)

/-- The instruction whose bits are `w`, bit 0 the first parcel's least significant; bits above `nbits` are zero. -/
noncomputable def decodeTableWord (nbits w : Nat) : Option Instr :=
  match decode (leBytes 12 (w % 2 ^ nbits)) with
  | .ok (i, _) => some i
  | .error _ => none

/-! ### Encoding -/

/-- `LEN` of a form (R85). -/
def lenOfForm : Form → BitVec 2
  | .w32 => 0
  | .w64 => 1
  | .w96 => 2

/-- The first parcel (R86). -/
def packFirst (op : BitVec 7) (fn : BitVec 5) (o : Operands) : Parcel :=
  fn ++ o.b ++ o.a ++ o.d ++ op ++ lenOfForm o.form

/-- The second parcel (R86). -/
def packSecond (o : Operands) : Parcel := o.imm ++ o.t ++ o.md ++ o.c

/-- The parcels of the form (R85). -/
def packParcels (op : BitVec 7) (fn : BitVec 5) (o : Operands) : List Parcel :=
  match o.form with
  | .w32 => [packFirst op fn o]
  | .w64 => [packFirst op fn o, packSecond o]
  | .w96 => [packFirst op fn o, packSecond o, o.lit]

/-- The opcode and the function of an instruction (R101, R102); none for a hint and for an event. -/
def Instr.code : Instr → Option (BitVec 7 × BitVec 5)
  | .add _ => some (0x00, 0)
  | .sub _ => some (0x00, 1)
  | .and _ => some (0x00, 2)
  | .or _ => some (0x00, 3)
  | .xor _ => some (0x00, 4)
  | .andn _ => some (0x00, 5)
  | .shl _ => some (0x00, 6)
  | .shr _ => some (0x00, 7)
  | .sha _ => some (0x00, 8)
  | .rot _ => some (0x00, 9)
  | .min _ => some (0x00, 10)
  | .max _ => some (0x00, 11)
  | .minz _ => some (0x00, 12)
  | .maxz _ => some (0x00, 13)
  | .slt _ => some (0x00, 14)
  | .sltz _ => some (0x00, 15)
  | .seq _ => some (0x00, 16)
  | .sne _ => some (0x00, 17)
  | .addW _ => some (0x01, 0)
  | .subW _ => some (0x01, 1)
  | .andW _ => some (0x01, 2)
  | .orW _ => some (0x01, 3)
  | .xorW _ => some (0x01, 4)
  | .andnW _ => some (0x01, 5)
  | .shlW _ => some (0x01, 6)
  | .shrW _ => some (0x01, 7)
  | .shaW _ => some (0x01, 8)
  | .rotW _ => some (0x01, 9)
  | .minW _ => some (0x01, 10)
  | .maxW _ => some (0x01, 11)
  | .minzW _ => some (0x01, 12)
  | .maxzW _ => some (0x01, 13)
  | .sltW _ => some (0x01, 14)
  | .sltzW _ => some (0x01, 15)
  | .seqW _ => some (0x01, 16)
  | .sneW _ => some (0x01, 17)
  | .mul _ => some (0x02, 0)
  | .mulh _ => some (0x02, 1)
  | .mulhz _ => some (0x02, 2)
  | .div _ => some (0x02, 3)
  | .divz _ => some (0x02, 4)
  | .rem _ => some (0x02, 5)
  | .remz _ => some (0x02, 6)
  | .clz _ => some (0x03, 0)
  | .ctz _ => some (0x03, 1)
  | .pop _ => some (0x03, 2)
  | .brev _ => some (0x03, 3)
  | .bswap _ => some (0x03, 4)
  | .ext _ => some (0x03, 5)
  | .dep _ => some (0x03, 6)
  | .mov _ => some (0x04, 0)
  | .li _ => some (0x04, 1)
  | .sel _ => some (0x04, 2)
  | .selz _ => some (0x04, 3)
  | .fadd _ => some (0x10, 0)
  | .fsub _ => some (0x10, 1)
  | .fmul _ => some (0x10, 2)
  | .fma _ => some (0x10, 3)
  | .fms _ => some (0x10, 4)
  | .fdiv _ => some (0x10, 5)
  | .fsqrt _ => some (0x10, 6)
  | .fmin _ => some (0x10, 7)
  | .fmax _ => some (0x10, 8)
  | .fabs _ => some (0x10, 9)
  | .fneg _ => some (0x10, 10)
  | .feq _ => some (0x11, 0)
  | .flt _ => some (0x11, 1)
  | .fle _ => some (0x11, 2)
  | .funord _ => some (0x11, 3)
  | .fclass _ => some (0x11, 4)
  | .cvt _ => some (0x12, 0)
  | .frnd _ => some (0x12, 1)
  | .beq _ => some (0x18, 0)
  | .bne _ => some (0x18, 1)
  | .blt _ => some (0x18, 2)
  | .bge _ => some (0x18, 3)
  | .bltz _ => some (0x18, 4)
  | .bgez _ => some (0x18, 5)
  | .jmp _ => some (0x19, 0)
  | .jal _ => some (0x19, 1)
  | .jr _ => some (0x19, 2)
  | .loop _ => some (0x1A, 0)
  | .waitt _ => some (0x1B, 0)
  | .waitq _ => some (0x1B, 1)
  | .endFiring _ => some (0x1C, 0)
  | .halt _ => some (0x1C, 1)
  | .ldB _ => some (0x20, 0)
  | .ldH _ => some (0x20, 1)
  | .ldW _ => some (0x20, 2)
  | .ldD _ => some (0x20, 3)
  | .ldBz _ => some (0x20, 4)
  | .ldHz _ => some (0x20, 5)
  | .ldWz _ => some (0x20, 6)
  | .ldRob _ => some (0x20, 7)
  | .ldRoh _ => some (0x20, 8)
  | .ldRow _ => some (0x20, 9)
  | .ldRod _ => some (0x20, 10)
  | .stB _ => some (0x21, 0)
  | .stH _ => some (0x21, 1)
  | .stW _ => some (0x21, 2)
  | .stD _ => some (0x21, 3)
  | .ldlB _ => some (0x22, 0)
  | .ldlH _ => some (0x22, 1)
  | .ldlW _ => some (0x22, 2)
  | .ldlD _ => some (0x22, 3)
  | .stlB _ => some (0x22, 4)
  | .stlH _ => some (0x22, 5)
  | .stlW _ => some (0x22, 6)
  | .stlD _ => some (0x22, 7)
  | .amoadd _ => some (0x23, 0)
  | .amofadd _ => some (0x23, 1)
  | .amomin _ => some (0x23, 2)
  | .amomax _ => some (0x23, 3)
  | .amominz _ => some (0x23, 4)
  | .amomaxz _ => some (0x23, 5)
  | .amoand _ => some (0x23, 6)
  | .amoor _ => some (0x23, 7)
  | .amoxor _ => some (0x23, 8)
  | .amoswp _ => some (0x23, 9)
  | .amocas _ => some (0x23, 10)
  | .amoinc _ => some (0x23, 11)
  | .fence _ => some (0x24, 0)
  | .invro _ => some (0x24, 1)
  | .pref _ => some (0x24, 2)
  | .waitv _ => some (0x24, 3)
  | .cpy _ => some (0x28, 0)
  | .cpys _ => some (0x28, 1)
  | .cpyf _ => some (0x28, 2)
  | .cpyqPop _ | .cpyqPush _ => some (0x28, 3)
  | .emit _ => some (0x29, 0)
  | .emitp _ => some (0x29, 1)
  | .peek _ => some (0x29, 2)
  | .tagrd _ => some (0x29, 3)
  | .tagmk _ => some (0x29, 4)
  | .vadd _ => some (0x30, 0)
  | .vsub _ => some (0x30, 1)
  | .vmul _ => some (0x30, 2)
  | .vfma _ => some (0x30, 3)
  | .vfms _ => some (0x30, 4)
  | .vmin _ => some (0x30, 5)
  | .vmax _ => some (0x30, 6)
  | .vabs _ => some (0x30, 7)
  | .vneg _ => some (0x30, 8)
  | .vand _ => some (0x30, 9)
  | .vor _ => some (0x30, 10)
  | .vxor _ => some (0x30, 11)
  | .vshl _ => some (0x30, 12)
  | .vshr _ => some (0x30, 13)
  | .vsha _ => some (0x30, 14)
  | .veq _ => some (0x31, 0)
  | .vlt _ => some (0x31, 1)
  | .vle _ => some (0x31, 2)
  | .vun _ => some (0x31, 3)
  | .vcvt _ => some (0x32, 0)
  | .vrnd _ => some (0x32, 1)
  | .vscl _ => some (0x32, 2)
  | .vexp _ => some (0x32, 3)
  | .vmov _ => some (0x33, 0)
  | .vbc _ => some (0x33, 1)
  | .vsel _ => some (0x33, 2)
  | .vperm _ => some (0x33, 3)
  | .vslide _ => some (0x33, 4)
  | .viota _ => some (0x33, 5)
  | .vins _ => some (0x33, 6)
  | .vxtr _ => some (0x33, 7)
  | .vrsum _ => some (0x34, 0)
  | .vrmax _ => some (0x34, 1)
  | .vrmin _ => some (0x34, 2)
  | .vldl _ => some (0x35, 0)
  | .vstl _ => some (0x35, 1)
  | .vldg _ => some (0x35, 2)
  | .vsts _ => some (0x35, 3)
  | .vld _ => some (0x35, 4)
  | .vst _ => some (0x35, 5)
  | .vqrd _ => some (0x35, 6)
  | .vowr _ => some (0x35, 7)
  | .vexp2f _ => some (0x36, 0)
  | .vlog2f _ => some (0x36, 1)
  | .vrcp _ => some (0x36, 2)
  | .vrsq _ => some (0x36, 3)
  | .cordSin _ => some (0x37, 0)
  | .cordCos _ => some (0x37, 1)
  | .cordAtn _ => some (0x37, 2)
  | .cordHyp _ => some (0x37, 3)
  | .mand _ => some (0x50, 0)
  | .mor _ => some (0x50, 1)
  | .mxor _ => some (0x50, 2)
  | .mandn _ => some (0x50, 3)
  | .mnot _ => some (0x50, 4)
  | .mpop _ => some (0x50, 5)
  | .mfst _ => some (0x50, 6)
  | .mmov _ => some (0x50, 7)
  | .mset _ => some (0x50, 8)
  | .shld _ => some (0x52, 0)
  | .shst _ => some (0x52, 1)
  | .shbq _ => some (0x52, 2)
  | .smap _ => some (0x53, 0)
  | .sred _ => some (0x53, 1)
  | .scvt _ => some (0x53, 2)
  | .scpy _ => some (0x53, 3)
  | .mxcfg _ => some (0x5C, 0)
  | .mxzero _ => some (0x5C, 1)
  | .mxmul _ => some (0x5C, 2)
  | .mxdrnQueue _ | .mxdrnRegisters _ | .mxdrnMemory _ => some (0x5C, 3)
  | .mxmsk _ => some (0x5C, 4)
  | .mxmpb _ => some (0x5C, 5)
  | .mxwait _ => some (0x5C, 6)
  | .qscfg _ => some (0x64, 0)
  | .qsstep _ => some (0x64, 1)
  | .qsrun _ => some (0x64, 2)
  | .qsrd _ => some (0x64, 3)
  | .qssav _ => some (0x64, 4)
  | .qsrst _ => some (0x64, 5)
  | .qsmskCandidates _ | .qsmskBeyond _ | .qsmskAnd _ => some (0x64, 6)
  | .samp _ => some (0x65, 0)
  | .acpt _ => some (0x65, 1)
  | .cmit _ => some (0x65, 2)
  | .seedExplicit _ | .seedReplay _ | .seedClear _ | .seedFresh _ => some (0x65, 3)
  | .cfgldLoad _ | .cfgldUnload _ => some (0x6C, 0)
  | .cfgsw _ => some (0x6C, 1)
  | .cfgck _ => some (0x6C, 2)
  | .cfged _ => some (0x6C, 3)
  | .bind _ => some (0x6D, 0)
  | .unbind _ => some (0x6D, 1)
  | .portwCompletions _ | .portwDiscards _ | .portwReply _ | .portwGatcnt _ => some (0x6D, 2)
  | .arm _ => some (0x6E, 0)
  | .inj _ => some (0x6E, 1)
  | .awaitInbox _ | .awaitEither _ | .awaitCompletion _ => some (0x6E, 2)
  | .barr _ => some (0x6E, 3)
  | .copen _ => some (0x6F, 0)
  | .cclose _ => some (0x6F, 1)
  | .cquota _ => some (0x6F, 2)
  | .ckill _ => some (0x6F, 3)
  | .lease _ => some (0x70, 0)
  | .unlease _ => some (0x70, 1)
  | .lnchW _ => some (0x71, 0)
  | .lnchN _ => some (0x71, 1)
  | .qset _ => some (0x72, 0)
  | .qyld _ => some (0x72, 1)
  | .tcrd _ => some (0x73, 0)
  | .swpol _ => some (0x73, 1)
  | .swpenEnable _ | .swpenDisable _ => some (0x73, 2)
  | .swpx _ => some (0x73, 3)
  | .swplg _ => some (0x73, 4)
  | .trap _ => some (0x78, 0)
  | .brk _ => some (0x78, 1)
  | .syscSlotEvent _ | .syscTimestamp _ | .syscImageExtent _ => some (0x78, 2)
  | .eret _ => some (0x78, 3)
  | .idle _ => some (0x78, 4)
  | .rdsr _ => some (0x79, 0)
  | .wrsr _ => some (0x79, 1)
  | .keyld _ => some (0x7A, 0)
  | .keyz _ => some (0x7A, 1)
  | .ifstLock _ | .ifstRun _ | .ifstStop _ => some (0x7A, 2)
  | .ifrpt _ => some (0x7A, 3)
  | .nop _ | .hintRegion _ | .faultEntry _ | .resetPart _ _ _ _ | .requestToken _ _ _ _ _ _ _ | .controlRead _ _ |
    .controlWrite _ _ _ | .memoryWrite _ _ _ | .memoryRead _ _ _ | .unknownMessage | .ctlsemAcquire _ _ |
    .ctlsemRelease _ _ | .violaddrClear _ | .violaddrRead _ | .ifstatRead _ _ | .frozenRegisterWrite _ _ _ _ |
    .evtbWrite _ _ | .evttailWrite _ _ | .evtack _ _ | .eventRecordWrite _ | .tfence _ | .netctlWrite _ | .merrstRead
    | .merrstOvfClear | .gdropRead | .sillstRead _ | .sillstEfailClear _ | .operatingPointChange _ _ |
    .entropyHealthFailure _ _ | .entropyStartupPass _ | .peerTokenArrival _ _ _ _ _ _ _ | .systemScopeAcknowledge _ _
    | .crcMismatch _ _ | .linkFailed _ | .tokenArrival _ | .mapFiring _ _ _ | .redFiring _ _ _ | .nrmFiring _ _ _ |
    .lutFiring _ _ _ | .steFiring _ _ _ | .mrgFiring _ _ _ | .jonComparison _ _ _ | .genTrigger _ _ _ | .genEmit _ _ |
    .tagFiring _ _ _ | .ldmFiring _ _ _ | .ldmResult _ | .stmFiring _ _ _ | .stmCompletion _ | .gatEntryFiring _ _ _ |
    .louvreAdmit _ _ | .exitResultForward _ _ _ | .exitDoneFiring _ _ _ | .sweepAcknowledge _ _ _ _ | .completionEmit
    _ _ _ | .stallSpill _ _ _ _ | .sumpRefill _ _ _ _ | .streamPortRead _ _ _ _ | .streamPortWrite _ _ _ _ |
    .actorFiringIssue _ _ _ _ | .firingBudgetSuspend _ | .watchdogExpiry _ | .quantumExpiry _ |
    .blockSchedulerActivate _ | .idleEnd _ | .doneCompletion _ | .awaitTake _ | .pendingLaunchProcess _ | .memoryReply
    _ _ _ | .zaluloIssue _ _ _ | .zaluloDeliver _ _ | .roCacheFill _ _ _ _ | .roCacheDrop _ _ _ | .zaluloAtomic _ _ _
    | .fenceComplete _ | .copyEngineTransfer _ _ _ | .migrationStart _ _ _ _ | .migrationRound _ | .migrationCommit _
    | .migrationAbandon _ | .oldFrameRelease _ | .frameScrub _ | .correctedError | .uncorrectableError _ _ _ |
    .cxlPoisonReport _ | .leaseComplete _ | .cfgldComplete _ | .cfgswFlip _ | .cfgedApply _ | .ccloseFinish _ |
    .ckillFinish _ | .barrReopen _ | .unleaseEnd _ | .unbindComplete _ | .keyzZeroise _ | .loaderServiceLoad _ _ _ _ |
    .mxBankAcquire _ | .mxPass _ _ | .mxQueueOperation _ _ | .mxDrainRun _ _ | .chainStart _ _ _ | .chainPass _ _ |
    .chainDrain _ _ | .qsChannelAcquire _ | .qsTransposeChunk _ _ | .qsPlaneStep _ _ | .swapInstant _ |
    .swapBoundaryReached _ | .swapBoundaryTimeout _ | .swapFlip _ | .transomForward _ _ _ _ | .transomClose _ _ |
    .peerMemoryRequest _ _ _ _ _ _ _ | .streamUnitTransfer _ _ | .spdmRequest _ _ => none

/-- The parcels of an instruction; an event has none. -/
def encode (i : Instr) : List Parcel :=
  match i with
  | .nop bits => [bits ++ (3 : BitVec 2)]
  | .hintRegion h => packParcels ((0x1F : BitVec 5) ++ h.op) h.fn h.rest
  | _ =>
    match i.code, i.operands with
    | some (op, fn), some o => packParcels op fn o
    | _, _ => []

/-- The bytes of an instruction, least significant first (R4). -/
def encodeBytes (i : Instr) : List Byte := (encode i).flatMap (fun p => leBytes 4 p.toNat)

end Sys2Proof
end

