-- ==== Sys2Proof/Machine/Fetch.lean ====
section
/-! DEFINITION. Fetching an instruction's bytes from the code area (R85, R90), the fault of a fetch or of an undecodable
instruction (R103, R104), and the hint instructions. -/

namespace Sys2Proof.Machine

/-- The fault of bytes that are no instruction, or of a fetch outside the code area, whose address is given (R90, R103,
R104). -/
def execFaultEntry (fetch : Option Word) (s : State) : Out :=
  match fetch with
  | none => s.raise excIllegal
  | some a => s.raise (excAt 0x04 0x01 a.toNat)

/-- NOP (R85): a hint parcel. -/
def execNop (_bits : BitVec 30) (s : State) : Out := .next (s.retire .w32)

/-- The hint region (R103): no field is read and nothing is popped. -/
def execHintRegion (o : HintOperands) (s : State) : Out := .next (s.retire o.rest.form)

/-- Is the parcel at `a` inside the code area (R90), and mapped by the extent that holds it (R132)? -/
def Core.inCode (c : Core) (a : Nat) : Bool :=
  let x := c.codeExtent
  c.codeBase ≤ a && a + 4 ≤ c.codeBase + c.codeSize && x.valid && x.vbase ≤ a && a + 4 ≤ x.vbase + x.size

/-- The bytes of the code area from the pc on: parcels 0 to n - 1, or the address of the first that lies outside (R90) or whose extent
has been revoked (R134). -/
def State.fetchFrom (s : State) (a : Nat) : Nat → Except Nat (List Byte)
  | 0 => .ok []
  | n + 1 =>
    let c := s.me
    if c.inCode a && !s.revoked c.codeExtent then
      let w := View.bytes s.root.keys (s.view (domainOf s.cur)) c.codeExtent.key (c.codeExtent.place a) 4
      match s.fetchFrom (a + 4) n with
      | .ok rest => .ok (leBytes 4 w ++ rest)
      | .error e => .error e
    else .error a

/-- How many parcels the instruction whose first bytes are these has (R85). -/
def parcelCount (bytes : List Byte) : Nat :=
  match takeParcel bytes with
  | none => 1
  | some (p, _) => lengthOf p / 4

/-- The bytes of the next instruction (R85, R90). -/
def State.fetch (s : State) : Except Nat (List Byte) :=
  match s.fetchFrom s.me.pc.toNat 1 with
  | .error e => .error e
  | .ok first => s.fetchFrom s.me.pc.toNat (parcelCount first)

end Sys2Proof.Machine
end

