-- ==== Sys2Proof/Machine/Matrix.lean ====
section
/-! DEFINITION. The matrix node (R355 to R381): operand rows, the pass, masks, drains, the node queue and the MX
instructions. -/

namespace Sys2Proof.Machine

/-! ### The configuration word (R366) -/

/-- `MXC.CLASS`. -/
def mxcClass (w : Word) : Nat := bitsAt w.toNat 1 0
/-- `MXC.ARAW` and `MXC.BRAW`. -/
def mxcRaw (w : Word) (b : Bool) : Nat := if b then bitsAt w.toNat 11 7 else bitsAt w.toNat 6 2
/-- `MXC.AN` and `MXC.BN`. -/
def mxcN (w : Word) (b : Bool) : Nat := if b then bitsAt w.toNat 23 20 else bitsAt w.toNat 15 12
/-- `MXC.AP` and `MXC.BP`. -/
def mxcP (w : Word) (b : Bool) : Nat := if b then bitsAt w.toNat 27 24 else bitsAt w.toNat 19 16
/-- `MXC.MID`. -/
def mxcMid (w : Word) : Bool := w.getLsbD 28
/-- A stride of the stride word. -/
def mxStride (w : Word) (b : Bool) : Nat := if b then bitsAt w.toNat 63 32 else bitsAt w.toNat 31 0

/-- The depth K of a class (R357). -/
def classDepth (c : Nat) : Nat := 256 * 2 ^ c

/-- Is N in the class's range (R357)? -/
def planesInClass (c n : Nat) : Bool :=
  match c with
  | 1 => 5 ≤ n && n ≤ 8
  | 2 => 2 ≤ n && n ≤ 4
  | _ => false

/-- The raw types of a class (R366). -/
def rawInClass (c t : Nat) : Bool :=
  match c with
  | 0 => [1, 2, 10].contains t
  | 1 => [3, 4, 5, 6, 12, 13].contains t
  | 2 => [7, 14, 15].contains t
  | _ => false

/-- Is the configuration refused (R366)? -/
def mxcBad (w st : Word) : Bool :=
  let c := mxcClass w
  c = 3 || [false, true].any (fun b =>
    !rawInClass c (mxcRaw w b) || (mxcN w b != 0 && !planesInClass c (mxcN w b)) || mxcN w b < mxcP w b ||
      mxStride st b % 64 != 0)

/-- The bytes of an operand row (R357, R368). -/
def rowBytes (w : Word) (b : Bool) : Nat :=
  if mxcN w b = 0 then 512 else classDepth (mxcClass w) / 512 * mxcN w b * 64

/-! ### Operand rows (R357, R358) -/

/-- A decoded value as an operand element. -/
def mxValue (v : FloatVal) : MxElem :=
  match v with
  | .nan .. => .nan
  | .inf n => .inf n
  | .fin n m e => .val n m e

/-- Is the format accepted in the class (R84, R357)? -/
def formatInClass (c : Nat) (t : ElemType) (scaled : Bool) : Bool :=
  match c, t with
  | 0, .fp16 | 0, .bf16 | 0, .s16 => !scaled
  | 1, .e5m2 | 1, .e4m3 | 1, .e3m2 | 1, .e2m3 | 1, .s8 => true
  | 1, .z8 => !scaled
  | 2, .e2m1 | 2, .s4 => true
  | 2, .z4 => !scaled
  | _, _ => false

/-- A line as the fetch unit has read it, unit by unit (R373): its physical address, its bytes, its descriptor, and whether a unit
came back poisoned. -/
structure MxLine where
  pa : Nat
  value : Nat
  desc : Nat × Nat
  bad : Bool
  deriving DecidableEq, Repr

/-- The elements of a line that is not of a bit-plane operand (R358). -/
def lineOperand (c raw n : Nat) (l : MxLine) : List MxElem :=
  let plain := fun (t : ElemType) => (upTo n).map (fun i => mxValue (elemVal t (lineElem t l.value i)))
  let bad := List.replicate n (MxElem.poisoned l.pa)
  if l.bad then bad
  else match lineFormat l.desc.1 with
    | .raw => plain (typeOf raw)
    | .elem t scaled =>
      if !formatInClass c t scaled then bad
      else if scaled then (upTo n).map (fun i => mxValue (scaledVal (elemVal t (lineElem t l.value i)) l.desc.2))
      else plain t
    | _ => bad

/-- Is a line accepted as plane q of a bit-plane operand of width N (R358)? -/
def planeAccepted (n q : Nat) (l : MxLine) : Bool := !l.bad && lineFormat l.desc.1 == .plane n q

/-- The elements of one group of a bit-plane operand, from its planes (R79, R357, R358). -/
def groupOperand (n : Nat) (mid : Bool) (ls : List MxLine) : List MxElem :=
  match (ls.zip (upTo ls.length)).find? (fun x => !planeAccepted n x.2 x.1) with
  | some x => List.replicate 512 (.poisoned x.1.pa)
  | none =>
    (upTo 512).map (fun k =>
      let bits := (ls.zip (upTo ls.length)).foldl (fun acc x => if x.1.value.testBit k then acc + 2 ^ (n - 1 - x.2) else acc) 0
      let x := planeValue n ls.length mid bits
      .val (x < 0) x.natAbs 0)

/-- The planes that are read (R357): all where the field is 0. -/
def planesRead (w : Word) (b : Bool) : Nat := if mxcP w b = 0 then mxcN w b else mxcP w b

/-- The lines of an operand row that are read, as offsets from its base (R357). -/
def rowLines (w : Word) (b : Bool) : List Nat :=
  if mxcN w b = 0 then (upTo 8).map (fun i => 64 * i)
  else (upTo (classDepth (mxcClass w) / 512)).flatMap (fun g => (upTo (planesRead w b)).map (fun q => 64 * (mxcN w b * g + q)))

/-- Cut a list into lists of n. -/
def chunks {α : Type} (n : Nat) : Nat → List α → List (List α)
  | 0, _ => []
  | k + 1, l => l.take n :: chunks n k (l.drop n)

/-- An operand row from its lines (R357). -/
def rowOperand (w : Word) (b : Bool) (ls : List MxLine) : List MxElem :=
  let c := mxcClass w
  if mxcN w b = 0 then ls.flatMap (lineOperand c (mxcRaw w b) (classDepth c / 8))
  else (chunks (planesRead w b) (classDepth c / 512) ls).flatMap (groupOperand (mxcN w b) (mxcMid w))

/-- The reads of an operand's rows: eight units of each line (R373). -/
def rowReads (w : Word) (b : Bool) (rows : List MxRow) : List Req :=
  rows.flatMap (fun r => (rowLines w b).flatMap (fun off => (upTo 8).map (fun u =>
    Req.make .read (r.va + off + 8 * u) (r.pa + off + 8 * u) 8 0 r.key)))

/-- A line from the eight reads of it. -/
def lineOf (rs : List Req) : MxLine :=
  let vs := rs.map (fun r => r.value)
  let d := vs.headD 0 >>> 64
  { pa := (rs.head?).elim 0 (fun r => r.pa)
    value := (vs.zip (upTo 8)).foldl (fun acc x => acc + x.1 % 2 ^ 64 * 2 ^ (64 * x.2)) 0
    desc := (d % 256, d / 256 % 256)
    bad := rs.any Req.bad }

/-- An operand's rows from the reads of them. -/
def rowsOf (w : Word) (b : Bool) (n : Nat) (rs : List Req) : List (List MxElem) :=
  let k := (rowLines w b).length
  (chunks (8 * k) n rs).map (fun row => rowOperand w b ((chunks 8 k row).map lineOf))

/-! ### The pass (R359, R360) -/

/-- Element (i, j) of the accumulator. -/
def Bank.elem (k : Bank) (i j : Nat) : AccElem := AMap.get AccElem.zero k.acc (32 * i + j)

/-- Is element (i, j) enabled (R362)? -/
def Bank.enabled (k : Bank) (i j : Nat) : Bool :=
  k.rowMask.getLsbD i && k.colMask.getLsbD j && (AMap.get (BitVec.allOnes 32) k.elemMask i).getLsbD j

/-- The number of enabled elements. -/
def Bank.enabledCount (k : Bank) : Nat := (upTo 1024).countP (fun e => k.enabled (e / 32) (e % 32))

/-- What a pass has gathered for an element: its flags and poison, and the non-zero products. -/
structure PassSum where
  acc : AccElem
  prods : List (Int × Int)
  deriving DecidableEq, Repr

/-- Mark an element poisoned: the first address stays (R360). -/
def AccElem.mark (a : AccElem) (pa : Option Nat) : AccElem :=
  { a with poisoned := true, logged := match a.logged with
    | some x => some x
    | none => pa }

/-- One pair of elements (R359). -/
def passPair (p : PassSum) (x : MxElem × MxElem) : PassSum :=
  match x with
  | (.poisoned pa, _) | (_, .poisoned pa) => { p with acc := p.acc.mark (some pa) }
  | (.nan, _) | (_, .nan) => { p with acc := { p.acc with csp := { p.acc.csp with nan := true } } }
  | (.inf n, .inf m) => setInf p (n != m)
  | (.inf n, .val m man _) => if man = 0 then setNan p else setInf p (n != m)
  | (.val m man _, .inf n) => if man = 0 then setNan p else setInf p (n != m)
  | (.val n a e, .val m b f) =>
    if a * b = 0 then p
    else { p with prods := ((if n != m then -((a * b : Nat) : Int) else ((a * b : Nat) : Int)), e + f) :: p.prods }
where
  /-- An infinite contribution. -/
  setInf (p : PassSum) (neg : Bool) : PassSum :=
    if neg then { p with acc := { p.acc with csp := { p.acc.csp with ninf := true } } }
    else { p with acc := { p.acc with csp := { p.acc.csp with pinf := true } } }
  /-- An invalid contribution. -/
  setNan (p : PassSum) : PassSum := { p with acc := { p.acc with csp := { p.acc.csp with nan := true } } }

/-- Floor of m * 2^s. -/
def floorShift (m s : Int) : Int := if 0 ≤ s then m * 2 ^ s.toNat else m / 2 ^ (-s).toNat

/-- Floor(log2 |m * 2^e|). -/
def magnitude (m e : Int) : Int := (Nat.log2 m.natAbs : Int) + e

/-- The new window of an element after the products (R359). -/
def windowAdd (c : Csp) (prods : List (Int × Int)) : Csp :=
  let v := cspInt c
  let top := prods.map (fun p => magnitude p.1 p.2)
  let g0 := top.foldl max (top.headD 0)
  let g := if v != 0 then max g0 (magnitude v c.exp.toInt) else g0
  let e := g - 98
  let sum := prods.foldl (fun acc p => acc + floorShift p.1 (p.2 - e)) (floorShift v (c.exp.toInt - e))
  { c with sum := BitVec.ofInt 112 sum, carry := 0, exp := BitVec.ofInt 16 (min e 32767), nan := c.nan || 32767 < e }

/-- The pass on one element (R359). -/
def passElement (a : AccElem) (ra rb : List MxElem) : AccElem :=
  let p := (ra.zip rb).foldl passPair { acc := a, prods := [] }
  if p.prods.isEmpty then p.acc else { p.acc with csp := windowAdd p.acc.csp p.prods }

/-- Put an element; a zero element is not listed. -/
def Bank.putElem (k : Bank) (i j : Nat) (a : AccElem) : Bank :=
  { k with acc := if a = AccElem.zero then AMap.erase k.acc (32 * i + j) else AMap.put k.acc (32 * i + j) a }

/-- A pass over the bank (R359): A's rows and B's rows. -/
def Bank.pass (k : Bank) (as bs : List (List MxElem)) : Bank :=
  foldUp (fun e b =>
    let (i, j) := (e / 32, e % 32)
    if k.enabled i j then b.putElem i j (passElement (k.elem i j) (as.getD i []) (bs.getD j [])) else b) 1024 k

/-! ### Drains (R362 to R364) -/

/-- The element that a drain gives (R362). -/
def Bank.drained (k : Bank) (i j : Nat) : AccElem :=
  let a := k.elem i j
  if k.enabled i j || k.policy = 0 then a
  else if k.policy = 1 then AccElem.zero
  else { AccElem.zero with csp := { AccElem.zero.csp with ninf := true } }

/-- `DRN.DST`, `DRN.FMT`, `DRN.FLD`. -/
def drnDst (f : BitVec 16) : Nat := bitsAt f.toNat 1 0
/-- `DRN.FMT`. -/
def drnFmt (f : BitVec 16) : Nat := bitsAt f.toNat 3 2
/-- `DRN.FLD`. -/
def drnFld (f : BitVec 16) : Nat := bitsAt f.toNat 6 4
/-- The size of a drained element in bytes (R364). -/
def drainSize (fmt : Nat) : Nat := if fmt = 0 then 4 else if fmt = 3 then 32 else 2
/-- The tokens of a drained row (R364). -/
def drainTokens (fmt : Nat) : Nat := if fmt = 0 then 2 else if fmt = 3 then 16 else 1
/-- The bits of a drained element (R363). -/
def drainBits (fmt : Nat) (a : AccElem) : Nat :=
  match fmt with
  | 0 => cspResolve .fp32 a.csp
  | 1 => cspResolve .fp16 a.csp
  | 2 => cspResolve .bf16 a.csp
  | _ => (cspToBits { a.csp with sum := a.csp.sum + a.csp.carry, carry := 0 }).toNat

/-- The elements of token t of row r, packed in lane order, and the first poisoned one. -/
def Bank.tokenData (k : Bank) (fmt r t : Nat) : Nat × Option AccElem :=
  let n := 32 / drainTokens fmt
  let es := (upTo n).map (fun i => k.drained r (n * t + i))
  (foldUp (fun i acc => acc + drainBits fmt (es.getD i AccElem.zero) * 2 ^ (8 * drainSize fmt * i)) n 0,
    es.find? (fun a => a.poisoned))

/-- The control byte and the payload of a token that carries data, or the poison of an element (R248, R363). -/
def poisonPayload (data : Nat) (bad : Option AccElem) (last : Bool) : Byte × Vec :=
  match bad with
  | none => (mkCtl false false 0 last false 0, BitVec.ofNat 512 data)
  | some a => (mkCtl false a.logged.isSome 0 last true 0, BitVec.ofNat 512 (a.logged.getD 0 % 2 ^ 52))

/-! ### The bank of a context -/

/-- Does the node work in the context (R355, R379)? -/
def TileCtx.nodeRuns (c : TileCtx) : Bool :=
  match c.state with
  | .active | .suspending => true
  | _ => false

/-- The front operation of a node queue. -/
def TileCtx.front (c : TileCtx) : Option MxQueued := if c.nodeRuns then c.bank.queue.head? else none

/-- Mark the machine operation of a queued operation as having made its requests. -/
def State.endMemOp (s : State) (q : MxQueued) (status result : Nat) : State :=
  match q.memOp with
  | none => s
  | some m => s.modOp m (fun o => { o with pending := false, status := status, result := result })

/-- May the front operation's machine operation make requests now (R47, R373)? -/
def State.memOpOpen (s : State) (q : MxQueued) : Bool :=
  match q.memOp.bind s.op with
  | none => true
  | some o => s.arcsMet o

/-- Merge a clock into that of a queued operation. -/
def State.mergeQueued (s : State) (q : MxQueued) (c : Clock) : State :=
  match q.memOp.bind s.op with
  | none => s
  | some o => s.mergeOpClock o c

/-- Run a pass on the rows of both operands, or of B where the held A serves (R359, R368). -/
def Bank.runPass (k : Bank) (w : Word) (hold : Bool) (as bs : List (List MxElem)) : Bank :=
  let a := if hold then (match k.held with
    | some h => h.2
    | none => []) else as
  { k.pass a bs with held := some (mxcClass w, a) }

/-- The reads of a pass: A's where it is fetched, then B's. -/
def passReads (w : Word) (aRows bRows : List MxRow) : List Req := rowReads w false aRows ++ rowReads w true bRows

/-- Run a pass on what its reads returned; the accumulator depends on them. -/
def Bank.passFetched (k : Bank) (w : Word) (hold : Bool) (nA nB : Nat) (rs : List Req) (c : Clock) : Bank :=
  let cut := nA * (8 * (rowLines w false).length)
  { k.runPass w hold (rowsOf w false nA (rs.take cut)) (rowsOf w true nB (rs.drop cut)) with clock := clockMerge k.clock c }

/-- Have all the operation's reads come back? -/
def State.fetched (s : State) (o : MemOp) : Bool := o.reqs.all (fun r => s.reqDone o r && (r.replied || o.tile.isNone))

/-- The first row that no extent of the core's instance reaches any more (R134). -/
def State.rowRevoked (s : State) (x : AMap Extent) (n : Nat) (k : ReqKind) (rows : List MxRow) : Option Exc :=
  (rows.find? (fun r => (s.translate x r.va n k).isNone)).map (fun r => excAt 0x04 0 r.va)

/-- A queued operation ends the firing by a fault found after issue (R371, R380): its machine operation makes no more requests. -/
def State.nodeFault (s : State) (tile ctx : Nat) (q : MxQueued) (e : Exc) : State :=
  let s1 := match q.memOp with
    | none => s
    | some m => s.modOp m (fun o => { o with pending := false })
  (s1.modBank tile ctx Bank.popFront).raiseAt q.core e q.pc

/-- A pass at the front of its queue: its reads are put in the issue buffer, or, once all have come back, it is added (R359, R373). -/
def State.passTurn (s : State) (tile ctx : Nat) (q : MxQueued) (o : MemOp) (aRows bRows : List MxRow) (hold : Bool) (w : Word) : State :=
  if o.reqs.isEmpty then
    let x := s.extentsOf q.core
    match s.rowRevoked x (rowBytes w false) .read aRows, s.rowRevoked x (rowBytes w true) .read bRows with
    | some e, _ | none, some e => s.nodeFault tile ctx q e
    | none, none => s.modOp o.id (fun x => { x with reqs := passReads w aRows bRows })
  else if !s.fetched o then s
  else
    (s.modBank tile ctx (fun k => (k.passFetched w hold aRows.length bRows.length o.reqs (s.opClock o)).popFront)).endMemOp q 0
      (s.tctx tile ctx).bank.enabledCount

/-- MX_PASS (R359, R373): the pass at the front of a context's node queue fetches its operands, or accumulates. -/
def execMxPass (tile ctx : Nat) (s : State) : Out :=
  let c := s.tctx tile ctx
  match c.front with
  | none => .next s
  | some q =>
    match q.op, q.memOp.bind s.op with
    | .mul aRows bRows hold w, some o =>
      if c.bank.discard then .next (s.modBank tile ctx Bank.popFront)
      else if !s.arcsMet o then .next s
      else .next (s.passTurn tile ctx q o aRows bRows hold w)
    | .mul .., none => .next (s.modBank tile ctx Bank.popFront)
    | _, _ => .next s

/-- The masks that an MXMPB block holds (R361). -/
def Bank.loadMasks (k : Bank) (block : Nat) : Bank :=
  { k with
    elemMask := foldUp (fun i m => AMap.put m i (BitVec.ofNat 32 (block >>> (32 * i)))) 32 []
    rowMask := BitVec.ofNat 32 (block >>> 1024)
    colMask := BitVec.ofNat 32 (block >>> 1056)
    policy := block >>> 1088 % 256 }

/-- The fault of an MXMPB when its block is read (R371). -/
def State.blockFault (s : State) (p a block : Nat) : Option Exc :=
  match s.copyFault p false a 144 with
  | some e => some e
  | none =>
    if s.localBad p a 144 then some (excLocal 0x05 0 a)
    else if 3 ≤ block >>> 1088 % 256 then some excOperand
    else none

/-- MX_QUEUE_OPERATION (R365): an MXCFG, MXZERO, MXMSK or MXMPB at the front of a node queue takes effect. An MXMPB may not yet see
the firing's latest `State.unseen` local writes that `after` does not put before it (R51, R371). -/
def execMxQueueOperation (tile ctx : Nat) (s : State) : Out :=
  let c := s.tctx tile ctx
  match c.front with
  | none => .next s
  | some q =>
    let finish := fun (f : Bank → Bank) (n : Nat) =>
      (s.modBank tile ctx (fun k => (f k).popFront)).complete q.core q.done 0 n
    if c.bank.discard then
      (match q.op with
        | .cfg .. | .zero | .msk .. | .mpb _ => .next (s.modBank tile ctx Bank.popFront)
        | _ => .next s)
    else match q.op with
      | .cfg w st => .next (finish (fun k => { k with word := w, stride := st }) 0)
      | .zero => .next (finish (fun k => { k with acc := [], clock := [] }) 0)
      | .msk r cl => .next (finish (fun k => { k with rowMask := r, colMask := cl }) 0)
      | .mpb a =>
        let block := s.asyncRead q.core q.before s.unseen a 144
        (match s.blockFault q.core a block with
          | some e => .next (s.nodeFault tile ctx q e)
          | none => .next (finish (fun k => k.loadMasks block) 144))
      | _ => .next s

/-- What follows a drain: the accumulator is cleared, the bank released (R369). -/
def Bank.afterDrain (k : Bank) (form : BitVec 16) : Bank :=
  let k1 := if form.getLsbD 7 then { k with acc := [], clock := [] } else k
  { k1 with leaving := k1.leaving || form.getLsbD 8 }

/-- The descriptor of a memory drain (R364). -/
def drainDescriptor (fmt : Nat) : Nat × Nat := ((if fmt = 0 then 0x01 else if fmt = 1 then 0x02 else if fmt = 2 then 0x03 else 0x00), 0x7F)

/-- The writes of one row of a memory drain: every line whole, a line with a poisoned element poisoned (R363, R364). -/
def Bank.drainRow (k : Bank) (fmt i : Nat) (row : MxRow) : List Req :=
  let size := drainSize fmt
  let perLine := 64 / size
  (upTo (32 * size / 64)).flatMap (fun l =>
    let es := (upTo perLine).map (fun e => k.drained i (perLine * l + e))
    let bits := foldUp (fun e acc => acc + drainBits fmt (es.getD e AccElem.zero) * 2 ^ (8 * size * e)) perLine 0
    let bad := es.any (fun a => a.poisoned)
    (upTo 8).map (fun u =>
      let at_ := 64 * l + 8 * u
      { Req.make .write (row.va + at_) (row.pa + at_) 8 ((bits >>> (64 * u)) % 2 ^ 64) row.key with
        desc := if u = 0 then some (drainDescriptor fmt) else none
        whole := true
        poison := bad }))

/-- The writes of a memory drain. -/
def Bank.drainWrites (k : Bank) (fmt : Nat) (rows : List MxRow) : List Req :=
  (rows.zip (upTo 32)).flatMap (fun x => k.drainRow fmt x.2 x.1)

/-- Run a memory drain: its writes are put in the issue buffer, after the reads that the accumulator depends on (R44); the
operation leaves the queue when they are complete. -/
def State.runDrainMem (s : State) (tile ctx : Nat) (q : MxQueued) (rows : List MxRow) (form : BitVec 16) : State :=
  let k := (s.tctx tile ctx).bank
  match q.memOp.bind s.op with
  | none => s.modBank tile ctx (fun b => (b.afterDrain form).popFront)
  | some o =>
    if !o.pending then s
    else match s.rowRevoked (s.extentsOf q.core) (32 * drainSize (drnFmt form)) .write rows with
      | some e => s.nodeFault tile ctx q e
      | none =>
        let s1 := (s.mergeOpClock o k.clock).modOp o.id (fun x => { x with reqs := k.drainWrites (drnFmt form) rows })
        let bad := (upTo 1024).any (fun e => (k.drained (e / 32) (e % 32)).poisoned)
        (s1.modBank tile ctx (fun b => b.afterDrain form)).endMemOp q (if bad then 0x03 else 0) 1024

/-- Send the next token of a queue drain (R364). -/
def State.runDrainQueue (s : State) (tile ctx : Nat) (q : MxQueued) (qn row : Nat) (tag : Word) (sent : Nat)
    (form : BitVec 16) : State :=
  let k := (s.tctx tile ctx).bank
  let p := drainTokens (drnFmt form)
  if s.overRate q.core qn 1 then s.nodeFault tile ctx q (exc 0x01 0x04)
  else if !s.canPush q.core qn 5 then s
  else
    let f := (s.core q.core).firing
    let (data, bad) := k.tokenData (drnFmt form) row sent
    let (ctl, pay) := poisonPayload data bad (form.getLsbD 9)
    let g := setField (s.tctx tile ctx).tagw (drnFld form) (row * p + sent) tag
    let tok : Token :=
      { tag := mkTag (tagColour f.tag) (tagCtx f.tag) (tagNest g), ctl := ctl, wide := true, payload := pay, clock := k.clock }
    let s1 := s.pushQueue q.core qn tok
    if sent + 1 < p then
      s1.modBank tile ctx (fun b =>
        { b with queue := { q with op := .drainQueue qn row tag (sent + 1) form } :: b.queue.tail })
    else (s1.modBank tile ctx (fun b => (b.afterDrain form).popFront)).endMemOp q 0 32

/-- The registers that a register drain writes (R364). -/
def drainDests (d : RegField) (form : BitVec 16) : List (BitVec 5) := if drnFmt form = 0 then [vreg d, vreg d + 1] else [vreg d]

/-- Run a register drain: a poisoned element is the poison-consumed fault (R363). -/
def State.runDrainRegs (s : State) (tile ctx : Nat) (q : MxQueued) (d : RegField) (row : Nat) (form : BitVec 16) : State :=
  let k := (s.tctx tile ctx).bank
  let fmt := drnFmt form
  let s1 := ((s.mergeQueued q k.clock).modBank tile ctx (fun b => (b.afterDrain form).popFront)).endMemOp q 0 32
  if (upTo 32).any (fun j => (k.drained row j).poisoned) then s1.raiseAt q.core (exc 0x05 0x00) q.pc
  else
    s1.modCore q.core (fun c => foldUp (fun t (c : Core) =>
      let r := (drainDests d form).getD t 0
      (c.wv r (BitVec.ofNat 512 (k.tokenData fmt row t).1)).clearV r) (drainTokens fmt) c)

/-- MX_DRAIN_RUN (R363, R364): the drain at the front of a node queue delivers, a queue drain one token at a time. -/
def execMxDrainRun (tile ctx : Nat) (s : State) : Out :=
  let c := s.tctx tile ctx
  match c.front with
  | none => .next s
  | some q =>
    if c.bank.discard then
      (match q.op with
        | .drainMem .. | .drainQueue .. | .drainRegs .. => .next (s.modBank tile ctx Bank.popFront)
        | _ => .next s)
    else if !s.memOpOpen q then .next s
    else match q.op with
      | .drainMem rows form => .next (s.runDrainMem tile ctx q rows form)
      | .drainQueue qn row tag sent form => .next (s.runDrainQueue tile ctx q qn row tag sent form)
      | .drainRegs d row form => .next (s.runDrainRegs tile ctx q d row form)
      | _ => .next s

/-! ### Issue (R356, R365 to R372, R380) -/

/-- The context's bank for the issuing firing. -/
def State.myBank (s : State) : Bank := (s.firingCtx s.cur).bank

/-- Does the core own the bank (R356)? -/
def Bank.ownedBy (k : Bank) (p : Nat) : Bool := k.owner == .core p && !k.leaving

/-- The fault of an MX instruction before its own checks: a free-running context (R376). -/
def State.mxFree (s : State) : Option Exc :=
  if isActor s.cur && (s.firingCtx s.cur).mxs.isSome then some excEngine else none

/-- The same, with the non-owner's fault (R356). -/
def State.mxOwner (s : State) : Option Exc :=
  match s.mxFree with
  | some e => some e
  | none => badIf (isActor s.cur && !s.myBank.ownedBy s.cur)

/-- Put an operation in the issuing firing's node queue. -/
def State.enqueue (s : State) (op : MxOp) (memOp : Option Nat) (o : Operands) : State :=
  let q : MxQueued := { core := s.cur, op := op, done := o.t, memOp := memOp, pc := s.me.pc, before := s.localBefore o.c }
  s.modBank (tileOf s.cur) s.me.firing.ctx (fun k => { k with queue := k.queue ++ [q] })

/-- Is the issuing firing's node queue full (R365)? -/
def State.nodeFull (s : State) : Bool := isActor s.cur && 4 ≤ s.myBank.queue.length

/-- A queued instruction without machine requests. -/
def State.queueOp (s : State) (op : MxOp) (o : Operands) : Out :=
  .next (((s.enqueue op none o).modCore s.cur (fun c => c.markT o.t)).retire o.form)

/-- A core takes a bank without an owner (R355, R356). -/
def State.takeBank (s : State) (p : Nat) : State :=
  s.modCtx (tileOf p) (s.core p).firing.ctx (fun c => { c with bank := { Bank.taken with owner := .core p } })

/-- MXCFG (R356, R366): a firing that does not own the bank waits until it has no owner, and takes it. -/
def execMxcfg (o : Operands) (s : State) : Out :=
  let free := s.myBank.owner == .none
  let hold := if s.myBank.ownedBy s.cur then s.nodeFull else !free
  issue ({ Use.onActor with xs := [o.a, o.b], hold := isActor s.cur && hold, bad := s.mxFree }.tokens o) s (fun rd s1 =>
    if mxcBad (rd o.a) (rd o.b) then s1.raise excOperand
    else
      let s2 := if s1.myBank.ownedBy s1.cur then s1 else s1.takeBank s1.cur
      s2.queueOp (.cfg (rd o.a) (rd o.b)) o)

/-- Is the next instruction of a running core an MXCFG (for MX_BANK_ACQUIRE)? -/
def State.atCode (s : State) (p op : Nat) (fn : Nat) : Bool :=
  let s1 := { s with cur := p }
  s1.me.run == .running && (match s1.fetchFrom s1.me.pc.toNat 1 with
    | .ok bytes => (match takeParcel bytes with
      | some (w, _) => (opField w).toNat == op && (fnField w).toNat == fn
      | none => false)
    | .error _ => false)

/-- MX_BANK_ACQUIRE (R356): a waiting MXCFG's firing takes a bank that has no owner. -/
def execMxBankAcquire (core : Nat) (s : State) : Out :=
  if isActor core && s.atCode core 0x5C 0 && (s.firingCtx core).mxs.isNone && (s.firingCtx core).bank.owner == .none then
    .next (s.takeBank core)
  else .next s

/-- MXZERO (R367). -/
def execMxzero (o : Operands) (s : State) : Out :=
  issue ({ Use.onActor with hold := s.nodeFull, bad := s.mxOwner }.tokens o) s (fun _ s1 => s1.queueOp .zero o)

/-- MXMSK (R370). -/
def execMxmsk (o : Operands) (s : State) : Out :=
  issue ({ Use.onActor with xs := [o.a, o.b], hold := s.nodeFull, bad := s.mxOwner }.tokens o) s (fun rd s1 =>
    s1.queueOp (.msk ((rd o.a).setWidth 32) ((rd o.b).setWidth 32)) o)

/-- MXMPB (R371). -/
def execMxmpb (o : Operands) (s : State) : Out :=
  issue ({ Use.onActor with xs := [o.a], hold := s.nodeFull, bad := s.mxOwner }.tokens o) s (fun rd s1 =>
    match s1.localFault s1.cur (rd o.a) 144 8 false with
    | some e => s1.raise e
    | none => s1.queueOp (.mpb (rd o.a).toNat) o)

/-- MXWAIT (R372). -/
def execMxwait (o : Operands) (s : State) : Out :=
  issue { Use.onActor with hold := s.nodeBusy s.cur, bad := s.mxOwner } s (fun _ s1 => .next (s1.retire o.form))

/-- The machine operation of a pass or a drain: the fetch unit is the party, its clock starts as the firing's (R373). Its reads are
sources of arcs: what is drained depends on them (R44, R55). -/
def State.nodeOp (s : State) (o : Operands) (future : List Req) : MemOp :=
  { s.newOp o false with
    party := fetchParty (tileOf s.cur)
    own := some (s.clock s.cur)
    acquire := o.form != .w32 && o.md.getLsbD 2
    release := o.form != .w32 && o.md.getLsbD 3
    pending := true
    eager := true
    future := future }

/-- Queue an operation that has machine requests, with the ranges that they will touch. -/
def State.queueMemOp (s : State) (op : MxOp) (future : List Req) (o : Operands) : State :=
  let m := s.z.nextId
  ((s.addOp (s.nodeOp o future) s.cur).enqueue op (some m) o).modCore s.cur (fun c => c.markT o.t)

/-- The configuration word that the queued operations leave (R366, R368). -/
def Bank.wordAhead (k : Bank) : Word × Word :=
  k.queue.foldl (fun acc q => match q.op with
    | .cfg w st => (w, st)
    | _ => acc) (k.word, k.stride)

/-- The class of the held A that the queued operations leave (R368). -/
def Bank.heldAhead (k : Bank) : Option Nat :=
  k.queue.foldl (fun acc q => match q.op with
    | .mul _ _ _ w => some (mxcClass w)
    | _ => acc) (k.held.map (fun h => h.1))

/-- Check 32 rows of an operand or a drain: alignment of the base first, then each row's extent (R368, R369). -/
def State.nodeRows (s : State) (x : AMap Extent) (base stride n : Nat) (k : ReqKind) : Except Exc (List MxRow) :=
  (upTo 32).foldl (fun acc i => match acc with
    | .error e => .error e
    | .ok rs =>
      match s.translate x (base + i * stride) n k with
      | none => .error (excAt 0x04 0 (base + i * stride))
      | some (pa, key, _) => .ok (rs ++ [{ va := base + i * stride, pa := pa, key := key }])) (.ok [])

/-- The ranges of rows of n bytes, for the Same location row of R44. -/
def rowRanges (k : ReqKind) (n : Nat) (rows : List MxRow) : List Req := rows.map (fun r => Req.make k r.va r.pa n 0 r.key)

/-- The checks of a pass (R368): the operand rows that it will fetch. -/
def State.passRows (s : State) (x : AMap Extent) (w st : Word) (a b : Nat) (hold : Bool) :
    Except Exc (List MxRow × List MxRow) :=
  if !hold && a % 64 != 0 then .error (excAt 0x03 0 a)
  else if b % 64 != 0 then .error (excAt 0x03 0 b)
  else match (if hold then .ok [] else s.nodeRows x a (mxStride st false) (rowBytes w false) .read) with
    | .error e => .error e
    | .ok ra =>
      match s.nodeRows x b (mxStride st true) (rowBytes w true) .read with
      | .error e => .error e
      | .ok rb => .ok (ra, rb)

/-- MXMUL (R368). -/
def execMxmul (o : Operands) (s : State) : Out :=
  let h := o.imm.getLsbD 0
  let (w, st) := s.myBank.wordAhead
  let bad := match s.mxOwner with
    | some e => some e
    | none => badIf (o.imm.toNat / 2 != 0 || (isActor s.cur && h && s.myBank.heldAhead != some (mxcClass w)))
  issue ({ Use.onActor with xs := [o.a, o.b], hold := s.nodeFull, bad := bad }.tokens o) s (fun rd s1 =>
    match s1.passRows (s1.extentsOf s1.cur) w st (rd o.a).toNat (rd o.b).toNat h with
    | .error e => s1.raise e
    | .ok (ra, rb) => 
      .next ((s1.queueMemOp (.mul ra rb h w)
        (rowRanges .read (rowBytes w false) ra ++ rowRanges .read (rowBytes w true) rb) o).retire o.form))

/-- The operand faults of MXDRN that its fields alone decide (R369). -/
def State.drainBad (s : State) (o : Operands) : Option Exc :=
  match s.mxOwner with
  | some e => some e
  | none =>
    let f := o.imm
    let queue := drnDst f = 1
    if drnDst f = 3 || (drnFmt f = 3 && drnDst f = 2) || f.toNat / 1024 != 0 ||
        (queue && (!namesQueue o.d || !s.outWide s.cur (queueOf o.d))) then some excOperand
    else if queue && isActor s.cur && (s.firingCtx s.cur).tagw.length ≤ drnFld f then some (exc 0x01 0x06)
    else none

/-- MXDRN (R364, R369). One to a queue waits for another instruction's copy on the queue (R230), and for a result that is pending for it
(R98). -/
def drainOp (o : Operands) (s : State) : Out :=
  let f := o.imm
  let fmt := drnFmt f
  let regs := drnDst f = 2
  let queueHeld := drnDst f = 1 && (s.queueBusy s.cur false (queueOf o.d) || s.me.pendingX o.d)
  issue ({ Use.onActor with
    xs := [o.a, o.b], vd := if regs then drainDests o.d f else [], hold := s.nodeFull || queueHeld, bad := s.drainBad o }.tokens o) s
    (fun rd s1 =>
      let row := (rd o.a).toNat % 32
      match drnDst f with
      | 0 =>
        let size := 32 * drainSize fmt
        if (rd o.b).toNat % 64 != 0 || (rd o.b).toNat < size then s1.raise excOperand
        else if (rd o.a).toNat % 64 != 0 then s1.raise (excAt 0x03 0 (rd o.a).toNat)
        else match s1.nodeRows (s1.extentsOf s1.cur) (rd o.a).toNat (rd o.b).toNat size .write with
          | .error e => s1.raise e
          | .ok rows => .next ((s1.queueMemOp (.drainMem rows f) (rowRanges .write size rows) o).retire o.form)
      | 1 =>
        let p := drainTokens fmt
        if 2 ^ fieldW (s1.firingCtx s1.cur).tagw (drnFld f) < row * p + p then s1.raise (exc 0x01 0x06)
        else if s1.overRate s1.cur (queueOf o.d) p then s1.raise (exc 0x01 0x04)
        else .next ((s1.queueMemOp (.drainQueue (queueOf o.d) row (rd o.b) 0 f) [] o).retire o.form)
      | _ =>
        let s2 := (s1.queueMemOp (.drainRegs o.d row f) [] o).modCore s1.cur (fun c =>
          (drainDests o.d f).foldl (fun k r => k.markV r) c)
        .next (s2.retire o.form))

/-- MXDRN to memory (R364). -/
def execMxdrnMemory (o : Operands) (s : State) : Out := drainOp o s
/-- MXDRN to a queue (R364). -/
def execMxdrnQueue (o : Operands) (s : State) : Out := drainOp o s
/-- MXDRN to registers (R364). -/
def execMxdrnRegisters (o : Operands) (s : State) : Out := drainOp o s

end Sys2Proof.Machine
end

