-- ==== Sys2Proof/Machine/Select.lean ====
section
/-! DEFINITION. The selection engine (R385 to R402): channels, the walk, its saved record, the transpose pass and the
plane steps, and the QS instructions. -/

namespace Sys2Proof.Machine

/-! ### Channels (R386, R387) -/

/-- A channel. -/
def State.channel (s : State) (g c : Nat) : Channel := AMap.get Channel.free (s.gal g).channels c
/-- Change a channel. -/
def State.modChannel (s : State) (g c : Nat) (f : Channel → Channel) : State :=
  s.modGal g (fun x => { x with channels := AMap.put x.channels c (f (AMap.get Channel.free x.channels c)) })
/-- The channel of its gallery's sill that a core owns. -/
def State.ownChannel (s : State) (p : Nat) : Option Nat :=
  findUp (fun c => (s.channel (s.galleryOf p) c).owner == some p) 8
/-- Does the core own a channel anywhere (R386: at most one)? -/
def State.ownsAny (s : State) (p : Nat) : Bool :=
  (upTo 16).any (fun g => (s.gal g).channels.any (fun c => c.2.owner == some p))
/-- The walk of the channel that a core owns. -/
def State.walkOf (s : State) (p : Nat) : Option Walk := (s.ownChannel p).bind (fun c => (s.channel (s.galleryOf p) c).walk)
/-- Change the walk of a channel. -/
def State.setWalk (s : State) (g c : Nat) (w : Walk) : State := s.modChannel g c (fun k => { k with walk := some w })
/-- An operation of the core's channel is in progress (R395). -/
def State.channelBusy (s : State) (p : Nat) : Bool :=
  s.z.ops.any (fun o => 8500 ≤ o.party && o.party < 8700 && o.core == some p)
/-- The free blocks of a sill's engine SRAM (R387). -/
def State.freeBlocks (s : State) (g : Nat) : Nat := 8 - ((s.gal g).channels.map (fun c => c.2.blocks)).sum

/-! ### The walk's record and its geometry (R388, R389, R393, R394) -/

/-- `QSS.CFG` as options (R394). -/
def walkCfg (n : Nat) : WalkCfg :=
  { pb := bitsAt n 14 9, w32 := n.testBit 8, pln := n.testBit 7, zf := n.testBit 6, asc := n.testBit 5, wgt := n.testBit 4,
    ty := n % 16 }
/-- Options as `QSS.CFG` (R394). -/
def WalkCfg.bits (c : WalkCfg) : Nat :=
  c.pb * 512 + c.w32.toNat * 256 + c.pln.toNat * 128 + c.zf.toNat * 64 + c.asc.toNat * 32 + c.wgt.toNat * 16 + c.ty
/-- The image width (R389). -/
def WalkCfg.width (c : WalkCfg) : Nat := if c.w32 then 32 else elemBits (typeOf c.ty)
/-- The options that QSCFG refuses (R396). -/
def WalkCfg.bad (c : WalkCfg) : Bool :=
  (c.w32 && !([3, 4, 5, 6, 7, 12, 14].contains c.ty)) || c.width < c.pb || (c.wgt && c.zf && isIntType (typeOf c.ty))
/-- N. -/
def Walk.count (w : Walk) : Nat := if w.num = 0 then 2 ^ 32 else w.num
/-- PS. -/
def Walk.ps (w : Walk) : Nat := 64 * ((w.count + 511) / 512)
/-- The image width. -/
def Walk.width (w : Walk) : Nat := w.cfg.width
/-- The bytes of the column (R206, R390). -/
def Walk.colBytes (w : Walk) : Nat :=
  let b := elemBits (typeOf w.cfg.ty)
  if b = 6 then 64 * ((w.count + 83) / 84) else (w.count * b + 7) / 8
/-- The bytes of the engine area (R389). -/
def Walk.areaBytes (w : Walk) : Nat := (w.width + 1) * w.ps

/-- `QSS.STAT` (R393). -/
def Walk.stat (w : Walk) : Nat :=
  w.valid.toNat + w.tp.toNat * 2 + w.msk.toNat * 4 + w.fin.toNat * 8 + w.oor.toNat * 16 + w.pois.toNat * 32 +
    w.bnd.toNat * 64 + w.one.toNat * 128

/-- The selection state record (R393). -/
def Walk.record (w : Walk) : Vec :=
  let f := fun (v n lo : Nat) => v % 2 ^ n * 2 ^ lo
  BitVec.ofNat 512 (f (if w.tp then w.cw else w.src) 64 448 + f (w.area / 64) 51 397 + f (w.wgtAddr / 64) 51 346 + f w.rem 64 282 +
    f w.part 64 218 + f w.pcnt 33 185 + f w.cnt 33 152 + f w.pfx 32 120 + f w.pos 32 88 + f w.num 32 56 +
    f w.cfg.bits 15 41 + f w.col 10 31 + f w.pln 6 25 + f w.stat 8 17)

/-- A walk from its record (R393), its candidates not yet read. -/
def walkOfRecord (r : Vec) : Walk :=
  let b := fun (hi lo : Nat) => bitsAt r.toNat hi lo
  let tp := r.getLsbD 18
  { src := if tp then 0 else b 511 448, cw := if tp then b 511 448 else 0, area := 64 * b 447 397, wgtAddr := 64 * b 396 346,
    rem := b 345 282, part := b 281 218, pcnt := b 217 185, cnt := b 184 152, pfx := b 151 120, pos := b 119 88, num := b 87 56,
    cfg := walkCfg (b 55 41), col := b 40 31, pln := b 30 25, valid := r.getLsbD 17, tp := tp, msk := r.getLsbD 19,
    fin := r.getLsbD 20, oor := r.getLsbD 21, pois := r.getLsbD 22, bnd := r.getLsbD 23, one := r.getLsbD 24, cand := [] }

/-- The walk that a configuration block asks for (R388, R396). -/
def walkOfBlock (blk : Nat) (t : Word) (col : Nat) : Walk :=
  let cfg := walkCfg (bitsAt blk 239 224)
  let n := bitsAt blk 223 192
  { src := if cfg.pln then 0 else bitsAt blk 63 0, cw := 0, area := bitsAt blk 127 64, wgtAddr := bitsAt blk 191 128, rem := t.toNat,
    part := 0, pcnt := 0, cnt := if n = 0 then 2 ^ 32 else n, pfx := 0, pos := 0, num := n, cfg := cfg, col := col, pln := 0,
    valid := true, tp := cfg.pln, msk := false, fin := false, oor := false, pois := false, bnd := false, one := false,
    cand := [] }

/-- The ranges that the walk reaches, and how (R396). -/
def Walk.ranges (w : Walk) : List (Nat × Nat × ReqKind) :=
  (if w.tp then [] else [(w.src, w.colBytes, .read)]) ++ (if w.cfg.wgt then [(w.wgtAddr, 4 * w.count, .read)] else []) ++
    [(w.area, w.areaBytes, .write)]

/-- The checks of a walk's bases and ranges for a core (R396, R399). -/
def State.walkFaultOf (s : State) (p : Nat) (w : Walk) : Option Exc :=
  match w.ranges.find? (fun r => r.1 % 64 != 0) with
  | some r => some (excAt 0x03 0 r.1)
  | none =>
    (w.ranges.find? (fun r => (s.translate (s.extentsOf p) r.1 r.2.1 r.2.2).isNone)).map (fun r => excAt 0x04 0 r.1)

/-- The checks for the issuing core. -/
def State.walkFault (s : State) (w : Walk) : Option Exc := s.walkFaultOf s.cur w

/-! ### Candidates (R391) -/

/-- Cand(i). -/
def Walk.isCand (w : Walk) (i : Nat) : Bool := i < w.count && (AMap.get (ones 64) w.cand (i / 64)).testBit (i % 64)
/-- The 64 bits of a test from element 64 g on, below N. -/
def Walk.word (w : Walk) (f : Nat → Bool) (g : Nat) : Nat :=
  foldUp (fun k acc => if 64 * g + k < w.count && f (64 * g + k) then acc + 2 ^ k else acc) 64 0
/-- The N bits of a test as PS bytes, the bits from N on zero. -/
def Walk.bitVector (w : Walk) (f : Nat → Bool) : Nat :=
  foldUp (fun g acc => acc + w.word f g * 2 ^ (64 * g)) ((w.count + 63) / 64) 0
/-- Keep the candidates that pass a test. -/
def Walk.keep (w : Walk) (f : Nat → Bool) : Walk :=
  { w with cand := foldUp (fun g m =>
      let v := w.word (fun i => w.isCand i && f i) g
      if v = ones 64 then m else AMap.put m g v) ((w.count + 63) / 64) [] }
/-- How many elements pass a test. -/
def Walk.countIf (w : Walk) (f : Nat → Bool) : Nat := foldUp (fun i n => if f i then n + 1 else n) w.count 0

/-! ### What a channel reads and writes (R390, R402) -/

/-- Where a range of a walk lies: its physical base and its key slot. -/
structure Place where
  pa : Nat
  key : Nat
  deriving DecidableEq, Repr

/-- Translate a range of a channel's walk. -/
def State.place (s : State) (p va n : Nat) (k : ReqKind) : Option Place :=
  (s.translate (s.extentsOf p) va n k).map (fun r => { pa := r.1, key := r.2.1 })

/-- Bytes of a range as a gallery's view holds them. -/
def State.placed (s : State) (g : Nat) (l : Place) (off n : Nat) : Nat :=
  View.bytes s.root.keys (s.view g) l.key (l.pa + off) n
/-- Is any line of a part of a range poisoned in the gallery's view? -/
def State.placeBad (s : State) (g : Nat) (l : Place) (off n : Nat) : Bool :=
  (upTo ((n + 63) / 64)).any (fun k => (s.view g).poisoned (l.pa + off + 64 * k))
/-- The reads of `n` bytes at offset `off` of a range at `va`, unit by unit (R402). -/
def Place.reads (l : Place) (va off n : Nat) : List Req :=
  (unitPieces (va + off) n).map (fun p => Req.make .read (va + off + p.1) (l.pa + off + p.1) p.2 0 l.key)

/-- A unit's operation writes `n` bytes at a physical address, unit by unit (R402, R406); a line that they cover is written whole
(R144). -/
def State.unitWrites (s : State) (op va pa key value n : Nat) : State :=
  (unitPieces va n).foldl (fun st p =>
    let line := (pa + p.1) / 64 * 64
    st.unitWrite op { Req.make .write (va + p.1) (pa + p.1) p.2 ((value >>> (8 * p.1)) % 2 ^ (8 * p.2)) key with
      whole := pa ≤ line && line + 64 ≤ pa + n }) s

/-- Where element i of the column lies (R206, R390). -/
def Walk.elemLoc (w : Walk) (i : Nat) : ElemLoc := Machine.elemLoc (BitVec.ofNat 512 (w.cfg.ty * 2 ^ 64)) i

/-- The image of element i of the column, from the reads of its chunk, which begin at offset `lo` of the column; none where it is
poisoned (R390). -/
def Walk.imageOf (w : Walk) (lo : Nat) (rs : List Req) (data i : Nat) : Option Nat :=
  let t := typeOf w.cfg.ty
  let l := w.elemLoc i
  let line := (rs.drop ((l.addr - lo) / 64 * 8)).take 8
  let d := (line.head?).elim (0, 127) Req.lineDesc
  let e := elemOf t l ((data >>> (8 * (l.addr - lo))) % 2 ^ (8 * l.bytes))
  let img := fun (scale : Nat) => if w.cfg.w32 then scaledImage t scale w.cfg.zf e else image t w.cfg.zf e
  if line.any Req.bad then none
  else match lineFormat d.1 with
    | .raw => some (img 127)
    | .elem u scaled => if u = t && (!scaled || w.cfg.w32) then some (img (if scaled then d.2 else 127)) else none
    | _ => none

/-- The end of the chunk of 2,048 elements that begins at POS (R391). -/
def Walk.chunkEnd (w : Walk) : Nat := min w.count (w.pos + 2048)

/-- The bytes of the column that the chunk at POS reads: the first, at the start of its line, and how many. -/
def Walk.colChunk (w : Walk) : Nat × Nat :=
  let lo := (w.elemLoc w.pos).addr / 64 * 64
  let l := w.elemLoc (w.chunkEnd - 1)
  (lo, l.addr + l.bytes - lo)

/-- The bits of a chunk's images in plane q, from the chunk's first element on. -/
def chunkPlane (width q : Nat) (imgs : List Nat) : Nat :=
  (imgs.zip (upTo imgs.length)).foldl (fun acc x => if x.1.testBit (width - 1 - q) then acc + 2 ^ x.2 else acc) 0

/-- The mask written to its area as whole lines, for an operation of the channel. -/
def State.writeMask (s : State) (op : Nat) (w : Walk) (area : Place) : State :=
  let off := w.width * w.ps
  s.unitWrites op (w.area + off) (area.pa + off) area.key (w.bitVector w.isCand) w.ps

/-! ### The passes (R390 to R392) -/

/-- What a chunk reads (R390, R391, R412): of the column in the transpose pass; of the plane and the weights in a plane step, whose
last chunk reads the plane once more, whole, to keep the candidates. -/
def Walk.chunkReads (w : Walk) (area : Place) (col wgt : Option Place) : List Req :=
  let n := w.chunkEnd - w.pos
  match w.tp, col with
  | false, some c => c.reads w.src w.colChunk.1 w.colChunk.2
  | false, none => []
  | true, _ =>
    area.reads w.area (w.pln * w.ps + w.pos / 8) ((n + 7) / 8) ++ (wgt.elim [] (fun l => l.reads w.wgtAddr (4 * w.pos) (4 * n))) ++
      (if w.chunkEnd = w.count then area.reads w.area (w.pln * w.ps) ((w.count + 7) / 8) else [])

/-- A chunk of the transpose pass (R390), on what its reads returned: the images of its elements go to the planes. A poisoned
element's image is a free value (log entry 2). -/
def State.transposeChunk (s : State) (w : Walk) (o : MemOp) (area : Place) (rs : List Req) : Walk × State :=
  let n := w.chunkEnd - w.pos
  let data := readBytes rs
  let got := (upTo n).map (fun k => w.imageOf w.colChunk.1 rs data (w.pos + k))
  let imgs := (got.zip (upTo n)).map (fun x => match x.1 with
    | some v => v
    | none => (Config.freeWord (s.freeCount + x.2)).toNat % 2 ^ w.width)
  let off := w.pos / 8
  let len := if w.chunkEnd = w.count then w.ps - off else 256
  let s1 := { s with freeCount := s.freeCount + n }
  let s2 := (upTo w.width).foldl (fun st q =>
    st.unitWrites o.id (w.area + q * w.ps + off) (area.pa + q * w.ps + off) area.key (chunkPlane w.width q imgs) len) s1
  let w1 := { w with pos := w.chunkEnd, pois := w.pois || got.any Option.isNone }
  (if w.chunkEnd = w.count then { w1 with tp := true, pos := 0, src := 0, cw := 0 } else w1, s2)

/-- The sums of a chunk of plane q (R391), from the bits of its elements and their weights. -/
def Walk.sumChunk (w : Walk) (bit : Nat → Bool) (weight : Option (Nat → Nat)) : Walk :=
  let d := !w.cfg.asc
  let add := fun (k : Nat) (x : Walk) =>
    if !w.isCand (w.pos + k) then x
    else
      let v := match weight with
        | some f => f k
        | none => 1
      let x1 := if weight.isSome && w.pln = 0 then { x with cw := x.cw + v } else x
      if bit k = d then { x1 with part := x1.part + v, pcnt := x1.pcnt + 1 } else x1
  { foldUp add (w.chunkEnd - w.pos) w with pos := w.chunkEnd }

/-- The decision of a plane step (R391), from the plane's bits. The flag says whether candidates were dropped; a walk left with a
single candidate has still to take its image's lower bits (`State.single`). -/
def Walk.decide (w : Walk) (bit : Nat → Bool) : Walk × Bool :=
  let q := w.pln
  let d := !w.cfg.asc
  let (sum, sc) := (w.part, w.pcnt)
  let w0 := { w with pos := 0, part := 0, pcnt := 0 }
  let cw := if w.cfg.wgt then w.cw else w.cnt
  if q = 0 && cw ≤ w.rem then ({ w0 with oor := true, fin := true, pfx := 0 }, false)
  else
    let hit : Bool := w.rem < sum
    let keep := if hit then d else !d
    let w1 : Walk := { w0.keep (fun i => bit i == keep) with
      rem := if hit then w.rem else w.rem - sum
      pfx := w.pfx + keep.toNat * 2 ^ (w.width - 1 - q)
      cnt := if hit then sc else w.cnt - sc
      cw := if !w.cfg.wgt then w.cw else if hit then sum else w.cw - sum
      pln := q + 1 }
    if w1.cnt != 1 && (q + 1 = w.width || q + 1 = w.cfg.pb) then ({ w1 with fin := true, bnd := q + 1 < w.width }, true)
    else (w1, true)

/-- The single candidate's image gives the bits below the decided one, and the walk ends (R391): the channel reads its bit in each
lower plane. -/
def State.single (s : State) (o : MemOp) (w : Walk) (area : Place) : Walk × State :=
  let i := (findUp w.isCand w.count).getD 0
  let w0 := { w with pln := w.width, one := true, fin := true }
  ((upTo w.width).filter (fun q => w.pln ≤ q)).foldl (fun (x : Walk × State) q =>
    let off := q * w.ps + i / 8
    let (v, bad, st) := x.2.unitRead o.id (Req.make .read (w.area + off) (area.pa + off) 1 0 area.key) true
    ({ x.1 with
      pfx := if v.testBit (i % 8) then x.1.pfx + 2 ^ (w.width - 1 - q) else x.1.pfx
      pois := x.1.pois || bad }, st)) (w0, s)

/-- The poison of a walk that ends (R392): planes that it has not walked count too. -/
def State.endPoison (s : State) (g : Nat) (w : Walk) (area : Place) : Walk :=
  if w.fin then { w with pois := w.pois || s.placeBad g area 0 (w.width * w.ps) } else w

/-- The blocks that a walk takes as its first plane step begins (R387). -/
def State.takeBlocks (s : State) (g c : Nat) (w : Walk) : State :=
  let need := (w.count + 262143) / 262144
  if (s.channel g c).blocks = 0 && w.count ≤ 2097152 && need ≤ s.freeBlocks g then s.modChannel g c (fun k => { k with blocks := need })
  else s

/-- A chunk of a plane step, on what its reads returned, and the decision after the last one (R391, R392). Where the mask is not in
engine SRAM it is worked in place, in the mask area (R387). -/
def State.planeChunk (s : State) (g c : Nat) (w : Walk) (o : MemOp) (area : Place) (rs : List Req) : State :=
  let s1 := if w.pln = 0 && w.pos = 0 then s.takeBlocks g c w else s
  let n := w.chunkEnd - w.pos
  let nBits := (unitPieces (w.area + w.pln * w.ps + w.pos / 8) ((n + 7) / 8)).length
  let nWgt := if w.cfg.wgt then (unitPieces (w.wgtAddr + 4 * w.pos) (4 * n)).length else 0
  let bits := readBytes (rs.take nBits)
  let wgts := readBytes ((rs.drop nBits).take nWgt)
  let w1 := { w.sumChunk (fun k => bits.testBit k) (if w.cfg.wgt then some (fun k => (wgts >>> (32 * k)) % 2 ^ 32) else none) with
    pois := w.pois || rs.any Req.bad }
  if w1.pos < w.count then s1.setWalk g c w1
  else
    let plane := readBytes (rs.drop (nBits + nWgt))
    let (w2, kept) := w1.decide (fun i => plane.testBit i)
    let (w3, s2) := if kept && w2.cnt = 1 then s1.single o w2 area else (w2, s1)
    let w4 := s2.endPoison g w3 area
    if kept && (s2.channel g c).blocks = 0 then (s2.writeMask o.id w4 area).setWalk g c { w4 with msk := true }
    else s2.setWalk g c w4

/-! ### Long operations (R395, R397, R400) -/

/-- `DONE.STATUS` (R395). -/
def Walk.status (w : Walk) : Nat := if w.pois then 0x03 else if w.oor then 0x05 else 0

/-- Does the walk meet the long operation's condition (R397)? -/
def QsLong.met (q : QsLong) (w : Walk) : Bool :=
  match q with
  | .step n => w.tp && (w.fin || min n w.width ≤ w.pln)
  | .run => w.tp && w.fin
  | .mask .. => false

/-- End the long operation of a channel: its machine operation completes once its writes have. -/
def State.endJob (s : State) (g c op result : Nat) : State :=
  let st := match (s.channel g c).walk with
    | some w => w.status
    | none => 0
  (s.modChannel g c (fun k => { k with job := none })).modOp op (fun o => { o with pending := false, status := st, result := result })

/-- End the operation if its condition holds. -/
def State.tryEnd (s : State) (g c : Nat) : State :=
  match (s.channel g c).job, (s.channel g c).walk with
  | some j, some w => if j.what.met w then s.endJob g c j.op w.cnt else s
  | _, _ => s

/-- At or beyond the prefix in its top PLN bits (R400, mode 2), from the planes' bits. -/
def Walk.beyond (w : Walk) (planes : List Nat) (i : Nat) : Bool :=
  let img := planes.foldl (fun acc p => 2 * acc + (p.testBit i).toNat) 0
  let top := w.pfx >>> (w.width - w.pln)
  !w.oor && (if w.cfg.asc then img ≤ top else top ≤ img)

/-- What QSMSK reads (R400): the vector, or the planes walked. -/
def Walk.maskReads (w : Walk) (mode va : Nat) (area vec : Place) : List Req :=
  match mode with
  | 0 => vec.reads va 0 w.ps
  | 1 => []
  | _ => (upTo w.pln).flatMap (fun q => area.reads w.area (q * w.ps) w.ps)

/-- QSMSK's effect (R400), on what its reads returned. -/
def State.maskJob (s : State) (g c : Nat) (w : Walk) (op mode va : Nat) (area vec : Place) (rs : List Req) : State :=
  match mode with
  | 0 =>
    let bits := readBytes rs
    let w1 := w.keep (fun i => bits.testBit i)
    let w2 := { w1 with msk := true, cnt := w1.countIf w1.isCand, pois := w.pois || rs.any Req.bad }
    ((s.setWalk g c w2).writeMask op w2 area).endJob g c op w2.cnt
  | 1 => (s.unitWrites op va vec.pa vec.key (w.bitVector w.isCand) w.ps).endJob g c op (w.countIf w.isCand)
  | _ =>
    let n := w.ps / 8
    let f := w.beyond ((upTo w.pln).map (fun q => readBytes ((rs.drop (n * q)).take n)))
    ((s.setWalk g c { w with pois := w.pois || rs.any Req.bad }).unitWrites op va vec.pa vec.key (w.bitVector f) w.ps).endJob
      g c op (w.countIf f)

/-- Is a write to a range, by some channel, still on its way to a view of a scope (R402, R412)? -/
def State.chanWritePending (s : State) (sc : Scope) (dom pa n : Nat) : Bool :=
  s.z.writes.any (fun x => 8500 ≤ x.party && x.party < 8700 && x.pa < pa + n && pa < x.pa + x.size && !s.writeDone sc dom x.id)

/-- The reads of a step of a channel's work are put in the issue buffer; once they have returned the step is taken (R412). -/
def State.withReads (s : State) (g c : Nat) (j : QsJob) (o : MemOp) (rs : List Req) (f : List Req → State → State) : State :=
  if !j.reading && !rs.isEmpty then
    (s.modOp o.id (fun x => { x with reqs := x.reqs.filter (fun r => !s.reqDone x r) ++ rs })).modChannel g c (fun k =>
      { k with job := some { j with reading := true } })
  else if !s.readsDone o then s
  else f o.reads ((s.takeReads o).modChannel g c (fun k => { k with job := some { j with reading := false } }))

/-- The next part of a channel's work: `transpose` says which pass the event is a step of. A translation that no longer
holds is the extent-violation fault of the owner (R132). -/
def State.channelStep (s : State) (g c : Nat) (transpose : Bool) : State :=
  let k := s.channel g c
  match k.owner, k.walk, k.job with
  | some p, some w, some j =>
    match s.op j.op with
    | none => s
    | some o =>
      if !s.arcsMet o then s
      else match s.place p w.area w.areaBytes .write with
        | none => s.raiseAt p (excAt 0x04 0 w.area) o.pc
        | some area =>
          if w.tp && s.chanWritePending o.scope (domainOf o.party) area.pa w.areaBytes then s
          else match j.what with
            | .mask m va =>
              if transpose then s
              else match s.place p va w.ps (if m = 0 then .read else .write) with
                | none => s.raiseAt p (excAt 0x04 0 va) o.pc
                | some vec => s.withReads g c j o (w.maskReads m va area vec) (fun rs st => st.maskJob g c w o.id m va area vec rs)
            | _ =>
              if transpose != !w.tp then s
              else if transpose then
                match s.place p w.src w.colBytes .read with
                | none => s.raiseAt p (excAt 0x04 0 w.src) o.pc
                | some col => s.withReads g c j o (w.chunkReads area (some col) none) (fun rs st =>
                    let r := st.transposeChunk w o area rs
                    (r.2.setWalk g c r.1).tryEnd g c)
              else if !w.cfg.wgt then
                s.withReads g c j o (w.chunkReads area none none) (fun rs st => (st.planeChunk g c w o area rs).tryEnd g c)
              else match s.place p w.wgtAddr (4 * w.count) .read with
                | none => s.raiseAt p (excAt 0x04 0 w.wgtAddr) o.pc
                | some l => s.withReads g c j o (w.chunkReads area none (some l)) (fun rs st =>
                    (st.planeChunk g c w o area rs).tryEnd g c)
  | _, _, _ => s

/-- QS_TRANSPOSE_CHUNK (R390, R397): a chunk of the transpose pass. -/
def execQsTransposeChunk (gallery channel : Nat) (s : State) : Out := .next (s.channelStep gallery channel true)
/-- QS_PLANE_STEP (R391, R397, R400): a chunk of a plane step, or QSMSK's pass over its vector. -/
def execQsPlaneStep (gallery channel : Nat) (s : State) : Out := .next (s.channelStep gallery channel false)

/-! ### The instructions -/

/-- The issuing core's extent in the QS family: everything waits for the channel's operation (R395). -/
def State.qsUse (s : State) (xs : List RegField) (o : Operands) (bad : Bool) : Use :=
  { Use.none with xs := xs, c := o.c, t := o.t, hold := s.channelBusy s.cur, bad := badIf (bad || (s.ownChannel s.cur).isNone) }

/-- The operation that a QS instruction makes of its channel (R402). -/
def State.channelOp (s : State) (c : Nat) (o : Operands) : MemOp :=
  { s.newOp o true with
    party := chanParty (s.galleryOf s.cur) c
    own := some (s.clock s.cur)
    acquire := o.md.getLsbD 2
    release := o.md.getLsbD 3
    eager := true
    tile := none }

/-- A party that owns no channel begins to wait for one (R386). -/
def State.askChannel (s : State) (p : Nat) : State :=
  s.modGal (s.galleryOf p) (fun x => { x with asks := AMap.put x.asks p (s.cycle, (s.core p).pc) })

/-- A core waits for a channel no more. -/
def State.dropAsk (s : State) (p : Nat) : State :=
  if AMap.has (s.gal (s.galleryOf p)).asks p then s.modGal (s.galleryOf p) (fun x => { x with asks := AMap.erase x.asks p }) else s

/-- Does a core wait for a channel at its next instruction? -/
def State.asking (s : State) (p : Nat) : Bool :=
  (s.core p).run == .running && (AMap.find (s.gal (s.galleryOf p)).asks p).any (fun a => a.2 == (s.core p).pc)

/-- Issue QSCFG or QSRST (R386): one that nothing but the want of a channel, or a register, holds back waits for a channel from then
on. -/
def acquiring (u : Use) (s : State) (k : Regs → State → Out) : Out :=
  if s.legalOn u && u.bad.isNone && !u.clash && !s.queueMisuse u && (s.ownChannel s.cur).isNone && !s.asking s.cur then
    .next ((s.askChannel s.cur).tick 1)
  else issue u s k

/-- QSCFG or QSRST faults: a channel that it has waited for and not configured is free again (R386). DEDUCED: log entry 85. -/
def State.qsRaise (s : State) (e : Exc) : Out :=
  ((if (s.walkOf s.cur).isNone then s.freeChannel s.cur (s.galleryOf s.cur) else s)).raise e

/-- QSCFG (R388, R396). -/
def execQscfg (o : Operands) (s : State) : Out :=
  let hold : Bool := s.channelBusy s.cur || (s.ownChannel s.cur).isNone
  acquiring { Use.none with xs := [o.a, o.b], c := o.c, t := o.t, hold := hold } s (fun rd s1 =>
    match s1.localFault s1.cur (rd o.a) 64 64 true with
    | some e => s1.qsRaise e
    | none =>
      let blk := s1.localRead s1.cur (rd o.a).toNat 64
      let w := walkOfBlock blk (rd o.b) (if isActor s1.cur then s1.me.firing.colour else 0)
      if bitsAt blk 511 239 != 0 || w.cfg.bad then s1.qsRaise excOperand
      else match s1.walkFault w with
        | some e => s1.qsRaise e
        | none =>
          let g := s1.galleryOf s1.cur
          let s2 := s1.modChannel g ((s1.ownChannel s1.cur).getD 0) (fun k => { k with walk := some w, job := none, blocks := 0 })
          .next ((s2.doneNow o.t 0 0).retire o.form))

/-- Start a long operation (R395, R397): an actor, or a slot that asks for no done register, is held until it ends. -/
def State.startLong (s : State) (what : QsLong) (o : Operands) : Out :=
  let g := s.galleryOf s.cur
  match s.ownChannel s.cur with
  | none => s.raise excOperand
  | some c =>
    let id := s.z.nextId
    let s1 := s.addOp { s.channelOp c o with pending := true } s.cur
    let s2 := (s1.modChannel g c (fun k => { k with job := some { what := what, op := id } })).tryEnd g c
    let s3 := (s2.modCore s2.cur (fun k => k.markT o.t)).retire o.form
    .next (if o.t = 0 then s3.modCore s3.cur (fun k => { k with run := .held id }) else s3)

/-- A long operation's own checks: `T` on an actor, the form's unused bits (R395). -/
def State.longBad (s : State) (o : Operands) (unused : Nat) : Bool := (isActor s.cur && o.t != 0) || unused != 0

/-- QSSTEP (R397). -/
def execQsstep (o : Operands) (s : State) : Out :=
  issue (s.qsUse [o.a] o (s.longBad o o.imm.toNat)) s (fun rd s1 =>
    if 32 < (rd o.a).toNat || (s1.walkOf s1.cur).isNone then s1.raise excOperand else s1.startLong (.step (rd o.a).toNat) o)

/-- QSRUN (R397). -/
def execQsrun (o : Operands) (s : State) : Out :=
  issue (s.qsUse [] o (s.longBad o o.imm.toNat)) s (fun _ s1 =>
    if (s1.walkOf s1.cur).isNone then s1.raise excOperand else s1.startLong .run o)

/-- Has a plane step begun (R400)? -/
def Walk.begun (w : Walk) : Bool := w.pln != 0 || w.fin || (w.tp && w.pos != 0)

/-- QSMSK (R400). -/
def maskForm (o : Operands) (s : State) : Out :=
  let m := o.imm.toNat % 4
  issue (s.qsUse [o.a] o (s.longBad o (o.imm.toNat / 4) || m == 3)) s (fun rd s1 =>
    match s1.walkOf s1.cur with
    | none => s1.raise excOperand
    | some w =>
      let va := (rd o.a).toNat
      if m = 0 && w.begun then s1.raise excOperand
      else match s1.translate (s1.extentsOf s1.cur) va w.ps (if m = 0 then .read else .write) with
        | none => s1.raise (excAt 0x04 0 va)
        | some _ => s1.startLong (.mask m va) o)

/-- QSMSK, mode 0 (R400). -/
def execQsmskAnd (o : Operands) (s : State) : Out := maskForm o s
/-- QSMSK, mode 1 (R400). -/
def execQsmskCandidates (o : Operands) (s : State) : Out := maskForm o s
/-- QSMSK, mode 2 (R400). -/
def execQsmskBeyond (o : Operands) (s : State) : Out := maskForm o s

/-- The element encoding of an image (R398, field 6). -/
def inverseImage (c : WalkCfg) (img : Nat) : Nat :=
  let top := 2 ^ (c.width - 1)
  let t := typeOf c.ty
  if c.w32 || isFloatType t then (if img.testBit (c.width - 1) then img ^^^ top else ones c.width - img)
  else if isSignedInt t then img ^^^ top
  else img

/-- Field f of the state (R398). -/
def Walk.field (w : Walk) (f : Nat) : Word :=
  match f with
  | 0 => BitVec.ofNat 64 w.pfx
  | 1 => BitVec.ofNat 64 w.rem
  | 2 => BitVec.ofNat 64 w.cnt
  | 3 => if w.tp then BitVec.ofNat 64 w.cw else 0
  | 4 => if w.oor || w.cnt = 0 then BitVec.allOnes 64 else
    match findUp w.isCand w.count with
    | some i => BitVec.ofNat 64 i
    | none => BitVec.allOnes 64
  | 5 => BitVec.ofNat 64 (w.stat + w.pln * 256)
  | _ => BitVec.ofNat 64 (inverseImage w.cfg w.pfx)

/-- QSRD (R398). -/
def execQsrd (o : Operands) (s : State) : Out :=
  let f := o.imm.toNat % 16
  issue { s.qsUse [] { o with c := 0, t := 0 } (6 < f) with xd := some o.d } s (fun _ s1 =>
    match s1.walkOf s1.cur with
    | none => s1.raise excOperand
    | some w => if (f = 0 || f = 4 || f = 6) && w.pois then s1.raise (exc 0x05 0x00) else s1.finishX o (w.field f))

/-- A walk saved (R399, R401): its record, and the writes of its mask to the mask area, where the mask lies in SRAM. -/
def State.saveWalk (s : State) (p g c : Nat) (w : Walk) : Except Exc (Vec × List Req) :=
  if (s.channel g c).blocks = 0 then .ok (w.record, [])
  else match s.place p w.area w.areaBytes .write with
    | none => .error (excAt 0x04 0 w.area)
    | some area =>
      let off := w.width * w.ps
      let bits := w.bitVector w.isCand
      .ok ({ w with msk := true }.record, (upTo (w.ps / 8)).map (fun u =>
        { Req.make .write (w.area + off + 8 * u) (area.pa + off + 8 * u) 8 ((bits >>> (64 * u)) % 2 ^ 64) area.key with whole := true }))

/-- QSSAV (R399). -/
def execQssav (o : Operands) (s : State) : Out :=
  issue (s.qsUse [o.a] o (o.imm != 0)) s (fun rd s1 =>
    match s1.localFault s1.cur (rd o.a) 64 64 false, s1.ownChannel s1.cur, s1.walkOf s1.cur with
    | some e, _, _ => s1.raise e
    | none, some c, some w =>
      let g := s1.galleryOf s1.cur
      match s1.saveWalk s1.cur g c w with
      | .error e => s1.raise e
      | .ok (r, ws) =>
        let s2 := s1.addOp { s1.channelOp c o with status := w.status, result := 64, reqs := ws } s1.cur
        let s3 := (s2.coreWrite s2.cur (rd o.a).toNat 64 r.toNat).noteStore o.t
        .next (((s3.modChannel g c (fun _ => Channel.free)).modCore s3.cur (fun k => k.markT o.t)).retire o.form)
    | none, _, _ => s1.raise excOperand)

/-- Put a restored walk in a channel, with its mask reloaded where the area holds one (R399); `p` is the owner, and the walk's ranges
have been checked. -/
def State.restoreWalk (s : State) (p g c : Nat) (w : Walk) : State :=
  match (if w.msk then s.place p w.area w.areaBytes .write else none) with
  | none => s.modChannel g c (fun k => { k with walk := some w, job := none, blocks := 0 })
  | some area =>
    let off := w.width * w.ps
    let w1 := { w.keep (fun i => (s.placed g area (off + i / 8) 1).testBit (i % 8)) with
      pois := w.pois || s.placeBad g area off w.ps }
    let s1 := (s.mergeClock p ((s.view g).clockOf (area.pa + off) w.ps)).modChannel g c (fun k =>
      { k with walk := some w1, job := none, blocks := 0 })
    if w.fin then s1 else s1.takeBlocks g c w1

/-- The mask's spill is still on its way to some view (R402). -/
def State.spillPending (s : State) (p : Nat) (w : Walk) : Bool :=
  w.msk && (match s.place p w.area w.areaBytes .write with
    | none => false
    | some area =>
      let lo := area.pa + w.width * w.ps
      let hi := area.pa + w.areaBytes
      s.z.writes.any (fun x => 8500 ≤ x.party && x.party < 8700 && x.pa < hi && lo < x.pa + x.size) ||
        s.z.ops.any (fun o => 8500 ≤ o.party && o.party < 8700 && o.reqs.any (fun r =>
          r.writes && r.state == .buffered && r.pa < hi && lo < r.pa + r.size)))

/-- The record that a QSRST would read now. -/
def State.peekWalk (s : State) (o : Operands) : Walk :=
  walkOfRecord (BitVec.ofNat 512 (s.localRead s.cur ((s.peekField o.a).toNat % 2 ^ 21) 64))

/-- QSRST (R399, R402): it waits for a channel, for the spill of its mask, and, where it releases, for the party's
earlier requests. -/
def execQsrst (o : Operands) (s : State) : Out :=
  let before : Bool := o.md.getLsbD 3 && s.z.ops.any (fun x => x.party == s.cur)
  let hold := s.channelBusy s.cur || (s.ownChannel s.cur).isNone || s.spillPending s.cur (s.peekWalk o) || before
  acquiring { Use.none with xs := [o.a], c := o.c, t := o.t, hold := hold, bad := badIf (o.imm != 0) } s (fun rd s1 =>
    match s1.localFault s1.cur (rd o.a) 64 64 true with
    | some e => s1.qsRaise e
    | none =>
      let r : Vec := BitVec.ofNat 512 (s1.localRead s1.cur (rd o.a).toNat 64)
      let w := walkOfRecord r
      if !w.valid || r.toNat % 2 ^ 17 != 0 || w.cfg.bad || (isActor s1.cur && w.col != s1.me.firing.colour) then s1.qsRaise excOperand
      else match s1.walkFault w with
        | some e => s1.qsRaise e
        | none =>
          let s2 := s1.restoreWalk s1.cur (s1.galleryOf s1.cur) ((s1.ownChannel s1.cur).getD 0) w
          let st := match s2.walkOf s2.cur with
            | some x => x.status
            | none => 0
          .next ((s2.doneNow o.t st 64).retire o.form))

end Sys2Proof.Machine
end

