-- ==== Sys2Proof/Machine/Command.lean ====
section
/-! DEFINITION. How a command runs (R325 to R328): the fabric selector, a command that completes at its issue, one that
waits, and the completion of a waiting one. -/

namespace Sys2Proof.Machine

/-! ### The fabric selector (R325) -/

/-- `FSEL.REG`. -/
def selReg (w : Word) : Nat := bitsAt w.toNat 5 0
/-- `FSEL.CTX`. -/
def selCtx (w : Word) : Nat := bitsAt w.toNat 7 6
/-- `FSEL.COL`. -/
def selCol (w : Word) : Nat := bitsAt w.toNat 17 8
/-- `FSEL.SEC`. -/
def selSec (w : Word) : Nat := bitsAt w.toNat 21 18
/-- `FSEL.IDX`. -/
def selIdx (w : Word) : Nat := bitsAt w.toNat 29 22
/-- `FSEL.TILE`. -/
def selTile (w : Word) : Nat := bitsAt w.toNat 39 30
/-- `FSEL.ANY`. -/
def selAny (w : Word) : Bool := w.getLsbD 40
/-- `FSEL.SLT`. -/
def selSlt (w : Word) : Bool := w.getLsbD 41

/-! ### Completion (R326) -/

/-- A command completes at its issue: its done register is written, or a synchronous one traps on a status that is not
zero, to return to the next instruction. -/
def State.answer (s : State) (o : Operands) (status result : Nat) : Out :=
  if o.t != 0 then .next ((s.doneNow o.t status result).retire o.form)
  else if status = 0 then .next (s.retire o.form)
  else .next ((s.trapTo s.cur 0x13 (completion status result).toNat (s.me.nextPc o.form)).tick 1)

/-- The command that an instruction of the issuing slot makes, under a number. -/
def State.newCmd (s : State) (id : Nat) (o : Operands) (sel : Word) (kind : CmdKind) : Cmd :=
  { id := id, core := s.cur, gal := s.galleryOf s.cur, pc := s.me.pc, next := s.me.nextPc o.form, done := o.t, region := selReg sel, ctx := selCtx sel,
    colour := selCol sel, gen := (s.region (selReg sel)).gen, kind := kind }

/-- A command waits: its done register is pending, or the slot is held (R326). -/
def State.waitCmd (s : State) (c : Cmd) (o : Operands) : State :=
  let s1 := ({ s with cmds := s.cmds ++ [c] }.modCore s.cur (fun k => k.markT o.t)).retire o.form
  if o.t = 0 then s1.modCore s1.cur (fun k => { k with run := .held c.id }) else s1

/-- A command waits under the next number. -/
def State.holdCmd (s : State) (o : Operands) (sel : Word) (kind : CmdKind) : State :=
  let c := s.newCmd s.z.nextId o sel kind
  { s with z := { s.z with nextId := s.z.nextId + 1 } }.waitCmd c o

/-- Find a waiting command. -/
def State.cmd (s : State) (id : Nat) : Option Cmd := s.cmds.find? (fun c => c.id == id)
/-- Change a waiting command's work. -/
def State.modCmd (s : State) (id : Nat) (k : CmdKind) : State :=
  { s with cmds := s.cmds.map (fun c => if c.id == id then { c with kind := k } else c) }

/-- A waiting command completes (R326): the done register is written, or the held slot goes on, into the trap 0x13 where
the status is not zero. -/
def State.finishCmd (s : State) (c : Cmd) (status result : Nat) : State :=
  let s1 := { s with cmds := s.cmds.filter (fun x => x.id != c.id) }
  if c.done != 0 then s1.complete c.core c.done status result
  else if (s1.core c.core).run = .held c.id then
    let s2 := s1.modCore c.core (fun k => k.release c.id)
    if status = 0 then s2 else s2.trapTo c.core 0x13 (completion status result).toNat c.next
  else s1

/-- Has every earlier instruction of the slot with a completion completed: requests, copies, units' operations, commands
(R342, R346)? DEDUCED: log entry 29. -/
def State.slotClear (s : State) (p : Nat) : Bool :=
  !s.z.ops.any (fun o => o.core == some p) && !s.cmds.any (fun c => c.core == p) && (s.core p).pendX == 0

end Sys2Proof.Machine
end

