-- ==== Sys2Proof/Machine/Flit.lean ====
section
/-! DEFINITION. How tokens cross the links (R242 to R246): flits, the route word and the CRC, predicate flits, the cycles of a
nearest-neighbour link, and what the receiver makes of them. -/

namespace Sys2Proof.Machine

/-- A flit of the routed network (R242). -/
abbrev Flit := BitVec 160
/-- A flit of the predicate network (R244). -/
abbrev PredFlit := BitVec 96
/-- The route word that goes beside a flit (R243). -/
abbrev RouteWord := BitVec 32

/-! ### The CRC and the route word (R243) -/

/-- CRC-16 with polynomial 0x1021 takes one more bit. -/
def crcStep (c : BitVec 16) (b : Bool) : BitVec 16 := if c.msb != b then (c <<< (1 : Nat)) ^^^ 0x1021 else c <<< (1 : Nat)

/-- The CRC-16 of some bits, the highest first, from 0xFFFF. -/
def crc16 {n : Nat} (x : BitVec n) : BitVec 16 := foldUp (fun i c => crcStep c (x.getMsbD i)) n 0xFFFF

/-- The route word of an edge: the region's generation and number, and the edge's logical tile, slot and port. -/
def routeWord (gen region : Nat) (w : Word) : RouteWord :=
  BitVec.ofNat 8 gen ++ BitVec.ofNat 6 region ++ BitVec.ofNat 10 (edgeDstT w) ++ BitVec.ofNat 5 (edgeDstS w) ++
    BitVec.ofNat 2 (edgeDstP w) ++ (0 : BitVec 1)

/-! ### Flits of the routed network (R242) -/

/-- A flit with its CRC, which covers the route word and the flit's other bits. -/
def sealFlit (route : RouteWord) (body : BitVec 144) : Flit := crc16 (route ++ body) ++ body

/-- Does a flit's CRC agree? -/
def flitOk (route : RouteWord) (f : Flit) : Bool := f.extractLsb' 144 16 == crc16 (route ++ f.extractLsb' 0 144)

/-- `FLIT.TYPE`: 0 narrow, 1 wide header, 2 wide payload. -/
def flitType (f : Flit) : BitVec 2 := f.extractLsb' 142 2
/-- `FLIT.SEQ`. -/
def flitSeq (f : Flit) : BitVec 6 := f.extractLsb' 136 6
/-- `FLIT.CTL`. -/
def flitCtl (f : Flit) : Byte := f.extractLsb' 128 8
/-- `FLIT.TAG`. -/
def flitTag (f : Flit) : Word := f.extractLsb' 64 64
/-- `FLIT.PAY`. -/
def flitPay (f : Flit) : Word := f.extractLsb' 0 64
/-- `FLIT.BEAT`. -/
def flitBeat (f : Flit) : BitVec 2 := f.extractLsb' 128 2

/-- The first flit of a token: a narrow token, or a wide one's header. -/
def headFlit (route : RouteWord) (seq : BitVec 6) (t : Token) : Flit :=
  sealFlit route ((if t.wide then 1 else 0 : BitVec 2) ++ seq ++ t.ctl ++ t.tag ++ (if t.wide then 0 else t.word))

/-- Payload flit `beat` of a wide token. -/
def beatFlit (route : RouteWord) (seq : BitVec 6) (payload : Vec) (beat : BitVec 2) : Flit :=
  sealFlit route ((2 : BitVec 2) ++ seq ++ (0 : BitVec 6) ++ beat ++ payload.extractLsb' (128 * beat.toNat) 128)

/-- The flits of a token, from a sequence number on. -/
def tokenFlits (route : RouteWord) (seq : BitVec 6) (t : Token) : List Flit :=
  headFlit route seq t :: (if t.wide then
    [beatFlit route (seq + 1) t.payload 0, beatFlit route (seq + 2) t.payload 1, beatFlit route (seq + 3) t.payload 2,
     beatFlit route (seq + 4) t.payload 3] else [])

/-- Is it payload flit `beat` with a sequence number? -/
def isBeat (route : RouteWord) (seq : BitVec 6) (beat : BitVec 2) (f : Flit) : Bool :=
  flitOk route f && flitType f == 2 && flitSeq f == seq && flitBeat f == beat

/-- The token that a receiver takes from flits: none where a CRC or a sequence number is wrong. -/
def tokenOfFlits (route : RouteWord) (seq : BitVec 6) : List Flit → Option Token
  | [f] =>
    if flitOk route f && flitType f == 0 && flitSeq f == seq then
      some { tag := flitTag f, ctl := flitCtl f, wide := false, payload := (flitPay f).setWidth 512, clock := [] }
    else none
  | [f, a, b, c, d] =>
    if flitOk route f && flitType f == 1 && flitSeq f == seq && isBeat route (seq + 1) 0 a && isBeat route (seq + 2) 1 b &&
        isBeat route (seq + 3) 2 c && isBeat route (seq + 4) 3 d then
      some { tag := flitTag f, ctl := flitCtl f, wide := true, clock := []
             payload := d.extractLsb' 0 128 ++ c.extractLsb' 0 128 ++ b.extractLsb' 0 128 ++ a.extractLsb' 0 128 }
    else none
  | _ => none

/-! ### Predicate flits (R244) -/

/-- The flit of a predicate token. -/
def predFlit (route : RouteWord) (seq : BitVec 6) (t : Token) : PredFlit :=
  let body : BitVec 80 := seq ++ (0 : BitVec 1) ++ BitVec.ofBool (t.payload.getLsbD 0) ++ t.ctl ++ t.tag
  crc16 (route ++ body) ++ body

/-- The predicate token that a receiver takes from a flit. -/
def tokenOfPred (route : RouteWord) (seq : BitVec 6) (f : PredFlit) : Option Token :=
  if f.extractLsb' 80 16 == crc16 (route ++ f.extractLsb' 0 80) && f.extractLsb' 74 6 == seq then
    some { tag := f.extractLsb' 0 64, ctl := f.extractLsb' 64 8, wide := false, payload := (f.extractLsb' 72 1).setWidth 512, clock := [] }
  else none

/-! ### Nearest-neighbour links (R245) -/

/-- One cycle of a nearest-neighbour link: 64 bytes, and the route word with a token's first cycle. -/
structure LinkCycle where
  data : Vec
  route : Option RouteWord
  deriving DecidableEq, Repr

/-- The consecutive cycles in which a token crosses: tag, control byte and payload bits 439:0, then bits 511:440 of a wide one; a
predicate token crosses as its flit. The places inside a cycle are the model's. DESIGN CHOICE: log entry 78. -/
def linkCycles (pred : Bool) (route : RouteWord) (seq : BitVec 6) (t : Token) : List LinkCycle :=
  if pred then [{ data := (predFlit route seq t).setWidth 512, route := some route }]
  else { data := t.tag ++ t.ctl ++ t.payload.extractLsb' 0 440, route := some route } ::
    (if t.wide then [{ data := (t.payload.extractLsb' 440 72).setWidth 512, route := none }] else [])

/-- The token that a receiver takes from a link's cycles. -/
def tokenOfCycles (pred : Bool) (route : RouteWord) (seq : BitVec 6) : List LinkCycle → Option Token
  | [c] =>
    if c.route != some route then none
    else if pred then tokenOfPred route seq (c.data.setWidth 96)
    else some { tag := c.data.extractLsb' 448 64, ctl := c.data.extractLsb' 440 8, wide := false, clock := []
                payload := (c.data.extractLsb' 0 64).setWidth 512 }
  | [c, d] =>
    if c.route != some route || d.route != none then none
    else some { tag := c.data.extractLsb' 448 64, ctl := c.data.extractLsb' 440 8, wide := true, clock := []
                payload := d.data.extractLsb' 0 72 ++ c.data.extractLsb' 0 440 }
  | _ => none

/-- How many cycles a token takes at least: two for a wide one over a nearest-neighbour link (R245). -/
def crossing (w : Word) (t : Token) : Nat := if edgeNN w && t.wide then 2 else 1

/-! ### A token over its edge -/

/-- What the receiver of an edge's link takes of a token; the clock travels with it (R44, Token row). -/
def Token.carried (t : Token) (w : Word) (route : RouteWord) (seq : BitVec 6) : Option Token :=
  (if edgeNN w then tokenOfCycles (edgePred w) route seq (linkCycles (edgePred w) route seq t)
   else if edgePred w then tokenOfPred route seq (predFlit route seq t)
   else tokenOfFlits route seq (tokenFlits route seq t)).map (fun x => { x with clock := t.clock, launch := t.launch })

/-! ### Resends (R246) -/

/-- The link of an edge, as the retry counters and CRC_MISMATCH name it; numbers below 64 are the ports'. One link carries one edge.
DESIGN CHOICE: log entry 78. -/
def edgeLink (region src e : Nat) : Nat := 64 + (region % 64 * 2 ^ 18 + src % 1024 * 2 ^ 8 + e % 256)

/-- Does a token on its way have a flit with a sequence number? -/
def Flight.hasFlit (f : Flight) (num : Nat) : Bool := (num + 64 - f.seq) % 64 < f.tok.flits

/-- The receiver of a link finds a bad flit: it discards the token that the flit belongs to, and every later one from that link. -/
def discardFrom (link num : Nat) : List Flight → Bool → List Flight
  | [], _ => []
  | f :: rest, found =>
    if edgeLink f.region f.src f.edge = link && !f.discarded && (found || f.hasFlit num) then { f with discarded := true } :: discardFrom link num rest true
    else f :: discardFrom link num rest found

/-- Does a token go to the tile that sends it? It crosses no link (R352). -/
def State.stays (s : State) (f : Flight) : Bool :=
  edgeDstT ((s.tctx ((s.region f.region).phys f.src) (s.region f.region).ctx).edge f.edge) == f.src

/-- Is a flit of the link on its way that its receiver has not discarded? -/
def State.hasFlit (s : State) (link num : Nat) : Bool :=
  s.flights.any (fun f => edgeLink f.region f.src f.edge = link && !f.discarded && f.hasFlit num && !s.stays f)

/-- A link's receiver has taken a good flit: its count of resends of one flit is over. -/
def State.heard (s : State) (link : Nat) : State := { s with host := { s.host with resends := AMap.erase s.host.resends link } }

/-- A token has crossed its link: where the flit that was being resent is among its flits, it has been received. -/
def State.heardFlit (s : State) (f : Flight) : State :=
  match AMap.find s.host.resends (edgeLink f.region f.src f.edge) with
  | none => s
  | some (num, _) => if f.hasFlit num then s.heard (edgeLink f.region f.src f.edge) else s

end Sys2Proof.Machine
end

