-- ==== Sys2Proof/Machine/Image.lean ====
section
/-! DEFINITION. Region images: the header, the tile images, the bind table, the matrix records and the certificate, as
CFGLD reads and checks them (R270 to R280, R304 to R306, R376, R435, R443 to R447, R455). -/

namespace Sys2Proof.Machine

/-- The bytes of an image, read as a little-endian number: offset, then how many (R4). -/
abbrev Img := Nat → Nat → Nat

/-! ### The region header (R443) -/

/-- The header's fields. -/
structure RgnHeader where
  ver : Nat
  reg : Nat
  ctx : Nat
  w : Nat
  h : Nat
  nf : Nat
  fuse : Bool
  tagw : List Nat
  ncol : Nat
  nbind : Nat
  nlut : Nat
  tiles : Nat
  mxs : Nat
  lut : Nat
  bind : Nat
  col : Nat
  ext : Nat
  dig : Nat
  cert : Nat
  lva : Nat
  lsize : Nat
  ndig : Nat
  size : Nat
  deriving DecidableEq, Repr

/-- Tag widths as eight bytes, with the undeclared fields left out. -/
def tagWidths (img : Img) (off : Nat) : List Nat := ((upTo 8).map (fun k => img (off + k) 1)).takeWhile (fun w => w != 0)

/-- Do eight width bytes declare `nf` fields as R15 allows? -/
def tagwOk (img : Img) (off nf : Nat) : Bool :=
  let all := (upTo 8).map (fun k => img (off + k) 1)
  1 ≤ nf && nf ≤ 8 && (tagWidths img off).length == nf && all.sum ≤ 52 && (all.drop nf).all (fun w => w == 0)

/-- Read the header. -/
def readHeader (img : Img) : RgnHeader :=
  { ver := img 0 2, reg := img 2 1, ctx := img 3 1, w := img 4 1, h := img 5 1, nf := img 6 1, fuse := (img 7 1).testBit 0,
    tagw := tagWidths img 8, ncol := img 20 4, nbind := img 24 4, nlut := img 28 4, tiles := img 36 4, mxs := img 40 4,
    lut := img 44 4, bind := img 48 4, col := img 52 4, ext := img 56 4, dig := img 60 4, cert := img 64 4, lva := img 68 8,
    lsize := img 76 4, ndig := img 80 4, size := img 84 4 }

/-- NT. -/
def RgnHeader.nt (h : RgnHeader) : Nat := h.w * h.h

/-- A part lies in the image, at a multiple of 64; an absent part is at 0. -/
def partOk (h : RgnHeader) (off size : Nat) : Bool := off = 0 || (off % 64 = 0 && off + size ≤ h.size)

/-- `CERT.NR`. -/
def certRanges (img : Img) (h : RgnHeader) : Nat := img (h.cert + 6) 2

/-- The bytes of the certificate (R304). -/
def certBytes (img : Img) (h : RgnHeader) : Nat := 64 + 16 * certRanges img h + 528 * h.nt

/-- The header's own checks, but for its region and context (R443, R453 check 8, R455). -/
def headerOk (img : Img) (h : RgnHeader) : Bool :=
  h.ver = 1 && 1 ≤ h.w && h.w ≤ 32 && 1 ≤ h.h && h.h ≤ 32 && tagwOk img 8 h.nf && 1 ≤ h.ncol && h.ncol ≤ 1024 && h.nbind ≤ 256 &&
    h.nlut ≤ 4096 && h.ndig ≤ 16 && h.tiles != 0 && h.col != 0 && partOk h h.tiles (4096 * h.nt) && partOk h h.mxs (32 * h.nt) &&
    partOk h h.lut (2048 * h.nlut) && partOk h h.bind (16 * h.nbind) && partOk h h.col (16 * h.ncol) && partOk h h.ext 512 &&
    partOk h h.dig (64 * h.ndig) && partOk h h.cert 64 &&
    partOk h h.cert (certBytes img h) && 128 ≤ h.size

/-! ### Tile images (R277 to R279) -/

/-- A tile image's header fields (R278). -/
structure TileHeader where
  ver : Nat
  reg : Nat
  ctx : Nat
  ltile : Nat
  w : Nat
  h : Nat
  slots : Nat
  binds : Nat
  luts : Nat
  nf : Nat
  fuse : Bool
  row0 : Bool
  codeb : Nat
  codesz : Nat
  dsum : Nat
  deriving DecidableEq, Repr

/-- The place of a tile's image. -/
def tileOff (h : RgnHeader) (t : Nat) : Nat := h.tiles + 4096 * t

/-- Read a tile's header. -/
def readTile (img : Img) (h : RgnHeader) (t : Nat) : TileHeader :=
  let o := tileOff h t
  { ver := img o 2, reg := img (o + 2) 1, ctx := img (o + 3) 1, ltile := img (o + 4) 2 % 1024, w := img (o + 6) 1,
    h := img (o + 7) 1, slots := img (o + 8) 4, binds := img (o + 12) 1, luts := img (o + 13) 1, nf := img (o + 14) 1,
    fuse := (img (o + 15) 1).testBit 0, row0 := (img (o + 15) 1).testBit 1, codeb := img (o + 24) 8, codesz := img (o + 32) 4,
    dsum := img (o + 36) 4 }

/-- Word A of a slot (R277). -/
def wordA (img : Img) (h : RgnHeader) (t n : Nat) : Word := BitVec.ofNat 64 (img (tileOff h t + 0x40 + 16 * n) 8)
/-- Word B of a slot. -/
def wordB (img : Img) (h : RgnHeader) (t n : Nat) : Word := BitVec.ofNat 64 (img (tileOff h t + 0x48 + 16 * n) 8)
/-- Edge word e of a tile. -/
def edgeWord (img : Img) (h : RgnHeader) (t e : Nat) : Word := BitVec.ofNat 64 (img (tileOff h t + 0x1C0 + 8 * e) 8)
/-- Binding k of a tile (R279). -/
def readBinding (img : Img) (h : RgnHeader) (t k : Nat) : Binding :=
  let o := tileOff h t + 0x9C0 + 24 * k
  { entry := img o 8, qRates := (upTo 8).map (fun i => img (o + 8 + i) 1), oRates := (upTo 8).map (fun i => img (o + 16 + i) 1) }
/-- LUT reference k of a tile (R279). -/
def lutRef (img : Img) (h : RgnHeader) (t k : Nat) : Nat := img (tileOff h t + 0xA80 + 8 * k) 4

/-! ### Word A (R271) -/

/-- `WORDA.KIND`. -/
def waKind (w : Word) : Nat := bitsAt w.toNat 3 0
/-- `WORDA.FUNC`. -/
def waFunc (w : Word) : Nat := bitsAt w.toNat 11 4
/-- `WORDA.ETYPE`. -/
def waType (w : Word) : Nat := bitsAt w.toNat 16 12
/-- `WORDA.NIN`. -/
def waNin (w : Word) : Nat := bitsAt w.toNat 19 17
/-- `WORDA.PIN`. -/
def waPin (w : Word) : Bool := w.getLsbD 20
/-- `WORDA.MACT`. -/
def waMact (w : Word) : Nat := bitsAt w.toNat 22 21
/-- `WORDA.ORD`. -/
def waOrd (w : Word) : Bool := w.getLsbD 23
/-- `WORDA.OUTE0` or `WORDA.OUTE1`. -/
def waOut (w : Word) (n : Nat) : Nat := if n = 0 then bitsAt w.toNat 31 24 else bitsAt w.toNat 39 32
/-- The input buffer of a port (R272): data ports 0 to 2, the predicate port 3. -/
def waIn (w : Word) (p : Nat) : Nat :=
  match p with
  | 0 => bitsAt w.toNat 47 40
  | 1 => bitsAt w.toNat 55 48
  | _ => bitsAt w.toNat 63 56
/-- Does the slot use the port? -/
def waUses (w : Word) (p : Nat) : Bool := p < waNin w || (p = 3 && waPin w)
/-- The ports that the slot uses. -/
def waPorts (w : Word) : List Nat := (upTo 4).filter (waUses w)

/-- The arity of a MAP function (R283). -/
def mapArity (f : Nat) : Option Nat :=
  match f with
  | 0 | 1 | 2 | 5 | 6 | 9 | 10 | 11 | 12 | 13 | 14 | 16 | 17 | 18 | 24 | 25 | 26 | 27 | 34 => some 2
  | 3 | 4 | 19 | 20 | 35 => some 3
  | 7 | 8 | 32 | 33 | 36 => some 1
  | _ => none

/-- The types that a MAP function accepts (R283). -/
def mapTypes (f t : Nat) : Bool :=
  if f ≤ 14 then valuTypes f t
  else if f ≤ 20 then 8 ≤ t && t ≤ 15
  else if f ≤ 27 then t ≤ 2 || (8 ≤ t && t ≤ 15)
  else if f = 32 then t ≤ 15
  else if f ≤ 34 then t ≤ 2
  else true

/-- Are bits `hi` to `lo` of a parameter word zero? -/
def zeroBits (b : Word) (hi lo : Nat) : Bool := bitsAt b.toNat hi lo = 0

/-- The checks of a slot's words against its kind (R274, R280, R283 to R302). `luts` is `CTXH.LUTS`. -/
def kindOk (a b : Word) (luts nf : Nat) : Bool :=
  let f := waFunc a
  let t := waType a
  let n := waNin a
  let pin := waPin a
  match waKind a with
  | 0 =>
    (match mapArity f with
      | none => false
      | some ar =>
        let (kb, kc) := (b.getLsbD 8, b.getLsbD 9)
        mapTypes f t && !pin && zeroBits b 31 10 && bitsAt b.toNat 2 0 ≤ 4 && (!kb || 2 ≤ ar) && (!kc || ar = 3) &&
          n + kb.toNat + kc.toNat = ar && (if f = 32 then bitsAt b.toNat 7 3 ≤ 15 else zeroBits b 7 3))
  | 1 =>
    f ≤ 3 && n = 1 && !pin && zeroBits b 63 23 && bitsAt b.toNat 21 19 ≤ 4 && bitsAt b.toNat 18 16 < nf &&
      (t ≤ 2 || (8 ≤ t && t ≤ 16)) && (f != 1 || (8 ≤ t && t ≤ 15)) && (t != 16 || f = 0)
  | 2 => f ≤ 2 && n = 1 && !pin && t = 16 && b = 0
  | 3 =>
    f = 0 && n = 1 && !pin && t ≤ 2 && zeroBits b 63 46 && bitsAt b.toNat 45 43 ≤ 4 && luts.testBit (bitsAt b.toNat 42 40) &&
      bitsAt b.toNat 30 23 != 255
  | 4 => f ≤ 2 && n = 1 && pin && b = 0 && !(f = 1 && waOrd a)
  | 5 => b = 0 && ((f = 0 && n = 2 && pin) || (f = 1 && (n = 2 || n = 3) && !pin))
  | 6 => f ≤ 1 && n = 2 && !pin && b = 0 && !waOrd a && (t = 0 || (3 ≤ t && t ≤ 15))
  | 7 => f ≤ 1 && n = 1 && !pin && !zeroBits b 15 0 && !zeroBits b 31 16
  | 8 => f ≤ 2 && n = 1 && !pin && zeroBits b 63 4
  | 9 => f ≤ 3 && n = 1 && !pin && zeroBits b 63 36 && (f % 2 = 0 || (t != 5 && t != 6 && t != 16))
  | 10 =>
    f ≤ 12 && n = (if f = 11 then 3 else 2) && !pin && zeroBits b 63 56 && zeroBits b 39 37 && !waOrd a &&
      lineFormat (bitsAt b.toNat 47 40) != .reserved
  | 11 => f ≤ 1 && n = f + 1 && !pin && b = 0 && !waOrd a
  | _ => false

/-- The checks of a slot's words on its own tile (R274): its kind's, and its output edges in use. -/
def slotOk (img : Img) (h : RgnHeader) (t n : Nat) (th : TileHeader) : Bool :=
  let a := wordA img h t n
  kindOk a (wordB img h t n) th.luts h.nf && waType a ≤ 16 && !(waPin a && waNin a = 3) && waNin a ≤ 3 && waMact a != 3 &&
    [0, 1].all (fun k => waOut a k = 0xFF || edgeDepth (edgeWord img h t (waOut a k)) != 0) &&
    (waPorts a).all (fun p => waIn a p != 0xFF)

/-! ### Widths (R280) and edges (R272, R276) -/

/-- The edges in use of the region, as tile and index. -/
def usedEdges (img : Img) (h : RgnHeader) : List (Nat × Nat) :=
  (upTo h.nt).flatMap (fun t => ((upTo 256).filter (fun e => edgeDepth (edgeWord img h t e) != 0)).map (fun e => (t, e)))

/-- The words of the edges into a destination. -/
def edgesInto (img : Img) (h : RgnHeader) (t s p : Nat) : List Word :=
  ((usedEdges img h).map (fun x => edgeWord img h x.1 x.2)).filter (fun w => edgeDstT w == t && edgeDstS w == s && edgeDstP w == p)

/-- Is slot n configured? -/
def hasSlot (th : TileHeader) (n : Nat) : Bool := n < 24 && th.slots.testBit n

/-- The width that a slot's data port must have: some true for wide, some false for narrow, none for either (R280). -/
def portWidth (a b : Word) (p : Nat) : Option Bool :=
  match waKind a with
  | 1 => if waType a = 16 then some true else none
  | 2 => some true
  | 6 | 7 => some false
  | 9 => some false
  | 10 =>
    if p = 0 || waFunc a != 0 then some false
    else if b.getLsbD 36 then some true
    else none
  | _ => none

/-- Do the widths of a slot's inputs and outputs agree with its kind (R273, R276, R280, R259)? The check is one of the edges
(R276): a port that no edge feeds asks nothing. `into p` are the widths of the edges into port p, and `win` is the common
width of the slot's data inputs where an edge feeds one. -/
def widthsOk (img : Img) (h : RgnHeader) (t n : Nat) : Bool :=
  let a := wordA img h t n
  let b := wordB img h t n
  let into := fun p => (edgesInto img h t n p).map edgeWide
  let ports := (waPorts a).filter (fun p => p != 3)
  let fed := ports.flatMap into
  let outIs := fun (k : Nat) (need : Option Bool) =>
    waOut a k = 0xFF || need.all (fun w => edgeWide (edgeWord img h t (waOut a k)) = w)
  let out := fun (k : Nat) (need : Bool) => outIs k (some need)
  let first := (into 0).head?
  let win := fed.head?
  ports.all (fun p => match portWidth a b p with
    | none => true
    | some w => (into p).all (fun x => x = w)) &&
    (match waKind a with
      | 2 => out 0 false && out 1 false
      | 6 | 7 => out 0 false && out 1 false
      | 9 =>
        waOrd a && out 1 false || !waOrd a && (waOut a 0 = 0xFF || waOut a 1 = 0xFF ||
          edgeWide (edgeWord img h t (waOut a 0)) = edgeWide (edgeWord img h t (waOut a 1)))
      | 10 => out 0 false && out 1 false
      | 11 => if waFunc a = 0 then outIs 0 first && outIs 1 first else outIs 0 first && out 1 true
      | _ => fed.all (fun x => some x = win) && outIs 0 win && (if waOrd a then out 1 false else outIs 1 win))

/-- Neighbours in the rectangle (R276, R443). -/
def adjacent (w a b : Nat) : Bool :=
  (a / w = b / w && (a + 1 = b || b + 1 = a)) || (a % w = b % w && (a + w = b || b + w = a))

/-- A destination queue's binding rates it, or it belongs to the tile's node (R276, R376). -/
def queueUsed (img : Img) (h : RgnHeader) (t q : Nat) : Bool :=
  let th := readTile img h t
  (upTo 8).any (fun k => th.binds.testBit k && (readBinding img h t k).qRates.getD q 0 != 0) ||
    (h.mxs != 0 && (img (h.mxs + 32 * t + 20) 1).testBit 0 && img (h.mxs + 32 * t + 16) 1 % 8 = q)

/-- The checks of an edge in use (R276). -/
def edgeOk (img : Img) (h : RgnHeader) (t e : Nat) : Bool :=
  let w := edgeWord img h t e
  let d := edgeDstT w
  let s := edgeDstS w
  let p := edgeDstP w
  d < h.nt && !(edgePred w && edgeWide w) && (!edgeWide w || 5 ≤ edgeDepth w) && (!edgeNN w || adjacent h.w t d) &&
    (if s < 24 then
      hasSlot (readTile img h d) s && waUses (wordA img h d s) p && edgePred w = (p == 3)
    else p = 0 && queueUsed img h d (s - 24))

/-! ### Bindings, LUTs, matrix records, the bind table -/

/-- The output edges of a tile's operator slots. -/
def slotOutputs (img : Img) (h : RgnHeader) (t : Nat) : List Nat :=
  ((upTo 24).filter (hasSlot (readTile img h t))).flatMap (fun n => [waOut (wordA img h t n) 0, waOut (wordA img h t n) 1])

/-- The checks of a tile's bindings (R147, R279, R435). -/
def bindsOk (img : Img) (h : RgnHeader) (t : Nat) (th : TileHeader) : Bool :=
  ((upTo 8).filter (fun k => th.binds.testBit k)).all (fun k =>
    let b := readBinding img h t k
    b.entry % 4 = 0 && b.entry < th.codesz && b.qRates.any (fun r => r != 0) &&
      (upTo 8).all (fun n => b.oRates.getD n 0 = 0 ||
        (edgeDepth (edgeWord img h t n) != 0 && !(slotOutputs img h t).contains n)))

/-- The checks of a tile's LUT references (R279). -/
def lutsOk (img : Img) (h : RgnHeader) (t : Nat) (th : TileHeader) : Bool :=
  ((upTo 8).filter (fun k => th.luts.testBit k)).all (fun k => h.lut != 0 && lutRef img h t k + 2048 ≤ 2048 * h.nlut)

/-- A tile's matrix section record (R376), where it is valid. -/
def readSection (img : Img) (h : RgnHeader) (t : Nat) : Option SectionRec :=
  let o := h.mxs + 32 * t
  if h.mxs = 0 || !(img (o + 20) 1).testBit 0 then none
  else some { sec := img (o + 19) 1, fld := img (o + 18) 1 % 8, outEdge := img (o + 17) 1, inq := img (o + 16) 1 % 8,
              stride := BitVec.ofNat 64 (img (o + 8) 8), word := BitVec.ofNat 64 (img o 8) }

/-- The checks of a matrix section record (R376). -/
def sectionOk (img : Img) (h : RgnHeader) (t : Nat) (th : TileHeader) : Bool :=
  match readSection img h t with
  | none => true
  | some m =>
    !mxcBad m.word m.stride && m.sec ≤ 15 && m.fld < h.nf &&
      !(upTo 8).any (fun k => th.binds.testBit k && (readBinding img h t k).qRates.getD m.inq 0 != 0) &&
      (edgesInto img h t (24 + m.inq) 0).all edgeWide && edgeDepth (edgeWord img h t m.outEdge) != 0 &&
      edgeWide (edgeWord img h t m.outEdge)

/-- Colour row i (R444). -/
def readRow (img : Img) (h : RgnHeader) (i : Nat) : ColourRow :=
  let w := img (h.col + 16 * i) 16
  { first := bitsAt w 9 0, last := bitsAt w 19 10, quota := bitsAt w 32 20, share := bitsAt w 45 33, cap := bitsAt w 58 46,
    ntile := bitsAt w 68 59, nslot := bitsAt w 73 69, xtile := bitsAt w 83 74, xslot := bitsAt w 88 84 }

/-- Bind record i (R446): the port, its tile, whether it is an output, its shape's address. -/
def readBind (img : Img) (h : RgnHeader) (i : Nat) : Nat × Nat × Bool × Nat :=
  let w := img (h.bind + 16 * i) 16
  (bitsAt w 81 74, bitsAt w 73 64, w.testBit 82, bitsAt w 63 0)

/-- The bind records in order. -/
def readBinds (img : Img) (h : RgnHeader) : List (Nat × Nat × Bool × Nat) :=
  if h.bind = 0 then [] else (upTo h.nbind).map (readBind img h)

/-- Do numbers strictly rise? -/
def rising : List Nat → Bool
  | a :: b :: rest => a < b && rising (b :: rest)
  | _ => true

/-- Is edge e of tile t the injection edge of some colour row (R346)? -/
def injectionEdge (img : Img) (h : RgnHeader) (t e : Nat) : Bool :=
  let w := edgeWord img h t e
  ((upTo h.ncol).map (readRow img h)).any (fun r => r.ntile = t && edgeDstT w = t && edgeDstS w = r.nslot && edgeDstP w = 0)

/-- The checks of the bind table on a tile (R341, R351, R446). -/
def streamsOk (img : Img) (h : RgnHeader) (t : Nat) : Bool :=
  let mine := (readBinds img h).filter (fun b => b.2.1 = t)
  mine.all (fun b => b.2.2.1 ||
    (edgeDepth (edgeWord img h t b.1) != 0 && !(slotOutputs img h t).contains b.1 && !injectionEdge img h t b.1 &&
      !(upTo 8).any (fun k => (readTile img h t).binds.testBit k && b.1 < 8 && (readBinding img h t k).oRates.getD b.1 0 != 0))) &&
    ((upTo 24).filter (hasSlot (readTile img h t))).all (fun n =>
      let a := wordA img h t n
      !(waKind a = 11 && waFunc a = 1 && waOut a 0 = 0xFF) || mine.any (fun b => b.2.2.1))

/-- The sum of depths into a tile (R278). -/
def depthInto (img : Img) (h : RgnHeader) (t : Nat) : Nat :=
  (((usedEdges img h).map (fun x => edgeWord img h x.1 x.2)).filter (fun w => edgeDstT w == t)).foldl (fun n w => n + edgeDepth w) 0

/-- Does a tile's header agree with the region's `RGN.W`, `RGN.H`, `RGN.NF` and `RGN.TAGW` (R455)? -/
def tileAgrees (img : Img) (h : RgnHeader) (t : Nat) : Bool :=
  let th := readTile img h t
  th.w = h.w && th.h = h.h && th.nf = h.nf && tagWidths img (tileOff h t + 16) = h.tagw

/-- Every check of a tile image (R274, R276 to R279, R376, R435, R455). R272's one edge per port is none of them. DEDUCED:
log entry 64. -/
def tileOk (img : Img) (h : RgnHeader) (t : Nat) : Bool :=
  let th := readTile img h t
  th.ver = 1 && th.reg = h.reg && th.ctx = h.ctx && th.ltile = t && tileAgrees img h t &&
    tagwOk img (tileOff h t + 16) th.nf && th.slots < 2 ^ 24 &&
    th.dsum = depthInto img h t && th.codesz % 4 = 0 &&
    ((upTo 24).filter (hasSlot th)).all (fun n => slotOk img h t n th && widthsOk img h t n) &&
    ((upTo 256).filter (fun e => edgeDepth (edgeWord img h t e) != 0)).all (edgeOk img h t) &&
    bindsOk img h t th && lutsOk img h t th && sectionOk img h t th && streamsOk img h t

/-- Extent declarations (R445). -/
def readDecl (img : Img) (h : RgnHeader) (k : Nat) : Nat × ExtDecl × Bool :=
  let w := img (h.ext + 32 * k) 32
  (k, { vbase := bitsAt w 63 0, size := bitsAt w 127 64, acc := bitsAt w 129 128, adp := w.testBit 131, dig := bitsAt w 159 144 },
    w.testBit 130)

/-- The declared extents. -/
def readDecls (img : Img) (h : RgnHeader) : AMap ExtDecl :=
  if h.ext = 0 then [] else (((upTo 16).map (readDecl img h)).filter (fun d => d.2.2)).map (fun d => (d.1, d.2.1))

/-- Every check of the image but for its header and its certificate (R330 step 7). -/
def imageOk (img : Img) (h : RgnHeader) : Bool :=
  (upTo h.nt).all (tileOk img h) && rising ((readBinds img h).map (fun b => b.1)) &&
    (readBinds img h).all (fun b => b.2.1 < h.nt) && (readDecls img h).all (fun d => d.2.acc != 3)

/-! ### The certificate (R304 to R306) -/

/-- Range record i (R305). -/
def readRange (img : Img) (h : RgnHeader) (i : Nat) : CertRange :=
  let w := img (h.cert + 64 + 16 * i) 16
  { first := bitsAt w 9 0, last := bitsAt w 19 10, lim := bitsAt w 44 32, share := bitsAt w 57 45, cap := bitsAt w 70 58,
    nosp := w.testBit 71 }
/-- The ranges in order. -/
def readRanges (img : Img) (h : RgnHeader) : List CertRange := (upTo (certRanges img h)).map (readRange img h)
/-- The place of tile t's record. -/
def certTileOff (img : Img) (h : RgnHeader) (t : Nat) : Nat := h.cert + 64 + 16 * certRanges img h + 528 * t
/-- Tile record t (R306). -/
def readCertTile (img : Img) (h : RgnHeader) (t : Nat) : CertTile :=
  let o := certTileOff img h t
  { dsum := img (o + 2) 2, minst := img (o + 4) 2, localBytes := img (o + 8) 4, scr := img (o + 12) 4,
    we := ((upTo 256).map (fun e => (e, img (o + 16 + 2 * e) 2))).filter (fun x => x.2 != 0) }

/-- The local memory that items 3 and 4 of R125 take. -/
def localNeed (lsize : Nat) (rs : List CertRange) : Nat :=
  let l := roundUp lsize 64
  l + (rs.map (fun r => (r.last + 1 - r.first) * (l + 128 * r.cap))).sum

/-- Are ranges ordered and disjoint, and each the right way round? -/
def rangesOrdered : List CertRange → Bool
  | a :: b :: rest => a.first ≤ a.last && a.last < b.first && rangesOrdered (b :: rest)
  | [a] => a.first ≤ a.last
  | [] => true

/-- Check 1 of R307 on a tile. -/
def certTileOk (img : Img) (h : RgnHeader) (t : Nat) : Bool :=
  let o := certTileOff img h t
  let c := readCertTile img h t
  img o 2 = t && c.dsum = (readTile img h t).dsum && c.localBytes = localNeed h.lsize (readRanges img h) && c.scr % 64 = 0 &&
    c.scr ≤ 262144 && c.minst ≤ 7680 &&
    (upTo 256).all (fun e => edgeDepth (edgeWord img h t e) = 0 || AMap.get 0 c.we e != 0)

/-- Check 1 of R307 (R455): the certificate is present and well formed. -/
def certOk (img : Img) (h : RgnHeader) : Bool :=
  let rs := readRanges img h
  h.cert != 0 && img h.cert 2 = 1 && img (h.cert + 2) 1 = h.reg && img (h.cert + 3) 1 = h.ctx && img (h.cert + 4) 2 = h.nt &&
    1 ≤ certRanges img h && certRanges img h ≤ 1024 && 1 ≤ img (h.cert + 8) 4 && img (h.cert + 8) 4 ≤ 4194304 &&
    rangesOrdered rs &&
    rs.all (fun r => r.share ≤ 7680 && r.cap ≤ 7680 && 1 ≤ r.lim && r.lim ≤ 4096) && (upTo h.nt).all (certTileOk img h)

/-! ### What a load makes of an image -/

/-- The image that a region keeps. -/
def regionImage (img : Img) (h : RgnHeader) : RegionImage :=
  { w := h.w, h := h.h, ctx := h.ctx, tagw := h.tagw, fuse := h.fuse, rows := (upTo h.ncol).map (readRow img h),
    decls := readDecls img h, digests := if h.dig = 0 then [] else (upTo h.ndig).map (fun k => img (h.dig + 64 * k) 64),
    ports := (readBinds img h).map (fun b => (b.1, b.2.1, b.2.2.1, b.2.2.2)), quotaAll := img (h.cert + 8) 4,
    ranges := readRanges img h, tiles := (upTo h.nt).map (fun t => (t, readCertTile img h t)), lsize := h.lsize }

/-- The colours of the ranges, each with its cap, in rising order. -/
def rangeColours (rs : List CertRange) : List (Nat × Nat) :=
  rs.flatMap (fun r => (upTo (r.last + 1 - r.first)).map (fun i => (r.first + i, r.cap)))

/-- Lay out the colours' areas downwards from an address (R125, item 4): the areas and the sumps. -/
def layAreas (l : Nat) : List (Nat × Nat) → Nat → AMap Nat × AMap (Nat × Nat)
  | [], _ => ([], [])
  | (c, cap) :: rest, top =>
    let area := top - l
    let sump := area - 128 * cap
    let r := layAreas l rest sump
    ((c, area) :: r.1, if cap = 0 then r.2 else (c, (sump, cap)) :: r.2)

/-- The word of the edge into each queue of a tile. -/
def queueWords (img : Img) (h : RgnHeader) (t : Nat) : AMap Word :=
  (upTo 8).filterMap (fun q => ((edgesInto img h t (24 + q) 0).head?).map (fun w => (q, w)))

/-- A tile's context as a load leaves it, with its block at an address (R125, R277). -/
def tileContext (img : Img) (h : RgnHeader) (t base : Nat) : TileCtx :=
  let th := readTile img h t
  let c := readCertTile img h t
  let size := roundUp (16384 + 4 * c.scr + c.localBytes) 4096
  let l := roundUp h.lsize 64
  let areas := layAreas l (rangeColours (readRanges img h)) (base + size - 16384 - 4 * c.scr - l)
  { TileCtx.empty with
    state := .loaded
    region := h.reg
    ltile := t
    slots := ((upTo 24).filter (hasSlot th)).map (fun n => (n, (wordA img h t n, wordB img h t n)))
    edges := ((upTo 256).filter (fun e => edgeDepth (edgeWord img h t e) != 0)).map (fun e => (e, edgeWord img h t e))
    binds := ((upTo 8).filter (fun k => th.binds.testBit k)).map (fun k => (k, readBinding img h t k))
    luts := ((upTo 8).filter (fun k => th.luts.testBit k)).map (fun k =>
      (k, Memory.writeN [] 0 2048 (img (h.lut + lutRef img h t k) 2048)))
    tagw := h.tagw
    codeBase := th.codeb
    codeSize := th.codesz
    dsum := th.dsum
    row0 := th.row0
    fuse := h.fuse
    blockBase := base
    blockSize := size
    scr := c.scr
    lsize := l
    areas := areas.1
    sumps := areas.2
    qWords := queueWords img h t
    mxs := readSection img h t }

end Sys2Proof.Machine
end

