-- ==== Sys2Proof/Machine/Match.lean ====
section
/-! DEFINITION. The matching store (R249 to R253, R262 to R268) and the arrival of tokens: edge buffers, shares and the
pool, sticky and purge tokens, complete operand sets, RED's and JON's waiting tokens, and the presence filter. -/

namespace Sys2Proof.Machine

/-! ### A context's words and tokens -/

/-- Word A of a slot. -/
def TileCtx.wordA (c : TileCtx) (n : Nat) : Word := (AMap.get (0, 0) c.slots n).1
/-- Word B of a slot. -/
def TileCtx.wordB (c : TileCtx) (n : Nat) : Word := (AMap.get (0, 0) c.slots n).2

/-- Is the context the tile's active one (R249, R311)? -/
def TileCtx.live (c : TileCtx) : Bool := c.state == .active || c.state == .suspending

/-- The slot and the port that an input buffer serves (R272); the first found, in an image that gives it two. DEDUCED: log
entry 64. -/
def TileCtx.portOf (c : TileCtx) (buf : Nat) : Option (Nat × Nat) :=
  c.slots.findSome? (fun x => ((waPorts x.2.1).find? (fun p => waIn x.2.1 p == buf)).map (fun p => (x.1, p)))

/-- Does a swap hold the tile: steps 1 to 3 of R423? -/
def State.swapHolds (s : State) (t : Nat) : Bool :=
  s.swaps.any (fun w => (w.lo == t || w.hi == t) && (w.step == .boundary || w.step == .transfer))

/-- Is a transom open at the new site of a logical tile (R426)? DEDUCED: log entry 37. -/
def State.transomAt (s : State) (region l : Nat) : Bool :=
  s.swaps.any (fun w => w.region == region && w.step == .transom && w.holds.contains l)

/-- Is it a token's entry? -/
def Entry.isToken (e : Entry) : Bool := e.kind == .token
/-- An entry's colour. -/
def Entry.colour (e : Entry) : Nat := tagColour e.tok.tag

/-- A set's own tag: its CONSUME tokens' (R249). -/
def OpSet.lead (x : OpSet) : Token :=
  match x.toks.find? (fun k => ctlMact k.tok.ctl == 0), x.toks with
  | some k, _ => k.tok
  | none, k :: _ => k.tok
  | none, [] => { tag := 0, ctl := 0, wide := false, payload := 0, clock := [] }

/-- The token of a set on a port. -/
def OpSet.on (x : OpSet) (p : Nat) : Option Token := (x.toks.find? (fun k => k.port == p)).map (fun k => k.tok)

/-! ### Shares and the pool (R262, R263) -/

/-- `COLT.SHARE` and `COLT.CAP` of a colour of the context's region; a closed colour has neither. -/
def State.shareCap (s : State) (c : TileCtx) (colour : Nat) : Nat × Nat :=
  let k := (s.region c.region).colour colour
  if k.state = 0 then (0, 0) else (k.share, k.cap)

/-- The entries that a colour holds on the tile. -/
def TileCtx.entries (c : TileCtx) (colour : Nat) : Nat :=
  c.store.countP (fun e => e.colour == colour) +
    ((c.ready.filter (fun x => x.colour == colour)).map (fun x => x.toks.countP (fun k => k.stored))).sum

/-- The colours that hold entries. -/
def TileCtx.holders (c : TileCtx) : List Nat := (c.store.map Entry.colour ++ c.ready.map (fun x => x.colour)).eraseDups

/-- A colour's borrowed count (R263). -/
def State.borrowed (s : State) (c : TileCtx) (colour : Nat) : Nat := c.entries colour - (s.shareCap c colour).1

/-- The entries that a region's shares reserve on each of its tiles (R262). -/
def RegionImage.reserved (i : RegionImage) : Nat := (i.ranges.map (fun r => (r.last + 1 - r.first) * r.share)).sum

/-- The pool's free entries on a tile. -/
def State.poolFree (s : State) (t : Nat) : Nat :=
  let cs := ((s.tile t).ctxs.map Prod.snd).filter (fun c => c.state != .empty)
  8192 - (cs.map (fun c => (s.region c.region).image.reserved)).sum -
    (cs.map (fun c => (c.holders.map (s.borrowed c)).sum)).sum

/-- May a colour take `n` more entries (R263)? -/
def State.canEnter (s : State) (t ctx colour n : Nat) : Bool :=
  let c := s.tctx t ctx
  let (share, cap) := s.shareCap c colour
  let u := c.entries colour
  u + n - share ≤ cap && (u + n - share) - (u - share) ≤ s.poolFree t

/-! ### Partners (R249, R250, R294) -/

/-- The fields of a sticky token that agree with a tag before its first wildcard: from field k on. DEDUCED: log entry 11.
-/
def stickyFrom (tagw : List Nat) (st tag : Word) : Nat → Nat → Option Nat
  | 0, k => some k
  | n + 1, k =>
    let f := fieldOf tagw k st
    if f = 2 ^ fieldW tagw k - 1 then some k
    else if f != fieldOf tagw k tag then none
    else stickyFrom tagw st tag n (k + 1)

/-- How many fields of a sticky token name a tag, if it pairs with it at all (R250). -/
def stickyDepth (tagw : List Nat) (st tag : Word) : Option Nat :=
  if st >>> 52 = tag >>> 52 then stickyFrom tagw st tag tagw.length 0 else none

/-- The oldest of some entries. -/
def oldest (l : List Entry) : Option Entry :=
  l.foldl (fun b e => match b with
    | none => some e
    | some x => if e.seq < x.seq then some e else some x) none

/-- The token entries on a port. -/
def TileCtx.waiting (c : TileCtx) (slot port : Nat) : List Entry :=
  c.store.filter (fun e => e.isToken && e.slot == slot && e.port == port)

/-- The partner that a tag finds among some entries: the oldest CONSUME token of the tag, or else the sticky token with the most
fields before its first wildcard (R249, R250). -/
def partnerIn (tagw : List Nat) (es : List Entry) (tag : Word) : Option Entry :=
  match oldest (es.filter (fun e => ctlMact e.tok.ctl == 0 && e.tok.tag == tag)) with
  | some e => some e
  | none =>
    ((es.filter (fun e => ctlMact e.tok.ctl == 1)).foldl (fun b e =>
      match stickyDepth tagw e.tok.tag tag, b with
      | none, b => b
      | some k, none => some (k, e)
      | some k, some (j, x) => if j < k then some (k, e) else some (j, x)) none).map Prod.snd

/-- The entries on a port that a token can pair with in a cycle: those present at its start (R252). -/
def TileCtx.present (c : TileCtx) (slot port now : Nat) : List Entry := (c.waiting slot port).filter (fun e => e.since < now)

/-- The partner that a tag finds on a port in a cycle (R249, R250, R252). -/
def TileCtx.partner (c : TileCtx) (slot port now : Nat) (tag : Word) : Option Entry :=
  partnerIn c.tagw (c.present slot port now) tag

/-- The port that a predicate selects at a merge (R294). -/
def mergePort (pred : Token) : Nat := if pred.payload.getLsbD 0 then 0 else 1

/-- The partners that complete a set with a token on a port in a cycle; none while one is missing (R249, R252). At a merge by
predicate a token's partner is a predicate that selects its port (R294). -/
def TileCtx.complete (c : TileCtx) (slot port now : Nat) (tok : Token) : Option (List Entry) :=
  let a := c.wordA slot
  if waKind a = 5 && waFunc a = 0 then
    if port = 3 then (c.partner slot (mergePort tok) now tok.tag).map (fun e => [e])
    else (partnerIn c.tagw ((c.present slot 3 now).filter (fun e => mergePort e.tok == port)) tok.tag).map (fun e => [e])
  else if waKind a = 5 || waKind a = 11 then some []
  else ((waPorts a).filter (fun p => p != port)).mapM (fun p => c.partner slot p now tok.tag)

/-! ### Entering and leaving the store -/

/-- Take a token out of an edge buffer; its credits stay with it. -/
def State.takeHeld (s : State) (t ctx buf : Nat) (h : Held) : State :=
  s.modCtx t ctx (fun c => { c with buffers := AMap.modify [] c.buffers buf (dropHeld h.seq) })

/-- Remove an entry from the store. -/
def TileCtx.drop (c : TileCtx) (e : Entry) : TileCtx := { c with store := c.store.filter (fun x => x.seq != e.seq) }

/-- Store a token (R262): a wide token's payload keeps its edge's credits, a narrow one's return (R303). It can pair from the next
cycle on (R252). -/
def State.storeToken (s : State) (t ctx slot port : Nat) (h : Held) : State :=
  let e : Entry := { kind := .token, slot := slot, port := port, tok := h.tok, seq := h.seq, cycle := h.cycle,
                     edge := if h.tok.wide then h.src else none, spill := none, since := s.cycle }
  let s1 := { s with fresh := s.fresh ++ [(t, ctx, slot)] }.modCtx t ctx (fun c => { c with store := c.store ++ [e] })
  if h.tok.wide then s1 else s1.returnCredit (s.tctx t ctx).region h.src h.tok.weight

/-- The rank of a set among those of one cycle: a merge by arrival forwards the lowest port first (R294). -/
def setRank (a : Word) (toks : List SetTok) : Nat :=
  if waKind a = 5 && waFunc a = 1 then (toks.head?).elim 0 (fun k => k.port) else 0

/-- A set is complete: its CONSUME members leave the store and wait with it for the arbiter (R249, R262); the spill of a STICKY
member is abandoned (R265). -/
def State.makeReady (s : State) (t ctx slot : Nat) (first : SetTok) (partners : List Entry) : State :=
  let others := partners.map (fun e =>
    let sticky := ctlMact e.tok.ctl == 1
    ({ port := e.port, tok := e.tok, stored := !sticky, edge := if sticky then none else e.edge } : SetTok))
  let toks := (upTo 4).flatMap (fun p => (first :: others).filter (fun k => k.port == p))
  let x : OpSet := { slot := slot, colour := tagColour first.tok.tag, seq := s.serial, cycle := s.cycle, toks := toks,
                     rank := setRank ((s.tctx t ctx).wordA slot) toks }
  s.bump.modCtx t ctx (fun c =>
    let c1 := (partners.filter (fun e => ctlMact e.tok.ctl != 1)).foldl TileCtx.drop c
    { c1 with
      ready := c1.ready ++ [x]
      store := c1.store.map (fun e => if partners.any (fun p => p.seq == e.seq) then { e with spill := none } else e) })

/-- Waiting CONSUME tokens that now complete a set, oldest first. -/
def State.rescan (t ctx slot : Nat) : List Entry → State → State
  | [], s => s
  | e :: rest, s =>
    let c := s.tctx t ctx
    if !c.store.any (fun x => x.seq == e.seq) then State.rescan t ctx slot rest s
    else match c.complete slot e.port s.cycle e.tok with
      | none => State.rescan t ctx slot rest s
      | some ps =>
        State.rescan t ctx slot rest
          ((s.modCtx t ctx (fun c => c.drop e)).makeReady t ctx slot { port := e.port, tok := e.tok, stored := true, edge := e.edge } ps)

/-- Insert an entry in arrival order. -/
def insertEntry (e : Entry) : List Entry → List Entry
  | [] => [e]
  | x :: xs => if e.seq < x.seq then e :: x :: xs else x :: insertEntry e xs

/-- Entries in arrival order. -/
def byArrival (l : List Entry) : List Entry := l.foldr insertEntry []

/-! ### Counters of a GAT slot (R260) -/

/-- A zero counter block. -/
def GatCnt.zero : GatCnt := { bad := 0, drop := 0, late := 0, left := 0, purge0 := 0, refill := 0 }

/-- A 32-bit counter that saturates. -/
def sat32 (n : Nat) : Nat := min n 0xFFFFFFFF

/-- Change a GAT slot's counters. -/
def State.modGat (s : State) (t ctx slot : Nat) (f : GatCnt → GatCnt) : State :=
  s.modCtx t ctx (fun c => { c with gatcnt := AMap.modify GatCnt.zero c.gatcnt slot f })

/-- Change the counters of a colour's entry casement, or of its exit casement. DEDUCED: log entry 13. -/
def State.modCasement (s : State) (region colour : Nat) (exit : Bool) (f : GatCnt → GatCnt) : State :=
  let r := s.region region
  let k := r.colour colour
  s.modGat (r.phys (if exit then k.xtile else k.ntile)) r.ctx (if exit then k.xslot else k.nslot) f

/-! ### The presence filter (R267) -/

/-- A tag's bucket for a slot. -/
def bucketOf (tag : Word) (slot : Nat) : Nat :=
  let t := tag.toNat
  (bitsAt t 9 0 ^^^ bitsAt t 19 10 ^^^ bitsAt t 29 20 ^^^ bitsAt t 39 30 ^^^ bitsAt t 49 40 ^^^ bitsAt t 51 50 ^^^ slot) % 1024

/-- `RED.FIELD`. -/
def redField (b : Word) : Nat := bitsAt b.toNat 18 16

/-- The tag under which an entry's record stands in the sump: an accumulator's is that of the token that it waits for. DESIGN CHOICE:
log entry 79. -/
def TileCtx.recTag (c : TileCtx) (e : Entry) : Word :=
  match e.kind with
  | .acc n _ => setField c.tagw (redField (c.wordB e.slot)) n e.tok.tag
  | _ => e.tok.tag

/-- Is the bucket's bit set in the colour's filter? -/
def TileCtx.bucketHit (c : TileCtx) (tag : Word) (slot : Nat) : Bool :=
  c.sumped.any (fun e => e.colour == tagColour tag && bucketOf (c.recTag e) e.slot == bucketOf tag slot)

/-! ### RED's tokens (R286, R287, R289) -/

/-- `RED.N`. -/
def redCount (b : Word) : Nat := bitsAt b.toNat 15 0

/-- The outer tag of a reduction: field k and every deeper field cleared. -/
def outerTag (c : TileCtx) (slot : Nat) (tag : Word) : Word := clearFrom c.tagw (redField (c.wordB slot)) tag
/-- A token's index in its reduction. -/
def redIndex (c : TileCtx) (slot : Nat) (tag : Word) : Nat := fieldOf c.tagw (redField (c.wordB slot)) tag

/-- Is the entry the accumulator of a reduction? -/
def Entry.isAcc (e : Entry) (slot : Nat) (outer : Word) : Bool :=
  match e.kind with
  | .acc .. => e.slot == slot && e.tok.tag == outer
  | _ => false

/-- The next index that an accumulator adds. -/
def EntryKind.next : EntryKind → Nat
  | .acc n _ => n
  | .counter n => n
  | .token => 0

/-- The accumulator of a reduction, in the store or in the sump. -/
def TileCtx.accOf (c : TileCtx) (slot : Nat) (outer : Word) : Option Entry := (c.store ++ c.sumped).find? (fun e => e.isAcc slot outer)

/-- The indices of a reduction's tokens that have arrived and have not been added. -/
def TileCtx.redHeld (c : TileCtx) (slot : Nat) (outer : Word) : List Nat :=
  let mine := fun (t : Word) => outerTag c slot t == outer
  (((c.store ++ c.sumped).filter (fun e => e.isToken && e.slot == slot && mine e.tok.tag)).map (fun e => redIndex c slot e.tok.tag)) ++
    ((c.ready.filter (fun x => x.slot == slot && mine x.lead.tag)).map (fun x => redIndex c slot x.lead.tag))

/-- A waiting token of the matching store fires, or its set does: what it holds of its edge until then. -/
def Held.member (h : Held) (stored : Bool) : SetTok :=
  { port := 0, tok := h.tok, stored := stored, edge := if stored && !h.tok.wide then none else h.src }

/-- A token reaches RED (R287, R289): one that cannot be added any more is discarded and spoils the result; one at its turn waits only
for the arbiter, the first of a reduction in the entry that the accumulator will take; any other waits in an entry. DEDUCED: log
entry 12. -/
def State.redArrive (s : State) (t ctx slot buf : Nat) (h : Held) : State :=
  let c := s.tctx t ctx
  let outer := outerTag c slot h.tok.tag
  let i := redIndex c slot h.tok.tag
  let n := redCount (c.wordB slot)
  let next := ((c.accOf slot outer).map (fun e => e.kind.next)).getD 0
  let gone : Bool := i < next || (n != 0 && n ≤ i) || (c.redHeld slot outer).contains i
  let s1 := s.takeHeld t ctx buf h
  if gone then
    (s1.modCtx t ctx (fun c => { c with spoiled := (slot, outer) :: c.spoiled })).returnCredit c.region h.src h.tok.weight
  else if i = next && next != 0 then s1.makeReady t ctx slot (h.member false) []
  else if !s.canEnter t ctx (tagColour h.tok.tag) 1 then s
  else if i = next then
    (s1.makeReady t ctx slot (h.member true) []).returnCredit c.region (if h.tok.wide then none else h.src) h.tok.weight
  else s1.storeToken t ctx slot 0 h

/-! ### TAG PUSHC's counters (R298) -/

/-- Is the entry PUSHC's counter for a tag? -/
def Entry.isCounter (e : Entry) (slot : Nat) (tag : Word) : Bool :=
  match e.kind with
  | .counter _ => e.slot == slot && e.tok.tag == tag
  | _ => false

/-- A token reaches a PUSHC slot: the counter of its tag takes an entry with the first of them. -/
def State.countArrive (s : State) (t ctx slot buf : Nat) (h : Held) : State :=
  let c := s.tctx t ctx
  let known := (c.store ++ c.sumped).any (fun e => e.isCounter slot h.tok.tag)
  if !known && !s.canEnter t ctx (tagColour h.tok.tag) 1 then s
  else
    let s1 := if known then s
      else s.bump.modCtx t ctx (fun c => { c with store := c.store ++
        [{ kind := .counter 0, slot := slot, port := 0, tok := { h.tok with ctl := 0, payload := 0, wide := false, clock := [] },
           seq := s.serial, cycle := h.cycle, edge := none, spill := none, since := s.cycle }] })
    (s1.takeHeld t ctx buf h).makeReady t ctx slot { port := 0, tok := h.tok, stored := false, edge := h.src } []

/-! ### JON's streams (R262, R265, R295, R296) -/

/-- The head token of a colour in an edge buffer (R263). -/
def TileCtx.headOf (c : TileCtx) (buf colour : Nat) : Option Held :=
  (AMap.get [] c.buffers buf).find? (fun h => tagColour h.tok.tag == colour)

/-- The token of a stream that has completed a comparison on its arrival, as an entry: it waits in its buffer (R262). -/
def TileCtx.jonMet (c : TileCtx) (slot port : Nat) (tag : Word) : Option Entry :=
  ((c.headOf (waIn (c.wordA slot) port) (tagColour tag)).filter (fun h => h.met && h.tok.tag == tag)).map (fun h =>
    { kind := .token, slot := slot, port := port, tok := h.tok, seq := h.seq, cycle := h.cycle, edge := h.src, spill := none })

/-- The head of a stream: the oldest waiting token of a tag on a port. -/
def TileCtx.jonHead (c : TileCtx) (slot port : Nat) (tag : Word) : Option Entry :=
  (oldest ((c.store ++ c.sumped).filter (fun e => e.isToken && e.slot == slot && e.port == port && e.tok.tag == tag))).or
    (c.jonMet slot port tag)

/-- The walk of a tag's streams at a JON slot. -/
def TileCtx.jonRun (c : TileCtx) (slot : Nat) (tag : Word) : JonRun :=
  (c.jons.find? (fun r => r.slot == slot && r.tag == tag)).getD
    { slot := slot, tag := tag, endA := false, endB := false, held := none, clock := [] }

/-- Has the stream of a port ended (R296)? -/
def JonRun.ended (r : JonRun) (port : Nat) : Bool := if port = 0 then r.endA else r.endB

/-- Does a token that arrives on a port complete a comparison in a cycle (R252, R262, R295): it is the first of its stream, and the
other stream has a head that was there before, or has ended? -/
def TileCtx.jonCompletes (c : TileCtx) (slot port now : Nat) (h : Held) : Bool :=
  let run := c.jonRun slot h.tok.tag
  !run.ended port && !(c.store ++ c.sumped).any (fun e => e.isToken && e.slot == slot && e.port == port && e.tok.tag == h.tok.tag) &&
    (run.ended (1 - port) || (c.jonHead slot (1 - port) h.tok.tag).any (fun e => e.since < now))

/-- A token that completes a comparison waits in its buffer for the arbiter and takes no entry (R262); the spill of the other stream's
head is abandoned (R265). -/
def State.jonMeets (s : State) (t ctx slot port buf : Nat) (h : Held) : State :=
  let c := s.tctx t ctx
  let other := (c.jonHead slot (1 - port) h.tok.tag).map (fun e => e.seq)
  s.modCtx t ctx (fun c => { c with
    buffers := AMap.modify [] c.buffers buf (fun b => b.map (fun x => if x.seq == h.seq then { x with met := true } else x))
    store := c.store.map (fun e => if some e.seq == other then { e with spill := none } else e) })

/-! ### Arrivals at a port (R252) -/

/-- A CONSUME token at a port: it completes a set or a comparison, or it is stored, or it waits in its buffer (R262, R263). -/
def State.arriveConsume (s : State) (t ctx slot port buf : Nat) (h : Held) : State :=
  let c := s.tctx t ctx
  let a := c.wordA slot
  if waKind a = 1 then s.redArrive t ctx slot buf h
  else if waKind a = 8 && waFunc a = 0 then s.countArrive t ctx slot buf h
  else if waKind a = 6 then
    if c.jonCompletes slot port s.cycle h then s.jonMeets t ctx slot port buf h
    else if s.canEnter t ctx (tagColour h.tok.tag) 1 then (s.takeHeld t ctx buf h).storeToken t ctx slot port h else s
  else
    match c.complete slot port s.cycle h.tok with
    | some ps => (s.takeHeld t ctx buf h).makeReady t ctx slot { port := port, tok := h.tok, stored := false, edge := h.src } ps
    | none =>
      if s.canEnter t ctx (tagColour h.tok.tag) 1 then (s.takeHeld t ctx buf h).storeToken t ctx slot port h else s

/-- Remove the sticky tokens of a port that carry exactly a tag. -/
def State.dropSticky (s : State) (t ctx slot port : Nat) (tag : Word) : State :=
  let c := s.tctx t ctx
  ((c.waiting slot port).filter (fun e => ctlMact e.tok.ctl == 1 && e.tok.tag == tag)).foldl (fun st e =>
    (st.modCtx t ctx (fun c => c.drop e)).returnCredit c.region e.edge e.tok.weight) s

/-- Does a port hold a sticky token with exactly a tag? -/
def TileCtx.hasSticky (c : TileCtx) (slot port : Nat) (tag : Word) : Bool :=
  (c.waiting slot port).any (fun e => ctlMact e.tok.ctl == 1 && e.tok.tag == tag)

/-- A STICKY token at a port (R250): it replaces the one with its tag or takes an entry, and pairs from the next cycle on (R252). -/
def State.arriveSticky (s : State) (t ctx slot port buf : Nat) (h : Held) : State :=
  let c := s.tctx t ctx
  if !c.hasSticky slot port h.tok.tag && !s.canEnter t ctx (tagColour h.tok.tag) 1 then s
  else
    ((s.dropSticky t ctx slot port h.tok.tag).takeHeld t ctx buf h).storeToken t ctx slot port h

/-- A PURGE token at a port (R251). -/
def State.arrivePurge (s : State) (t ctx slot port buf : Nat) (h : Held) : State :=
  let c := s.tctx t ctx
  let s1 := (s.takeHeld t ctx buf h).returnCredit c.region h.src h.tok.weight
  if c.hasSticky slot port h.tok.tag then s1.dropSticky t ctx slot port h.tok.tag
  else s1.modCasement c.region (tagColour h.tok.tag) false (fun g => { g with purge0 := sat32 (g.purge0 + 1) })

/-- A head token meets its port, where its matching action is the one being handled (R252, R257): a token that hits the presence
filter is held back (R267); a casement takes every token as a set of its own. -/
def State.meet (s : State) (t ctx buf colour mact : Nat) (filter : Bool) : State :=
  let c := s.tctx t ctx
  if !c.live || s.swapHolds t then s
  else match c.portOf buf, c.headOf buf colour with
    | some (slot, port), some h =>
      if ctlMact h.tok.ctl != mact || (filter && c.bucketHit h.tok.tag slot) then s
      else if waKind (c.wordA slot) = 11 then
        (s.takeHeld t ctx buf h).makeReady t ctx slot { port := port, tok := h.tok, stored := false, edge := h.src } []
      else match mact with
        | 1 => s.arriveSticky t ctx slot port buf h
        | 2 => s.arrivePurge t ctx slot port buf h
        | _ => s.arriveConsume t ctx slot port buf h
    | _, _ => s

/-! ### TOKEN_ARRIVAL (R34, R247, R252, R272, R337, R423, R426) -/

/-- The tile and the buffer that an edge leads to. -/
def State.edgeEnd (s : State) (region src e : Nat) : Nat × Nat :=
  let r := s.region region
  let w := (s.tctx (r.phys src) r.ctx).edge e
  let t := r.phys (edgeDstT w)
  (t, if 24 ≤ edgeDstS w then queueBuf (edgeDstS w - 24) else waIn ((s.tctx t r.ctx).wordA (edgeDstS w)) (edgeDstP w))

/-- The token as the edge's end receives it: over a link, from its flits or its cycles (R242 to R245); inside a tile, as it is. -/
def State.received (s : State) (f : Flight) : Token :=
  let r := s.region f.region
  let w := (s.tctx (r.phys f.src) r.ctx).edge f.edge
  if edgeDstT w = f.src then f.tok else (f.tok.carried w (routeWord f.gen f.region w) (BitVec.ofNat 6 f.seq)).getD f.tok

/-- A token on its way reaches its edge buffer: one whose generation is gone is dropped, one of a killed colour is
discarded and counted. The receiving tile counts its flits (R417), but for a forwarded token's (R426). -/
def State.landToken (s : State) (f : Flight) : State :=
  let r := s.region f.region
  let tok := s.received f
  let colour := tagColour f.tok.tag
  let (t, buf) := s.edgeEnd f.region f.src f.edge
  let dst := edgeDstT ((s.tctx (r.phys f.src) r.ctx).edge f.edge)
  let gone := f.gen != r.gen || (s.tctx t r.ctx).state == .empty
  let s := s.heardFlit f
  let s := if gone || f.late.isSome then s else s.countTraffic f.region t dst f.src f.tok.flits
  if gone then s
  else if (r.colour colour).state = 3 then
    (s.modCasement f.region colour true (fun g => { g with late := sat32 (g.late + 1) })).returnCredit f.region (some (f.src, f.edge))
      f.tok.weight
  else
    let h : Held := { tok := tok, seq := s.serial, cycle := s.cycle, reserved := none, src := some (f.src, f.edge) }
    s.bump.modCtx t r.ctx (fun c => { c with buffers := AMap.modify [] c.buffers buf (fun b => b ++ [h]) })

/-- Remove the first element that a test names. -/
def dropFirst {α : Type} (f : α → Bool) : List α → List α
  | [] => []
  | x :: xs => if f x then xs else x :: dropFirst f xs

/-- Change the first element that a test names. -/
def modFirst {α : Type} (f : α → Bool) (g : α → α) : List α → List α
  | [] => []
  | x :: xs => if f x then g x :: xs else x :: modFirst f g xs

/-- Is a token on its way over an edge? -/
def Flight.on (f : Flight) (region src e : Nat) : Bool := f.region == region && f.src == src && f.edge == e

/-- The oldest token of a colour on an edge lands (R247), not in the cycle in which it was sent (R245, R352); behind an open transom it
waits for the drain token (R426). Where the receiver has discarded it, the edge's sender first resends the oldest discarded one (R246).
-/
def State.landOldest (s : State) (region src e colour : Nat) : State :=
  let mine := fun (f : Flight) => f.on region src e && tagColour f.tok.tag == colour
  match s.flights.find? mine with
  | none => s
  | some f =>
    let r := s.region region
    let w := (s.tctx (r.phys src) r.ctx).edge e
    let l := edgeDstT w
    if f.discarded then
      { s with flights := modFirst (fun g => g.on region src e && g.discarded) (fun g => { g with discarded := false }) s.flights }
    else if f.late.isSome || s.transomAt region l || s.cycle < f.sent + crossing w f.tok then s
    else State.landToken { s with flights := dropFirst mine s.flights } f

/-- The arrivals of one cycle that go to ports of their own: at most one for each port (R252). -/
def distinctEnds (s : State) : List (Nat × Nat × Nat × Nat) → List (Nat × Nat) → List (Nat × Nat × Nat × Nat)
  | [], _ => []
  | a :: rest, seen =>
    let e := s.edgeEnd a.1 a.2.1 a.2.2.1
    if seen.contains e then distinctEnds s rest seen else a :: distinctEnds s rest (e :: seen)

/-- The head tokens of some arrivals meet their ports, those of one matching action. -/
def State.meetAll (s : State) (arrivals : List (Nat × Nat × Nat × Nat)) (mact : Nat) : State :=
  arrivals.foldl (fun st a =>
    let (t, buf) := st.edgeEnd a.1 a.2.1 a.2.2.1
    st.meet t (st.region a.1).ctx buf a.2.2.2 mact true) s

/-- One cycle's arrivals: the named edges' oldest tokens of a colour land, and meet their ports: CONSUME tokens, then STICKY, then
PURGE (R252), and with them the tokens that have reached the tile that sent them. A port that already has one takes no further one in
the cycle. -/
def State.arrive (s : State) (arrivals : List (Nat × Nat × Nat × Nat)) : State :=
  let own := distinctEnds s s.due []
  let others := distinctEnds s arrivals (own.map (fun a => s.edgeEnd a.1 a.2.1 a.2.2.1))
  let s1 := others.foldl (fun st a => st.landOldest a.1 a.2.1 a.2.2.1 a.2.2.2)
    { s with due := own.foldl List.erase s.due, dueAt := s.cycle + 1 }
  [0, 3, 1, 2].foldl (fun st m => st.meetAll (own ++ others) m) s1

/-- TOKEN_ARRIVAL (R251, R252): in one cycle the named edges' oldest tokens of a colour (region, source tile, edge,
colour) arrive, or are handled again where they wait in their buffers. DEDUCED: log entry 10. -/
def execTokenArrival (arrivals : List (Nat × Nat × Nat × Nat)) (s : State) : Out := .next ((s.arrive arrivals).tick 1)

/-! ### The start of a cycle (R252, R352) -/

/-- The waiting tokens of a slot pair, as far as they now can. -/
def State.pairSlot (s : State) (t ctx slot : Nat) : State :=
  if s.swapHolds t then s
  else
    let es := (s.tctx t ctx).store.filter (fun e => e.isToken && e.slot == slot && ctlMact e.tok.ctl == 0)
    let a := (s.tctx t ctx).wordA slot
    if waKind a = 1 || waKind a = 6 then s else State.rescan t ctx slot (byArrival es) s

/-- The entries that were taken before this cycle pair (R252). -/
def State.pairFresh (s : State) : State :=
  let now := fun (f : Nat × Nat × Nat) => !(s.tctx f.1 f.2.1).store.any (fun e => e.slot == f.2.2 && s.cycle ≤ e.since) && !s.swapHolds f.1
  (s.fresh.filter now).eraseDups.foldl (fun st f => st.pairSlot f.1 f.2.1 f.2.2) { s with fresh := s.fresh.filter (fun f => !now f) }

/-- May a token that goes to the tile that sends it reach its buffer: it was sent before this cycle (R352), and no transom holds it? -/
def State.dueHere (s : State) (f : Flight) : Bool :=
  f.sent < s.cycle && s.stays f && f.late.isNone && !s.transomAt f.region f.src

/-- A token that a tile has sent to itself reaches its buffer (R352), which is an arrival of this cycle. -/
def State.landOwn (s : State) (f : Flight) : State :=
  let s1 := s.landOldest f.region f.src f.edge (tagColour f.tok.tag)
  { s1 with due := s1.due ++ [(f.region, f.src, f.edge, tagColour f.tok.tag)], dueAt := s.cycle }

/-- The arrivals of the cycles before one that no TOKEN_ARRIVAL has handled meet their ports, as those cycles end (R252). -/
def State.closeDue (limit : Nat) : Nat → State → State
  | 0, s => s
  | n + 1, s =>
    if s.due.isEmpty || limit ≤ s.dueAt then s else State.closeDue limit n ((s.atCycle s.dueAt).pairFresh.arrive [])

/-- The state at the start of a cycle: the arrivals of the cycles before it have met their ports, and what has been stored pairs. -/
def State.openCycle (s : State) (n : Nat) : State := ((State.closeDue n (s.due.length + 1) s).atCycle n).pairFresh

/-- The tokens that tiles have sent to themselves in a cycle reach their buffers in the next (R352). -/
def State.landSent (s : State) (n : Nat) : State :=
  let s1 := s.openCycle (n + 1)
  (s1.flights.filter (fun f => f.sent == n && s1.dueHere f)).foldl State.landOwn s1

/-- What the start of a cycle brings: the pairing of what has been stored (R252), and the tokens that tiles have sent to themselves
(R352), which meet their ports with the other arrivals of the cycle. DEDUCED: log entry 10. -/
def State.newCycle (s : State) : State :=
  if s.fresh.isEmpty && s.due.isEmpty && !s.flights.any s.dueHere then s
  else
    let sents := ((s.flights.filter s.dueHere).map (fun f => f.sent)).eraseDups
    (sents.foldl State.landSent s).openCycle s.cycle

/-! ### The sump (R264 to R267) -/

/-- A sump record's bytes (R266), as a number. -/
def TileCtx.sumpRecord (c : TileCtx) (e : Entry) : Nat :=
  (c.recTag e).toNat + e.tok.ctl.toNat * 2 ^ 64 + e.slot * 2 ^ 72 + e.port * 2 ^ 80 + (1 + 2 * e.tok.wide.toNat) * 2 ^ 88 +
    e.cycle % 2 ^ 64 * 2 ^ 128 + (if e.tok.wide then 0 else e.tok.word.toNat) * 2 ^ 192 +
    (if e.tok.wide then e.tok.payload.toNat else 0) * 2 ^ 512

/-- Is the colour stalled on the tile (R264)? Where it has neither fired nor spilled there the time runs from cycle 0. DEDUCED: log
entry 10. -/
def State.stalled (s : State) (c : TileCtx) (colour : Nat) : Bool :=
  let k := (s.region c.region).colour colour
  k.stall != 0 && 0 < s.borrowed c colour &&
    max (AMap.get 0 c.lastFire colour) (AMap.get 0 c.lastSpill colour) + 2 ^ k.stall ≤ s.cycle

/-- Is the entry a head of a comparison of JON that waits for the arbiter? -/
def TileCtx.comparing (c : TileCtx) (e : Entry) : Bool :=
  let run := c.jonRun e.slot e.tok.tag
  waKind (c.wordA e.slot) == 6 && e.isToken && (c.jonHead e.slot e.port e.tok.tag).any (fun x => x.seq == e.seq) &&
    (run.ended (1 - e.port) || (c.jonHead e.slot (1 - e.port) e.tok.tag).isSome)

/-- The entries that a spill takes: the youngest of the colour, as many as the borrowed count (R264), without those of a set or a
comparison that waits for the arbiter. DEDUCED: log entry 10. -/
def State.spillChoice (s : State) (c : TileCtx) (colour : Nat) : List Nat :=
  (((byArrival (c.store.filter (fun e => e.colour == colour && !c.comparing e))).reverse).take (s.borrowed c colour)).map (fun e => e.seq)

/-- Write an entry's record in a free place of the colour's sump area; the entry leaves the store, and the wide payload's
depth is freed (R264, R266, R303). -/
def State.spillEntry (s : State) (t ctx : Nat) (e : Entry) : State :=
  let c := s.tctx t ctx
  let (addr, cap) := AMap.get (0, 0) c.sumps e.colour
  let used := (c.sumped.filter (fun x => x.colour == e.colour)).filterMap (fun x => x.spill)
  match findUp (fun i => !used.contains i) cap with
  | none => s
  | some i =>
    let s1 := s.modTile t (fun x => { x with loc := Memory.writeN x.loc (addr + 128 * i) 128 (c.sumpRecord e) })
    (s1.modCtx t ctx (fun c => { (c.drop e) with sumped := c.sumped ++ [{ e with spill := some i, edge := none }] })).returnCredit
      c.region e.edge e.tok.weight

/-- STALL_SPILL (R264, R265): a stalled colour's spill begins, or the record of its youngest entry being spilled is
written. The cycle's arrivals have been handled before (R252), so its end follows. -/
def execStallSpill (tile ctx colour : Nat) (write : Bool) (s : State) : Out :=
  let c := s.tctx tile ctx
  let marked := (byArrival (c.store.filter (fun e => e.colour == colour && e.spill.isSome))).reverse
  if write then
    match marked with
    | [] => .next s
    | e :: _ => .next ((s.spillEntry tile ctx e).tick 1)
  else if !marked.isEmpty || !c.live || !s.stalled c colour then .next s
  else
    let who := s.spillChoice c colour
    .next ((s.modCtx tile ctx (fun c => { c with
      store := c.store.map (fun e => if who.contains e.seq then { e with spill := some s.cycle } else e)
      lastSpill := AMap.put c.lastSpill colour s.cycle })).tick 1)

/-- A record leaves the sump. -/
def State.dropRecord (s : State) (t ctx : Nat) (e : Entry) : State :=
  let c := s.tctx t ctx
  let addr := (AMap.get (0, 0) c.sumps e.colour).1 + 128 * e.spill.getD 0
  (s.modTile t (fun x => { x with loc := Memory.writeN x.loc (addr + 11) 1 0 })).modCtx t ctx (fun c =>
    { c with sumped := c.sumped.filter (fun x => x.seq != e.seq) })

/-- An entry changes, in the store or in the sump, whose record is then written again. -/
def State.modEntry (s : State) (t ctx seq : Nat) (f : Entry → Entry) : State :=
  let c := s.tctx t ctx
  let s1 := s.modCtx t ctx (fun c => { c with
    store := c.store.map (fun e => if e.seq == seq then f e else e)
    sumped := c.sumped.map (fun e => if e.seq == seq then f e else e) })
  match c.sumped.find? (fun e => e.seq == seq) with
  | none => s1
  | some e =>
    let addr := (AMap.get (0, 0) c.sumps e.colour).1 + 128 * e.spill.getD 0
    s1.modTile t (fun x => { x with loc := Memory.writeN x.loc addr 128 (c.sumpRecord (f e)) })

/-- An entry ends, in the store or in the sump. -/
def State.endEntry (s : State) (t ctx : Nat) (e : Entry) : State :=
  let c := s.tctx t ctx
  if c.sumped.any (fun x => x.seq == e.seq) then s.dropRecord t ctx e
  else (s.modCtx t ctx (fun c => c.drop e)).returnCredit c.region e.edge e.tok.weight

/-- A record returns to the store, where an entry can be had (R263, R267). -/
def State.returnRecord (s : State) (t ctx : Nat) (e : Entry) : State :=
  if s.canEnter t ctx e.colour 1 then
    { s.dropRecord t ctx e with fresh := s.fresh ++ [(t, ctx, e.slot)] }.modCtx t ctx (fun c => { c with store := c.store ++
      [{ e with spill := none, since := s.cycle }] })
  else s

/-- A set fires from the sump: the records that it takes leave the sump, and the STICKY records among those found return to the store
(R267). -/
def State.fireSump (s : State) (t ctx slot : Nat) (first : SetTok) (ps found : List Entry) : State :=
  let c := s.tctx t ctx
  let out := found.filter (fun e => ctlMact e.tok.ctl != 1 && (ps.any (fun x => x.seq == e.seq)))
  let s1 := out.foldl (fun st e => st.dropRecord t ctx e) s
  let s2 := s1.makeReady t ctx slot first ps
  let unstore := fun (x : OpSet) => if x.seq = s1.serial then
    { x with toks := x.toks.map (fun k => if out.any (fun e => e.port == k.port) then { k with stored := false } else k) } else x
  let s3 := s2.modCtx t ctx (fun c => { c with ready := c.ready.map unstore })
  (found.filter (fun e => ctlMact e.tok.ctl == 1 && c.sumped.any (fun x => x.seq == e.seq))).foldl (fun st e => st.returnRecord t ctx e) s3

/-- The set that a STICKY arrival completes with what is stored and what was found: its oldest CONSUME token, and its partners. -/
def TileCtx.stickySet (c : TileCtx) (slot port now : Nat) (h : Held) (found : List Entry) : Option (Entry × List Entry) :=
  let me : Entry := { kind := .token, slot := slot, port := port, tok := h.tok, seq := h.seq, cycle := h.cycle, edge := none, spill := none }
  let joined := { c with store := c.store ++ found.map (fun (e : Entry) => { e with since := 0 }) ++ [me] }
  (byArrival (found.filter (fun e => ctlMact e.tok.ctl == 0))).findSome? (fun e =>
    ({ joined with store := joined.store.filter (fun x => x.seq != e.seq) }.complete slot e.port now e.tok).map (fun ps => (e, ps)))

/-- The refill of a head token that its records have been read for (R267); a comparison of JON takes its records from the sump. -/
def State.refill (s : State) (tile ctx buf slot port : Nat) (h : Held) (found : List Entry) : State :=
  let c := s.tctx tile ctx
  let mact := ctlMact h.tok.ctl
  let kind := waKind (c.wordA slot)
  let colour := tagColour h.tok.tag
  let whole := kind = 1 || kind = 6 || kind = 11 || (kind = 8 && waFunc (c.wordA slot) = 0)
  let joined := { c with store := c.store ++ found.map (fun (e : Entry) => { e with since := 0 }) }
  let back := fun (st : State) => (found.filter (fun e => e.isToken)).foldl (fun st e => st.returnRecord tile ctx e) st
  if kind = 6 && mact == 0 && joined.jonCompletes slot port s.cycle h then s.jonMeets tile ctx slot port buf h
  else if whole then (back s).meet tile ctx buf colour mact false
  else match mact with
    | 0 =>
      (match joined.complete slot port s.cycle h.tok with
        | some ps => (s.takeHeld tile ctx buf h).fireSump tile ctx slot { port := port, tok := h.tok, stored := false, edge := h.src } ps found
        | none => (back s).meet tile ctx buf colour mact false)
    | 1 =>
      let same := found.filter (fun e => e.port == port && ctlMact e.tok.ctl == 1)
      let rest := found.filter (fun e => !same.any (fun x => x.seq == e.seq))
      let s1 := same.foldl (fun st e => st.dropRecord tile ctx e) s
      (match c.stickySet slot port s.cycle h rest with
        | some (e, ps) =>
          ((s1.dropRecord tile ctx e).fireSump tile ctx slot { port := e.port, tok := e.tok, stored := false, edge := none } ps rest).meet
            tile ctx buf colour mact false
        | none => (rest.foldl (fun st e => st.returnRecord tile ctx e) s1).meet tile ctx buf colour mact false)
    | _ =>
      let same := found.filter (fun e => e.port == port && ctlMact e.tok.ctl == 1)
      let s1 := same.foldl (fun st e => st.dropRecord tile ctx e) s
      let s2 := (found.filter (fun e => !same.any (fun x => x.seq == e.seq))).foldl (fun st e => st.returnRecord tile ctx e) s1
      if same.isEmpty then s2.meet tile ctx buf colour mact false
      else ((s2.takeHeld tile ctx buf h).returnCredit c.region h.src h.tok.weight).dropSticky tile ctx slot port h.tok.tag

/-- SUMP_REFILL (R267): the tile reads the sump for the head token of a colour in a buffer that its presence filter holds
back. -/
def execSumpRefill (tile ctx buf colour : Nat) (s : State) : Out :=
  let c := s.tctx tile ctx
  match c.portOf buf, c.headOf buf colour with
  | some (slot, port), some h =>
    if !c.live || s.swapHolds tile || !c.bucketHit h.tok.tag slot then .next s
    else
      let found := byArrival (c.sumped.filter (fun e => e.slot == slot && c.recTag e == h.tok.tag))
      if found.isEmpty then
        .next ((s.modCasement c.region colour false (fun g => { g with refill := sat32 (g.refill + 1) })).meet tile ctx buf colour
          (ctlMact h.tok.ctl) false)
      else .next (s.refill tile ctx buf slot port h found)
  | _, _ => .next s

end Sys2Proof.Machine
end

