-- ==== Sys2Proof/Machine/Lease.lean ====
section
/-! DEFINITION. The lease service (R127 to R139): page walks, leases, migration, frames; the memory-error ring (R143 to
R146); and LEASE and UNLEASE (R338, R339). -/

namespace Sys2Proof.Machine

/-! ### Reads and writes of the lease service and the root -/

/-- The lease service reads `n` bytes of plaintext that lie in one line, at their new place where their frame has migrated (R138).
DEDUCED: log entry 57. -/
def State.lsRead (s : State) (pa n : Nat) : Nat := View.bytes s.root.keys (s.view 16) 0 (s.redirect pa) n

/-- The lease service or the root writes `n` bytes in plaintext at a scope, at their new place where their frame has migrated (R138); its
own view applies them at once. -/
def State.serviceWrite (s : State) (sc : Scope) (pa n value : Nat) (whole : Bool) : State :=
  (unitPieces pa n).foldl (fun st p =>
    let o := { MemOp.empty leaseParty none with scope := sc }
    let r := { Req.make .write 0 (s.redirect (pa + p.1)) p.2 ((value >>> (8 * p.1)) % 2 ^ (8 * p.2)) 0 with whole := whole }
    let w := st.issueWrite o r
    w.2.deliver w.1 16) s

/-! ### The page walk (R127 to R129) -/

/-- How a walk ends: the leaf's address, its value and its page size; no valid entry; a malformed one. -/
inductive PageWalk where
  | leaf (entry pte size : Nat)
  | unmapped
  | malformed
  deriving DecidableEq, Repr

/-- `PTE.FRAME` as an address. -/
def pteFrame (e : Nat) : Nat := bitsAt e 51 16 * 65536
/-- `PTE.KEY`. -/
def pteKey (e : Nat) : Nat := bitsAt e 63 52
/-- `PTE.TIER`. -/
def pteTier (e : Nat) : Nat := bitsAt e 9 8
/-- `PTE.MIG`. -/
def pteMig (e : Nat) : Bool := e.testBit 7

/-- The lowest virtual-address bit that indexes a level's table (R128). -/
def levelShift (l : Nat) : Nat := if l = 0 then 16 else 12 + 9 * l

/-- Walk from a table of level `l` down (R128); the first argument is the levels left. A table whose address is not aligned to its size
is read where it stands: the spec does not list it as malformed. DESIGN CHOICE: log entry 77. -/
def walkFrom (rd : Nat → Nat) (va : Nat) : Nat → Nat → PageWalk
  | 0, _ => .malformed
  | l + 1, table =>
    let at_ := table + 8 * (va >>> levelShift l % (if l = 0 then 32 else 512))
    let e := rd at_
    if !e.testBit 0 then .unmapped
    else if e.testBit 1 then
      let size := 2 ^ levelShift l
      if 3 ≤ l || pteFrame e % size != 0 || 2 ≤ pteTier e then .malformed else .leaf at_ e size
    else if l = 0 then .malformed
    else walkFrom rd va l (bitsAt e 51 8 * 256)

/-- Walk a translation context's tables for an address (R127, R128), as they stand now: the lease service alone reads them (R130). An
invalid entry of the context array maps nothing. DESIGN CHOICE: log entry 77. -/
def State.pageWalk (s : State) (tctx va : Nat) : PageWalk :=
  let rd := fun pa => s.lsRead pa 8
  let e := rd (s.root.tctxb + 8 * tctx)
  if !e.testBit 0 then .unmapped else walkFrom rd va 5 (bitsAt e 51 12 * 4096)

/-! ### Resolving extents (R131, R133) -/

/-- The outcome of resolving an extent, or of a lease: granted, refused with a code, a page fault at an address, or a wait
for a migration. -/
inductive Resolved (α : Type) where
  | granted (x : α)
  | refused (status : Nat)
  | fault (va : Nat)
  | waits
  deriving Repr

/-- What an extent's pages have in common so far: the first page's base, key and tier, the next physical address, and the AND
of the stable bits. -/
structure Run4 where
  base : Nat
  key : Nat
  tier : Nat
  next : Nat
  stb : Bool
  deriving DecidableEq, Repr

/-- Is a key slot empty (R133, R471)? -/
def State.keyEmpty (s : State) (k : Nat) : Bool := k != 0 && !AMap.has s.root.keys k

/-- Is a range of the CXL pool mapped all through by the decoders (R122)? -/
def poolCovered (hdm : List Hdm) : Nat → Nat → Nat → Bool
  | 0, a, top => top ≤ a
  | n + 1, a, top => top ≤ a || (match hdm.find? (fun h => h.base ≤ a && a < h.base + h.size) with
    | some h => poolCovered hdm n (h.base + h.size) top
    | none => false)

/-- Does memory exist at every address of a range (R122)? -/
def State.rangeExists (s : State) (pa n : Nat) : Bool :=
  pa + n ≤ 0x400000000 || (0x1000000000 ≤ pa && pa + n ≤ 2 ^ 52 && poolCovered s.host.hdm s.host.hdm.length pa (pa + n))

/-- Do two ranges share an address? -/
def meets (a n b m : Nat) : Bool := a < b + m && b < a + n

/-- Is a part of a range reserved: an old frame that still redirects, or one that waits for its scrub (R138, R139)? -/
def State.frameHeld (s : State) (pa n : Nat) : Bool :=
  s.ls.redirects.any (fun r => meets pa n r.1 r.2.2) || s.ls.scrub.any (fun f => meets pa n f.1 f.2)

/-- Walk an extent's pages in ascending order (R133, check 3). A page whose frame still redirects or waits for its scrub makes the
lease wait (R138, R139). DEDUCED: log entry 57. -/
def State.resolvePages (s : State) (tctx top acc : Nat) :
    Nat → Nat → Option Run4 → Resolved Run4
  | 0, _, _ => .refused 0x04
  | fuel + 1, va, run =>
    match s.pageWalk tctx va with
    | .malformed => .refused 0x07
    | .unmapped => .fault va
    | .leaf _ e size =>
      let pa := pteFrame e + va % size
      let n := min (size - va % size) (top - va)
      let first := run.getD { base := pa, key := pteKey e, tier := pteTier e, next := pa, stb := true }
      if !e.testBit 4 || (acc = 1 && !e.testBit 5) then .refused 0x02
      else if s.keyEmpty (pteKey e) then .refused 0x06
      else if pa != first.next || pteKey e != first.key || pteTier e != first.tier then .refused 0x03
      else if !s.rangeExists pa n then .refused 0x04
      else if pteMig e || s.frameHeld pa n then .waits
      else
        let r := { first with next := pa + n, stb := first.stb && e.testBit 6 }
        if top ≤ va + n then .granted r else s.resolvePages tctx top acc fuel (va + n) (some r)

/-- The extent matches a current base-model digest (R470). -/
def State.digestCurrent (s : State) (d : Nat) : Bool := (upTo 16).any (fun k => s.lsRead (s.root.bmdb + 64 * k) 64 == d)

/-- Resolve one declared extent (R131, R133). One whose end lies beyond 2^57 has status 0x04. DESIGN CHOICE: log entry 87. -/
def State.resolve (s : State) (img : RegionImage) (d : ExtDecl) (tctx lease : Nat) : Resolved Extent :=
  if d.vbase % 64 != 0 || d.size % 64 != 0 || d.size = 0 || 2 ^ 57 < d.vbase + d.size then .refused 0x04
  else if d.adp && !(img.digests[d.dig]?).any s.digestCurrent then .refused 0x05
  else match s.resolvePages tctx (d.vbase + d.size) d.acc (d.size / 65536 + 2) d.vbase none with
    | .granted r =>
      .granted { vbase := d.vbase, size := d.size, pbase := r.base, key := r.key, rd := true, wr := d.acc = 1, stb := r.stb,
                 tier := r.tier, adp := d.adp, lease := lease, valid := true }
    | .refused st => .refused st
    | .fault va => .fault va
    | .waits => .waits

/-- Resolve declared extents in index order. -/
def State.resolveAll (s : State) (img : RegionImage) (tctx lease : Nat) :
    AMap ExtDecl → AMap Extent → Resolved (AMap Extent)
  | [], acc => .granted acc
  | (k, d) :: rest, acc =>
    match s.resolve img d tctx lease with
    | .granted e => s.resolveAll img tctx lease rest (AMap.put acc k e)
    | .refused st => .refused st
    | .fault va => .fault va
    | .waits => .waits

/-! ### Leases (R133, R134) -/

/-- Find a lease. -/
def State.lease (s : State) (n : Nat) : Option Lease := s.ls.leases.find? (fun l => l.num == n)

/-- `IFCB.REG`. -/
def ifRegion (i : Iface) : Nat := bitsAt i.cb.toNat 5 0
/-- `IFCB.COL`. -/
def ifColour (i : Iface) : Nat := bitsAt i.cb.toNat 15 6
/-- `IFEXT.TCTX`. -/
def ifTctx (i : Iface) : Nat := bitsAt i.ext.toNat 27 16
/-- `IFKEY.SLOT`. -/
def ifKey (i : Iface) : Nat := bitsAt i.key.toNat 11 0

/-- Is the interface locked or running, with the colour bound (R473)? -/
def Iface.binds (i : Iface) (region colour : Nat) : Bool :=
  (i.st == 1 || i.st == 2) && ifRegion i == region && ifColour i == colour

/-- May a colour lease extent declaration `k`: does no interface that is locked or running and binds it leave the declaration out of
`IFEXT.MASK` (R472)? DEDUCED: log entry 39. -/
def State.mayLease (s : State) (region colour k : Nat) : Bool :=
  s.host.ifaces.all (fun i => !i.2.binds region colour || i.2.ext.toNat.testBit k)

/-- The extent declarations that a colour leases (R338, R472). -/
def State.leasable (s : State) (region colour : Nat) : AMap ExtDecl :=
  (s.region region).image.decls.filter (fun d => s.mayLease region colour d.1)

/-- Has the host answered a page fault of a request with a verdict, or with none yet (R463)? -/
def State.faultIs (s : State) (req : Nat) (verdict : Option Bool) : Bool :=
  s.ls.faults.any (fun f => f.cmd == req && f.verdict == verdict)

/-- Resolve a colour's lease for a request (R130, R133, R463): a declined page fault refuses it and an unanswered one keeps it waiting;
else the row word's key first, then the extents, from the tables as they stand. What
it grants is kept with the lease, which a later change to a table does not reach. `req` is the request's number. -/
def State.tryLease (s : State) (region colour tctx key req : Nat) : Resolved (AMap Extent) :=
  if s.faultIs req (some false) then .refused 0x01
  else if s.faultIs req none then .waits
  else if s.keyEmpty key then .refused 0x06
  else s.resolveAll (s.region region).image tctx s.ls.next (s.leasable region colour) []

/-- A page fault for a request (R133, R463): an event, once, until the host answers. A page that the host has called mapped
and that is still unmapped faults again. -/
def State.pageFault (s : State) (req va tctx : Nat) : State :=
  if s.ls.faults.any (fun f => f.cmd == req && f.va == va && f.verdict == none) then s
  else
    let q := s.stampFor 17 * 64 + 17
    let s1 := s.postEvent 17 1 (va % 2 ^ 57 + tctx % 4096 * 2 ^ 64 + req % 2 ^ 32 * 2 ^ 96)
    let rest := s1.ls.faults.filter (fun f => !(f.cmd == req && f.va == va))
    { s1 with ls := { s1.ls with faults := rest ++ [{ num := q, cmd := req, va := va, tctx := tctx, verdict := none }] } }

/-- The free list without the frames that a range takes. -/
def LeaseService.take (l : LeaseService) (pa n : Nat) : LeaseService := { l with free := l.free.filter (fun f => !meets pa n f.1 f.2) }

/-- Grant a lease: it takes the next number, the colour holds it, and its frames are not on the free list. -/
def State.grantLease (s : State) (region colour tctx key home : Nat) (x : AMap Extent) : State :=
  let l : Lease := { num := s.ls.next, region := region, colour := colour, tctx := tctx, key := key, home := home, extents := x,
                     revoked := false }
  let ls := x.foldl (fun (a : LeaseService) e => a.take e.2.pbase e.2.size) s.ls
  { s with ls := { ls with leases := s.ls.leases ++ [l], next := s.ls.next + 1 } }.modColour region colour
    (fun c => { c with lease := some l.num })

/-- A lease ends (R134, R339): its colour no longer holds it, and its extents leave every slot's table. -/
def State.endLease (s : State) (n : Nat) : State :=
  let regions := s.regions.map (fun r => (r.1, { r.2 with
    colours := r.2.colours.map (fun c => (c.1, if c.2.lease = some n then { c.2 with lease := none } else c.2)) }))
  let cores := s.cores.map (fun c => (c.1, { c.2 with extents := c.2.extents.filter (fun e => e.2.lease != n) }))
  { s with regions := regions, cores := cores, ls := { s.ls with leases := s.ls.leases.filter (fun l => l.num != n) } }

/-- The colour row of an image that holds a colour (R444). -/
def RegionImage.row (i : RegionImage) (c : Nat) : Option ColourRow := i.rows.find? (fun r => r.first ≤ c && c ≤ r.last)

/-! ### LEASE and UNLEASE (R338, R339) -/

/-- `CROW.TCTX`. -/
def rowTctx (w : Word) : Nat := bitsAt w.toNat 27 16
/-- `CROW.KEY`. -/
def rowKey (w : Word) : Nat := bitsAt w.toNat 39 28

/-- Does a locked or running interface that binds a colour refuse a row, whose translation context or key is not the
frozen one (R473)? DEDUCED: log entry 39. -/
def State.rowFrozen (s : State) (region colour : Nat) (w : Word) : Bool :=
  s.host.ifaces.any (fun i => i.2.binds region colour && !(ifTctx i.2 == rowTctx w && ifKey i.2 == rowKey w))

/-- The granted extents go into the slot's own table where `FSEL.SLT` asks for it (R338). -/
def State.placeExtents (s : State) (p : Nat) (slt : Bool) (x : AMap Extent) : State :=
  if slt && !((s.core p).run == .empty) then
    s.modCore p (fun k => { k with extents := x.foldl (fun t e => AMap.put t e.1 e.2) [] }) else s

/-- What a LEASE comes to now: a status and a lease number, or nothing yet (R338). A revoked lease (R134) is not returned
again: the request is resolved anew (R480). DEDUCED: log entry 63. -/
def State.leaseTurn (s : State) (c : Cmd) (row : Word) (slt : Bool) : State :=
  let r := s.region c.region
  let k := r.colour c.colour
  let held := (k.lease.bind s.lease).filter (fun l => !l.revoked)
  let same := fun (t y : Nat) => t == rowTctx row && y == rowKey row
  if r.gen != c.gen then s.finishCmd c 0x28 0
  else if r.state == .unloaded then s.finishCmd c 0x21 0
  else if (r.image.row c.colour).isNone then s.finishCmd c 0x18 0
  else if s.rowFrozen c.region c.colour row || (k.state = 1 && !same k.tctx k.key) then s.finishCmd c 0x24 0
  else match held with
    | some l =>
      if same l.tctx l.key then (s.placeExtents c.core slt l.extents).finishCmd c 0 l.num else s.finishCmd c 0x24 0
    | none =>
      match s.tryLease c.region c.colour (rowTctx row) (rowKey row) c.id with
      | .refused st => s.finishCmd c st 0
      | .fault va => s.pageFault c.id va (rowTctx row)
      | .waits => s
      | .granted x =>
        let n := s.ls.next
        let s1 := s.grantLease c.region c.colour (rowTctx row) (rowKey row) c.gal x
        (s1.placeExtents c.core slt x).finishCmd c 0 n

/-- LEASE (R338): a request to the lease service. -/
def execLease (o : Operands) (s : State) : Out :=
  issue { Use.onSeq with xs := [o.a, o.b], c := o.c, t := o.t } s (fun rd s1 =>
    .next (s1.holdCmd o (rd o.a) (.lease (rd o.b) (selSlt (rd o.a)))))

/-- LEASE_COMPLETE (R133, R338): the lease service takes up a waiting LEASE, and grants it, refuses it, reports a page
fault or leaves it waiting. -/
def execLeaseComplete (cmd : Nat) (s : State) : Out :=
  match s.cmd cmd with
  | none => .next s
  | some c =>
    match c.kind with
    | .lease row slt => .next (s.leaseTurn c row slt)
    | _ => .next s

/-- UNLEASE (R339). -/
def execUnlease (o : Operands) (s : State) : Out :=
  issue { Use.onSeq with xs := [o.a], c := o.c, t := o.t } s (fun rd s1 =>
    let n := bitsAt (rd o.a).toNat 31 0
    match s1.lease n with
    | none => s1.answer o 0x2B 0
    | some l => if l.home = s1.galleryOf s1.cur then .next (s1.holdCmd o 0 (.unlease n)) else s1.answer o 0x2B 0)

/-- Does some admitted instance hold the lease? -/
def State.leaseInUse (s : State) (n : Nat) : Bool :=
  s.regions.any (fun r => r.2.insts.any (fun i => i.extents.any (fun e => e.2.lease == n)))

/-- UNLEASE_END (R328, R339): the lease ends once no admitted instance holds it; one that has ended meanwhile is unknown. -/
def execUnleaseEnd (cmd : Nat) (s : State) : Out :=
  match s.cmd cmd with
  | none => .next s
  | some c =>
    match c.kind with
    | .unlease n =>
      if (s.lease n).isNone then .next (s.finishCmd c 0x2B 0)
      else if s.leaseInUse n then .next s else .next ((s.endLease n).finishCmd c 0 0)
    | _ => .next s

/-! ### Migration (R136 to R138) -/

/-- How many lines a migration moves. -/
def Migration.lines (m : Migration) : Nat := m.size / 64

/-- A number that changes with every write applied to a line in a view. -/
def View.lineAge (v : View) (line : Nat) : Nat :=
  ((upTo 64).map (fun i =>
    let t := v.stampAt (64 * line + i)
    (clockSum t.clock * 32 + t.dom) * 2 ^ 64 + t.num)).sum

/-- The age of line `k` of a migration's source, at the line's home, where its writes and atomics are performed (R136, R137). -/
def State.sourceAge (s : State) (m : Migration) (k : Nat) : Nat :=
  (s.view (s.homeDomain (m.src + 64 * k))).lineAge (m.src / 64 + k)

/-- The lines of a migration that have been written since they were copied, or never copied (R136, R137). -/
def State.markedLines (s : State) (m : Migration) : List Nat :=
  (upTo m.lines).filter (fun k => AMap.find m.copied k != some (s.sourceAge m k))

/-- Does a lease hold a part of the frame (R134)? -/
def State.frameLeased (s : State) (base size : Nat) : Bool :=
  s.ls.leases.any (fun l => l.extents.any (fun e => e.2.pbase < base + size && base < e.2.pbase + e.2.size))

/-- The tier in which a frame lies (R122, R127): 0 the Cistern, 1 the CXL pool. -/
def tierOf (frame : Nat) : Nat := if frame < 0x1000000000 then 0 else 1

/-- MIGRATION_START (R136): a leaf that no lease holds starts to migrate to a frame of a tier. -/
def execMigrationStart (tctx va frame tier : Nat) (s : State) : Out :=
  match s.pageWalk tctx va with
  | .leaf at_ e size =>
    if pteMig e || s.frameLeased (pteFrame e) size || frame % size != 0 || tier != tierOf frame || !s.rangeExists frame size ||
        s.frameHeld frame size || s.frameLeased frame size then .next s
    else
      let m : Migration := { id := s.serial, pte := at_, src := pteFrame e, dst := frame, size := size, tier := tier, round := 0,
                             began := s.cycle, copied := [] }
      let s1 := (s.bump).serviceWrite .system at_ 8 (e + 2 ^ 7) false
      .next { s1 with ls := { s1.ls.take frame size with migrations := s1.ls.migrations ++ [m] } }
  | _ => .next s

/-- Change a migration. -/
def State.modMigration (s : State) (id : Nat) (f : Migration → Migration) : State :=
  { s with ls := { s.ls with migrations := s.ls.migrations.map (fun m => if m.id == id then f m else m) } }

/-- MIGRATION_ROUND (R136): the lines not copied, or written since, are copied. -/
def execMigrationRound (id : Nat) (s : State) : Out :=
  match s.ls.migrations.find? (fun m => m.id == id) with
  | none => .next s
  | some m =>
    if 8 ≤ m.round then .next s
    else
      .next (s.modMigration id (fun x =>
        { x with
          round := x.round + 1
          copied := (s.markedLines m).foldl (fun c k => AMap.put c k (s.sourceAge m k)) x.copied }))

/-- Move one line in a view, with its value as the page's key reads it, its stamps, its poison and its descriptor (R48, R136). What the
host has written as ciphertext is so encrypted anew for the new address (R141). -/
def View.moveLine (v : View) (tag src dst : Nat) : View :=
  let m1 := Memory.writeN v.mem (64 * dst) 64 (v.lineAs tag src)
  let stamps := foldUp (fun i st => AMap.put st (64 * dst + i) (v.stampAt (64 * src + i))) 64 v.stamps
  { mem := Memory.writeN m1 (descAddr dst) 2 (Memory.readN v.mem (descAddr src) 2)
    stamps := foldUp (fun i st => AMap.put st (poisonAddr (64 * dst + 8 * i)) (v.stampAt (poisonAddr (64 * src + 8 * i)))) 8
      (AMap.put stamps (descAddr dst) (v.stampAt (descAddr src)))
    poison := if AMap.get 0 v.poison src = 0 then AMap.erase v.poison dst else AMap.put v.poison dst (AMap.get 0 v.poison src)
    tags := if AMap.has v.tags src then AMap.put v.tags dst { fill := tag, since := Stamp.null, own := [] }
      else AMap.erase v.tags dst }

/-- Move a frame's lines in a view. -/
def View.moveFrame (v : View) (tag src dst lines : Nat) : View :=
  foldUp (fun k x => x.moveLine tag (src / 64 + k) (dst / 64 + k)) lines v

/-- An extent that a slot holds without a lease follows a migration of a part of it (R48, R138). -/
def Extent.migrate (e : Extent) (src dst size : Nat) : Extent :=
  let held := (upTo (e.size / 65536 + 2)).any (fun k =>
    let pa := e.place (e.vbase + min (65536 * k) (e.size - 1))
    src ≤ pa && pa < src + size)
  if e.valid && held then { e with moved := e.moved ++ [(src, dst, size)] } else e

/-- The reads that a run was served without a merge follow a migration (R55). -/
def ReadMark.migrate (m : ReadMark) (src dst size : Nat) : ReadMark := { m with pa := movedAddr src dst size m.pa }

/-- What is still to be made for a request, or for a range that a unit walks, follows a migration. -/
def Req.migrate (r : Req) (src dst size : Nat) : List Req :=
  (movedParts src dst size (r.pa, r.size)).map (fun q => { r with pa := q.1, size := q.2 })

/-- An operation's requests, made and still to make, follow a migration. -/
def MemOp.migrate (o : MemOp) (src dst size : Nat) : MemOp :=
  { o with
    reqs := o.reqs.map (fun r => { r with pa := movedAddr src dst size r.pa })
    future := o.future.flatMap (fun r => r.migrate src dst size) }

/-- The record that a CMIT has still to write follows a migration. -/
def CmdKind.migrate (k : CmdKind) (src dst size : Nat) : CmdKind :=
  match k with
  | .cmit draws cnt ent tok addr rec => .cmit draws cnt ent tok addr (movedAddr src dst size rec.1, rec.2)
  | k => k

/-- The extents of a table follow a migration. -/
def migrateExtents (x : AMap Extent) (src dst size : Nat) : AMap Extent := x.map (fun e => (e.1, e.2.migrate src dst size))

/-- What a slot holds of a page follows a migration: the extents of its table, of its code and of its image, and its reads. -/
def Core.migrate (c : Core) (src dst size : Nat) : Core :=
  { c with
    extents := migrateExtents c.extents src dst size
    firing := { c.firing with trace := { c.firing.trace with reads := c.firing.trace.reads.map (fun m => m.migrate src dst size) } }
    codeExtent := c.codeExtent.migrate src dst size
    image := c.image.map (fun e => e.migrate src dst size) }

/-- The tag of the key of a migrating page. -/
def State.pageTag (s : State) (m : Migration) : Nat := keyTag s.root.keys (pteKey (s.lsRead m.pte 8))

/-- The home moves (R48, R136, R138): the views' lines, the requests and writes on their way, the extents of the slots and of the copies,
and the leaf in one write; the old frame redirects. -/
def State.commitMigration (s : State) (m : Migration) : State :=
  let f := movedAddr m.src m.dst m.size
  let s1 := s.mapViews (fun v => v.moveFrame (s.pageTag m) m.src m.dst m.lines)
  let s2 := { s1 with
    cores := s1.cores.map (fun (c : Nat × Core) => (c.1, c.2.migrate m.src m.dst m.size))
    root := { s1.root with load := s1.root.load.map (fun (l : Load) => { l with img := l.img.map (fun (e : Extent) => e.migrate m.src m.dst m.size) }) }
    copies := s1.copies.map (fun (c : Copy) => { c with extents := migrateExtents c.extents m.src m.dst m.size })
    cmds := s1.cmds.map (fun (c : Cmd) => { c with kind := c.kind.migrate m.src m.dst m.size })
    host := { s1.host with reads := s1.host.reads.map (fun (x : ReadMark) => x.migrate m.src m.dst m.size) }
    z := { s1.z with
      ops := s1.z.ops.map (fun (o : MemOp) => o.migrate m.src m.dst m.size)
      writes := s1.z.writes.map (fun (w : WriteRec) => { w with pa := f w.pa }) }
    ls := { s1.ls with
      migrations := s1.ls.migrations.filter (fun x => x.id != m.id)
      redirects := s1.ls.redirects ++ [(m.src, m.dst, m.size)] } }
  let e := s.lsRead m.pte 8
  let pte := pteKey e * 2 ^ 52 + m.dst / 65536 % 2 ^ 36 * 2 ^ 16 + bitsAt e 15 10 * 2 ^ 10 + m.tier * 2 ^ 8 + e % 2 ^ 7
  s2.serviceWrite .system m.pte 8 pte false

/-- Is a write to the source on its way under another key than the page's, as the host's ciphertext is (R141)? The final round waits for
it. -/
def State.foreignWrite (s : State) (m : Migration) : Bool :=
  s.z.writes.any (fun w => meets m.src m.size w.pa w.size && w.key != s.pageTag m)

/-- MIGRATION_COMMIT (R136): the final round, once no more than 256 lines are marked; no lease holds the page. -/
def execMigrationCommit (id : Nat) (s : State) : Out :=
  match s.ls.migrations.find? (fun m => m.id == id) with
  | none => .next s
  | some m =>
    if m.round = 0 || 256 < (s.markedLines m).length || s.frameLeased m.src m.size || s.foreignWrite m then .next s
    else .next (s.commitMigration m)

/-- MIGRATION_ABANDON (R136): after eight rounds more than 256 lines are still marked. -/
def execMigrationAbandon (id : Nat) (s : State) : Out :=
  match s.ls.migrations.find? (fun m => m.id == id) with
  | none => .next s
  | some m =>
    if m.round < 8 || (s.markedLines m).length ≤ 256 then .next s
    else
      let e := s.lsRead m.pte 8
      let s1 := s.serviceWrite .system m.pte 8 (if pteMig e then e - 2 ^ 7 else e) false
      .next { s1 with
        ls := { s1.ls with migrations := s1.ls.migrations.filter (fun x => x.id != id) }
        root := { s1.root with abandoned := s1.root.abandoned + 1 } }

/-! ### Frames (R138, R139) -/

/-- Is a write to a part of a range still on its way to some view? -/
def State.landing (s : State) (pa n : Nat) : Bool := s.z.writes.any (fun w => meets pa n w.pa w.size)

/-- Is a write to a part of a range on its way, or asked for and not issued yet? -/
def State.inFlight (s : State) (pa n : Nat) : Bool :=
  s.landing pa n || s.z.ops.any (fun o => (o.reqs ++ o.future).any (fun r => r.writes && meets pa n r.pa r.size))

/-- Can a frame of 64 KiB be freed: it is memory that no lease holds, no migration uses, and that is not freed already (R134, R138,
R139)? -/
def State.canFree (s : State) (frame : Nat) : Bool :=
  frame % 65536 = 0 && s.rangeExists frame 65536 && !s.frameLeased frame 65536 && !s.frameHeld frame 65536 &&
    !s.ls.migrations.any (fun m => meets frame 65536 m.src m.size || meets frame 65536 m.dst m.size) &&
    !s.ls.free.any (fun f => meets frame 65536 f.1 f.2)

/-- OLD_FRAME_RELEASE (R138, R139): the host has acknowledged the new mapping, and the old frame waits for its scrub; or a frame that a
colour has freed does. DEDUCED: log entry 57. -/
def execOldFrameRelease (frame : Nat) (s : State) : Out :=
  match s.ls.redirects.find? (fun r => r.1 == frame) with
  | none => if s.canFree frame then .next { s with ls := { s.ls with scrub := s.ls.scrub ++ [(frame, 65536)] } } else .next s
  | some (o, n, size) =>
    .next { s with ls := { s.ls with
      redirects := s.ls.redirects.filter (fun r => !(r.1 == o && r.2.1 == n))
      scrub := s.ls.scrub ++ [(o, size)] } }

/-- Does a sump's token refer to the frame: a logged address inside it (R139, R241)? -/
def refersTo (base size : Nat) (t : Token) : Bool :=
  ctlPoison t.ctl && ctlPa t.ctl && base ≤ bitsAt t.payload.toNat 51 0 && bitsAt t.payload.toNat 51 0 < base + size

/-- The sumps' records that refer to a frame are discarded (R139). -/
def State.dropReferring (s : State) (b n : Nat) : State :=
  s.tiles.foldl (fun st t => t.2.ctxs.foldl (fun st2 c =>
    (c.2.sumped.filter (fun e => refersTo b n e.tok)).foldl (fun st3 e => st3.dropRecord t.1 c.1 e) st2) st) s

/-- FRAME_SCRUB (R139): zero marks and default descriptors in every view, the read-only caches' and the sumps' entries
dropped, and the frame on the free list; once no write to the frame is on its way. DEDUCED: log entry 57. -/
def execFrameScrub (frame : Nat) (s : State) : Out :=
  match s.ls.scrub.find? (fun f => f.1 == frame) with
  | none => .next s
  | some (b, n) =>
    if s.inFlight b n then .next s else
    let s1 := s.mapViews (fun v => v.scrub b n)
    let s2 := (upTo 16).foldl (fun st g => st.roDrop g (fun e => b ≤ e.pa && e.pa < b + n)) s1
    let s3 := s2.dropReferring b n
    .next { s3 with ls := { s3.ls with scrub := s3.ls.scrub.filter (fun f => f.1 != frame), free := s3.ls.free ++ [(b, n)] } }

/-! ### The memory-error ring (R143 to R146) -/

/-- A count that saturates at 0xFFFF. -/
def sat16 (n : Nat) : Nat := min n 0xFFFF

/-- CORRECTED_ERROR (R143): counted. -/
def execCorrectedError (s : State) : Out := .next { s with root := { s.root with merrCe := sat16 (s.root.merrCe + 1) } }

/-- Append a memory-error record (R145, R146), and report it to the host (R494). DEDUCED: log entry 58. -/
def State.appendError (s : State) (kind level addr : Nat) : State :=
  let (q, s1) := s.takeSeq 18
  let r := addr % 2 ^ 52 + level % 16 * 2 ^ 52 + kind * 2 ^ 56 + q % 2 ^ 64 * 2 ^ 64
  let h := s1.root.merrHead
  let s2 := s1.serviceWrite .device (s1.root.merrb + 16 * h) 16 r false
  { s2 with
    root := { s2.root with
      merrUe := sat16 (s2.root.merrUe + 1)
      merrHead := (h + 1) % 256
      merrOvf := s2.root.merrOvf || s2.root.merrHeld = 256
      merrHeld := min 256 (s2.root.merrHeld + 1) }
    host := { s2.host with events := s2.host.events ++ [{ src := 18, kind := 2, num := q, data := r }] } }

/-- Poison a line in the views whose bits are set. -/
def State.poisonLine (s : State) (views pa : Nat) : State :=
  ((upTo 20).filter (fun d => views.testBit d)).foldl (fun st d =>
    st.setView d ((st.view d).setPoison (pa / 64) 0xFF)) s

/-- UNCORRECTABLE_ERROR (R144, R145): the line is poisoned where the error is found. Levels 0, 1, 4 and 5 name the views that
read the damaged copy; level 2 a gallery's read-only cache; level 3 a tile's local memory; level 6 a matching-store entry or
a token of a tile's pools, by its place in arrival order. -/
def execUncorrectableError (level views addr : Nat) (s : State) : Out :=
  let tile := bitsAt addr 51 32
  let off := bitsAt addr 20 0
  let spoil := fun (t : Token) => { t with ctl := t.ctl ||| 4 }
  let s1 : State := match level with
    | 2 => { s with z := { s.z with roCache := s.z.roCache.map (fun (g : Nat × List RoEntry) => (g.1, if views.testBit g.1 then
        g.2.map (fun e => if e.pa / 64 = addr / 64 then { e with poisoned := true } else e) else g.2)) } }
    | 3 => s.modTile tile (fun t => { t with locPoison := writePoison t.locPoison (off / 64 * 64) 64 true })
    | 6 => s.modTile tile (fun t => { t with ctxs := t.ctxs.map (fun (c : Nat × TileCtx) => (c.1, { c.2 with
        store := c.2.store.map (fun e => if e.seq = off then { e with tok := spoil e.tok } else e)
        buffers := c.2.buffers.map (fun b => (b.1, b.2.map (fun h => if h.seq = off then { h with tok := spoil h.tok } else h))) })) })
    | _ => s.poisonLine views addr
  if level ≤ 6 then .next (s1.appendError 0x02 level addr) else .next s

/-- CXL_POISON_REPORT (R143, R145): the device's line is poisoned in every view. -/
def execCxlPoisonReport (addr : Nat) (s : State) : Out :=
  if s.paExists addr && 0x1000000000 ≤ addr then .next ((s.poisonLine (2 ^ 20 - 1) addr).appendError 0x03 5 addr) else .next s

end Sys2Proof.Machine
end

