-- ==== Sys2Proof/Machine/Oper.lean ====
section
/-! DEFINITION. The operators of the fabric but for LDM, STM and GAT: the arbiter (R24, R25), what all firings share
(R281, R248, R273), MAP, RED, NRM, LUT, STE, MRG, JON, GEN and TAG (R283 to R298). -/

namespace Sys2Proof.Machine

/-! ### The arbiter (R24, R25) -/

/-- The slot's tile lets it issue: its context is active and its region not pre-empted (R31), the tile not fenced or held by a swap
(R318, R423). -/
def State.slotRuns (s : State) (t ctx : Nat) : Bool :=
  let c := s.tctx t ctx
  c.state == .active && !(s.region c.region).preempting && !(s.tile t).fenced && !s.swapHolds t

/-- Is the output stage empty for the edges of some of a slot's outputs (R281)? -/
def TileCtx.outsFree (c : TileCtx) (slot : Nat) (outs : List Nat) : Bool :=
  outs.all (fun k => waOut (c.wordA slot) k = 0xFF || (AMap.get [] c.stage (waOut (c.wordA slot) k)).isEmpty)

/-- The slot may issue a firing that writes both its outputs. -/
def State.slotOpen (s : State) (t ctx slot : Nat) : Bool := s.slotRuns t ctx && (s.tctx t ctx).outsFree slot [0, 1]

/-- The order of the arbiter within a colour: completed first, then the lower port of a merge by arrival (R294), then the lower tag,
then arrival. -/
def OpSet.before (a b : OpSet) : Bool :=
  a.cycle < b.cycle || (a.cycle == b.cycle && (a.rank < b.rank || (a.rank == b.rank && (tagNest a.lead.tag < tagNest b.lead.tag ||
    (tagNest a.lead.tag == tagNest b.lead.tag && a.seq < b.seq)))))

/-- The set that goes first. -/
def firstSet (l : List OpSet) : Option OpSet :=
  l.foldl (fun b x => match b with
    | none => some x
    | some y => if x.before y then some x else some y) none

/-- Insert a set in the order of age. -/
def insertSet (x : OpSet) : List OpSet → List OpSet
  | [] => [x]
  | y :: ys => if x.before y then x :: y :: ys else y :: insertSet x ys

/-- The colours of some ready sets, the oldest set's first. -/
def agedColours (l : List OpSet) : List Nat := (l.foldr insertSet []).map (fun x => x.colour)

/-- The next set of a slot and colour. -/
def TileCtx.nextSet (c : TileCtx) (slot colour : Nat) : Option OpSet :=
  firstSet (c.ready.filter (fun x => x.slot == slot && x.colour == colour))

/-- Is a colour of a region killed: it starts no firing any more (R156, R337)? DEDUCED: log entry 31. -/
def State.killed (s : State) (region colour : Nat) : Bool := ((s.region region).colour colour).state == 3

/-- An arbiter's colours in the order in which they take their opportunities, with what each has used in its round (R24): those that
were ready before, then the newly ready ones, the oldest first. The colours that have no firing ready yield. So a colour waits at most
for one round of the colours that were ready when it became so (R25). -/
def TileCtx.rota (c : TileCtx) (arbiter : Nat) (ready : List Nat) : List (Nat × Nat) :=
  let old := (AMap.get [] c.turn arbiter).filter (fun e => ready.contains e.1)
  old ++ ((ready.filter (fun k => !old.any (fun e => e.1 == k))).eraseDups).map (fun k => (k, 0))

/-- May a colour take the arbiter's next opportunity (R24)? `ready` lists the colour of every ready firing, the oldest first. A killed
colour has no part in it (R337), and an operator slot issues at most one firing a cycle. DEDUCED: log entry 10. -/
def State.turnOk (s : State) (c : TileCtx) (arbiter colour : Nat) (ready : List Nat) : Bool :=
  (24 ≤ arbiter || AMap.get 0 c.issuedAt arbiter ≤ s.cycle) &&
    ((c.rota arbiter (ready.filter (fun k => !s.killed c.region k))).head?).map Prod.fst == some colour

/-- A slot has issued in this cycle (R24), or emitted (R297). -/
def State.noteSlot (s : State) (t ctx slot : Nat) : State :=
  s.modCtx t ctx (fun c => { c with issuedAt := AMap.put c.issuedAt slot (s.cycle + 1) })

/-- A colour takes its opportunity: the next is its own while its quota lasts and it has a further firing ready; then its turn comes
last. -/
def State.takeTurn (s : State) (t ctx arbiter colour : Nat) (ready : List Nat) : State :=
  let c := s.tctx t ctx
  let more : Bool := 2 ≤ ready.count colour
  let s := s.noteSlot t ctx arbiter
  match (c.rota arbiter (ready.filter (fun k => !s.killed c.region k))).dropWhile (fun e => e.1 != colour) with
  | [] => s
  | (k, n) :: rest =>
    let next := if !more then rest else if n + 1 < max 1 ((s.region c.region).colour colour).quota then (k, n + 1) :: rest
      else rest ++ [(k, 0)]
    s.modCtx t ctx (fun c => { c with turn := AMap.put c.turn arbiter next })

/-- The colours of a slot's ready sets, the oldest first. -/
def TileCtx.readyOn (c : TileCtx) (slot : Nat) : List Nat := agedColours (c.ready.filter (fun x => x.slot == slot))

/-- A set fires (R249, R264, R303): it leaves, its members' credits return, and the colour's stall time starts again. -/
def State.takeSet (s : State) (t ctx : Nat) (x : OpSet) : State :=
  let c := s.tctx t ctx
  let s1 := s.modCtx t ctx (fun c => { c with
    ready := c.ready.filter (fun y => y.seq != x.seq)
    lastFire := AMap.put c.lastFire x.colour s.cycle })
  x.toks.foldl (fun st k => st.returnCredit c.region k.edge k.tok.weight) (s1.takeTurn t ctx x.slot x.colour (c.readyOn x.slot))

/-- The next set of a colour on a slot of a kind, where the arbiter gives the colour the turn (R24) and the output stage is empty for
the outputs that the firing writes (R281). -/
def State.nextFiring (s : State) (t ctx slot colour kind : Nat) (writes : OpSet → List Nat) : Option OpSet :=
  let c := s.tctx t ctx
  if !s.slotRuns t ctx || waKind (c.wordA slot) != kind || !AMap.has c.slots slot || !s.turnOk c slot colour (c.readyOn slot) then none
  else match c.nextSet slot colour with
    | none => none
    | some x => if c.outsFree slot (writes x) then some x else none

/-- Issue the next set of a colour on a slot of a kind, and do with it what the kind does; `writes` says which outputs it writes. -/
def State.fireSet (s : State) (t ctx slot colour kind : Nat) (writes : OpSet → List Nat) (k : OpSet → State → State) : Out :=
  match s.nextFiring t ctx slot colour kind writes with
  | none => .next s
  | some x => .next (k x (s.takeSet t ctx x))

/-- The same for a kind whose firings write both outputs. -/
def State.fireSlot (s : State) (t ctx slot colour kind : Nat) (k : OpSet → State → State) : Out :=
  s.fireSet t ctx slot colour kind (fun _ => [0, 1]) k

/-- The active context of a tile; 4 where none is. -/
def State.activeCtx (s : State) (t : Nat) : Nat := (findUp (fun k => (s.tctx t k).live) 4).getD 4

/-! ### Outputs (R241, R248, R273, R281) -/

/-- The first poisoned member of a set, in port order. -/
def OpSet.poison (x : OpSet) : Option Token := (x.toks.find? (fun k => ctlPoison k.tok.ctl)).map (fun k => k.tok)

/-- The merged clocks of a set's members, which its outputs carry (R44). -/
def OpSet.clock (x : OpSet) : Clock := x.toks.foldl (fun c k => clockMerge c k.tok.clock) []

/-- A token that a poisoned operand has poisoned: it carries the operand's logged address, or nothing (R248). -/
def Token.poisonedBy (t : Token) (p : Token) : Token :=
  { t with
    ctl := mkCtl (ctlErr t.ctl) (ctlPa p.ctl) (ctlKind t.ctl) (ctlLast t.ctl) true (ctlMact t.ctl)
    payload := if ctlPa p.ctl then BitVec.ofNat 512 (p.payload.toNat % 2 ^ 52) else 0 }

/-- A token poisoned without an address. -/
def Token.spoiled (t : Token) : Token := { t with ctl := mkCtl (ctlErr t.ctl) false (ctlKind t.ctl) (ctlLast t.ctl) true (ctlMact t.ctl) }

/-- Poison a token where the set has a poisoned member. -/
def Token.poisonIf (t : Token) (p : Option Token) : Token :=
  match p with
  | none => t
  | some q => t.poisonedBy q

/-- Send a token on an output of a slot, if the output has an edge. DEDUCED: log entry 59. -/
def State.sendOut (s : State) (t ctx slot which : Nat) (tok : Token) : State :=
  let e := waOut ((s.tctx t ctx).wordA slot) which
  if e = 0xFF then s else s.emitOn t ctx e tok

/-- An output token of a firing: the tag, `WORDA.MACT`, the kind and the last-of-stream bit. -/
def TileCtx.outTok (c : TileCtx) (slot : Nat) (x : OpSet) (tag : Word) (kind : Nat) (last wide : Bool) (payload : Nat) : Token :=
  { tag := tag, ctl := mkCtl false false kind last false (waMact (c.wordA slot)), wide := wide, payload := BitVec.ofNat 512 payload,
    clock := x.clock }

/-- `CTL.LAST` of port 0 (R281). -/
def OpSet.last (x : OpSet) : Bool := (x.on 0).any (fun t => ctlLast t.ctl)

/-- Send a firing's completion token on output 1, in the cycle in which its last output 0 token is sent (R273): with it, where that one
waits in the output stage. -/
def State.sendOrd (s : State) (t ctx slot : Nat) (tok : Token) : State :=
  let c := s.tctx t ctx
  let a := c.wordA slot
  if waOut a 0 = 0xFF || (AMap.get [] c.stage (waOut a 0)).isEmpty then s.sendOut t ctx slot 1 tok
  else if waOut a 1 = 0xFF then s
  else s.modCtx t ctx (fun c => { c with ords := AMap.put c.ords (waOut a 0) (waOut a 1, tok) })

/-- `CTL.LAST` of a firing's completion token: port 0's (R281); a merge's, the forwarded token's. DEDUCED: log entry 59. -/
def OpSet.ordLast (x : OpSet) : Bool := match x.on 0 with
  | some t => ctlLast t.ctl
  | none => x.toks.any (fun k => k.port != 3 && ctlLast k.tok.ctl)

/-- Send a firing's result on output 0, and on output 1 its completion token or a copy (R273). -/
def State.sendResult (s : State) (t ctx slot : Nat) (x : OpSet) (ordTag : Word) (copy : Bool) (p : Option Token) (out : Token) : State :=
  let c := s.tctx t ctx
  let s1 := s.sendOut t ctx slot 0 out
  if waOrd (c.wordA slot) then
    s1.sendOrd t ctx slot ((c.outTok slot x ordTag 2 x.ordLast false 0).poisonIf p)
  else if copy then s1.sendOut t ctx slot 1 out
  else s1

/-- The result of an ordinary firing: the set's tag, the first input's width, poisoned as the set is. -/
def State.sendPlain (s : State) (t ctx slot : Nat) (x : OpSet) (wide : Bool) (payload : Nat) : State :=
  let c := s.tctx t ctx
  s.sendResult t ctx slot x x.lead.tag true x.poison ((c.outTok slot x x.lead.tag 0 x.last wide payload).poisonIf x.poison)

/-! ### Lanes of a payload (R281) -/

/-- The lanes of a payload of a width; a narrow carry-save payload is one lane. -/
def payLanes (t : ElemType) (wide : Bool) : Nat := max 1 ((if wide then 512 else 64) / laneBits t)
/-- The width of a lane in a payload. -/
def payLaneBits (t : ElemType) (wide : Bool) : Nat := min (laneBits t) (if wide then 512 else 64)
/-- Lane i of a payload. -/
def payLane (t : ElemType) (wide : Bool) (v : Nat) (i : Nat) : Nat := (v >>> (payLaneBits t wide * i)) % 2 ^ payLaneBits t wide
/-- A payload from its lanes. -/
def payOf (t : ElemType) (wide : Bool) (n : Nat) (f : Nat → Nat) : Nat :=
  foldUp (fun i acc => acc + f i % 2 ^ payLaneBits t wide * 2 ^ (payLaneBits t wide * i)) n 0

/-! ### MAP (R283 to R285) -/

/-- A function of MAP on a lane's operands a, b and c, with the type and the rounding mode. -/
def mapLane (f : Nat) (m : Rnd) (t : ElemType) (a b c : Nat) : Nat :=
  let sat := fun (v : Int) => (satInt t v false).bits
  let x := intValue t a
  let y := intValue t b
  let z := intValue t c
  let rel := fun (b : Bool) => if b then ones (laneBits t) else 0
  let cmp := fun (ff : ElemType → Nat → Nat → FRes) (fi : Bool) => rel (if isFloatType t then (ff t a b).bits == 1 else fi)
  match f with
  | 0 => (laneFn (fun m t a b _ => fAdd t m a b) (fun a b _ => a + b) m t a b c).bits
  | 1 => (laneFn (fun m t a b _ => fSub t m a b) (fun a b _ => a - b) m t a b c).bits
  | 2 => (laneFn (fun m t a b _ => fMul t m a b) (fun a b _ => a * b) m t a b c).bits
  | 3 => (laneFn (fun m t a b d => fFma t m false a b d) (fun a b d => a * b + d) m t a b c).bits
  | 4 => (laneFn (fun m t a b d => fFma t m true a b d) (fun a b d => a * b - d) m t a b c).bits
  | 5 => (laneFn (fun _ t a b _ => fMinMax t false a b) (fun a b _ => min a b) m t a b c).bits
  | 6 => (laneFn (fun _ t a b _ => fMinMax t true a b) (fun a b _ => max a b) m t a b c).bits
  | 7 => if isFloatType t then (fAbs t a).bits else (intRes t x.natAbs).bits
  | 8 => if isFloatType t then (fNeg t a).bits else (intRes t (-x)).bits
  | 9 => (a &&& b) % 2 ^ elemBits t
  | 10 => (a ||| b) % 2 ^ elemBits t
  | 11 => (a ^^^ b) % 2 ^ elemBits t
  | 12 => (shiftFn (fun _ a n => a <<< n) m t a b c).bits
  | 13 => (shiftFn (fun _ a n => a >>> n) m t a b c).bits
  | 14 => (shiftFn shiftArith m t a b c).bits
  | 16 => sat (x + y)
  | 17 => sat (x - y)
  | 18 => sat (x * y)
  | 19 => sat (x * y + z)
  | 20 => sat (x * y - z)
  | 24 => cmp fEq (x == y)
  | 25 => cmp fLt (x < y)
  | 26 => cmp fLe (x ≤ y)
  | 27 => cmp fUn false
  | 33 => (fRound t m a).bits
  | 34 => (scaleLane m t a (intValue (laneInt t) b)).bits
  | 35 => if c = 0 then b else a
  | _ => a

/-- The payload that MAP makes of its operands' payloads (R284, R285). -/
def mapPayload (a b : Word) (wide : Bool) (ops : List Nat) : Nat :=
  let t := typeOf (waType a)
  let f := waFunc a
  let m := rndOf (b.toNat % 8)
  let k := bitsAt b.toNat 63 32
  let arg := fun (i lane : Nat) =>
    let isK := (i = 1 && b.getLsbD 8) || (i = 2 && b.getLsbD 9)
    let pos := if i = 2 && b.getLsbD 8 then 1 else i
    if isK then k % 2 ^ elemBits t else payLane t wide (ops.getD pos 0) lane
  if f = 36 then ops.getD 0 0
  else if f = 32 then
    let d := typeOf (bitsAt b.toNat 7 3)
    payOf d wide (min (payLanes t wide) (payLanes d wide)) (fun i => (convert t d m (arg 0 i % 2 ^ elemBits t)).bits)
  else payOf t wide (payLanes t wide) (fun i => mapLane f m t (arg 0 i) (arg 1 i) (arg 2 i))

/-- MAP_FIRING (R283 to R285). -/
def execMapFiring (tile slot colour : Nat) (s : State) : Out :=
  let ctx := s.activeCtx tile
  s.fireSlot tile ctx slot colour 0 (fun x s1 =>
    let c := s1.tctx tile ctx
    let wide := (x.toks.head?).any (fun k => k.tok.wide)
    s1.sendPlain tile ctx slot x wide (mapPayload (c.wordA slot) (c.wordB slot) wide (x.toks.map (fun k => k.tok.payload.toNat))))

/-! ### RED (R286 to R289) -/

/-- An arithmetic shift right. -/
def sar (v : Int) (n : Int) : Int := v / (2 ^ n.toNat : Nat)

/-- CspAdd (R288). -/
def cspAdd (p q : Csp) : Csp :=
  let e := max p.exp.toInt q.exp.toInt
  let dp := e - p.exp.toInt
  let dq := e - q.exp.toInt
  let v := sar p.sum.toInt dp + sar p.carry.toInt dp + sar q.sum.toInt dq + sar q.carry.toInt dq
  let big : Bool := (2 ^ 110 : Int) ≤ v || v < -(2 ^ 110 : Int)
  let v1 := if big then sar v 2 else v
  let e1 := if big then e + 2 else e
  { sum := BitVec.ofInt 112 v1, carry := 0, exp := BitVec.ofInt 16 e1, nan := p.nan || q.nan || (32767 : Int) < e1,
    pinf := p.pinf || q.pinf, ninf := p.ninf || q.ninf }

/-- Node of a lane (R287): the accumulator's first. -/
def redNode (f : Nat) (t : ElemType) (m : Rnd) (zf : Bool) (a x : Nat) : Nat :=
  match f with
  | 0 => if isFloatType t then (fAdd t m a x).bits else (intRes t (intValue t a + intValue t x)).bits
  | 1 => (satInt t (intValue t a + intValue t x) false).bits
  | 2 => if image t zf a < image t zf x then x else a
  | _ => if image t zf x < image t zf a then x else a

/-- Node of a payload. -/
def redPayload (a b : Word) (wide : Bool) (acc x : Nat) : Nat :=
  let t := typeOf (waType a)
  if waType a = 16 then
    payOf t wide 2 (fun i =>
      (cspToBits (cspAdd (cspOfBits (BitVec.ofNat 256 (payLane t wide acc i))) (cspOfBits (BitVec.ofNat 256 (payLane t wide x i))))).toNat)
  else
    payOf t wide (payLanes t wide) (fun i =>
      redNode (waFunc a) t (rndOf (bitsAt b.toNat 21 19)) (b.getLsbD 22) (payLane t wide acc i) (payLane t wide x i))

/-- The accumulator after a token has been added (R287): a poisoned token poisons it for good. -/
def redAdd (a b : Word) (e : Entry) (t : Token) (index : Nat) : Entry :=
  match e.kind with
  | .acc k l =>
    let kind := EntryKind.acc (k + 1) (if ctlLast t.ctl then some index else l)
    let clock := clockMerge e.tok.clock t.clock
    if ctlPoison e.tok.ctl then { e with kind := kind, tok := { e.tok with clock := clock } }
    else if ctlPoison t.ctl then { e with kind := kind, tok := { (e.tok.poisonedBy t) with wide := t.wide, clock := clock } }
    else
      let v := if k = 0 then t.payload.toNat else redPayload a b t.wide e.tok.payload.toNat t.payload.toNat
      { e with kind := kind, tok := { e.tok with wide := t.wide, payload := BitVec.ofNat 512 v, clock := clock } }
  | _ => e

/-- Has the reduction closed (R287)? -/
def redClosed (b : Word) (e : Entry) : Bool :=
  match e.kind with
  | .acc k l => if redCount b = 0 then l.any (fun i => i + 1 == k) else redCount b == k
  | _ => false

/-- The accumulator that a set is added to: the reduction's, or a new one in the entry of its first token (R287). -/
def TileCtx.redAcc (c : TileCtx) (slot : Nat) (x : OpSet) : Entry :=
  let outer := outerTag c slot x.lead.tag
  (c.accOf slot outer).getD
    { kind := .acc 0 none, slot := slot, port := 0, tok := { x.lead with tag := outer, ctl := 0, payload := 0, clock := [] }, seq := x.seq,
      cycle := x.cycle, edge := none, spill := none }

/-- The accumulator once a set has been added. -/
def TileCtx.redNext (c : TileCtx) (slot : Nat) (x : OpSet) : Entry :=
  redAdd (c.wordA slot) (c.wordB slot) (c.redAcc slot x) x.lead (redIndex c slot x.lead.tag)

/-- The token whose turn has come, where it waits in the store or in the sump, goes to the arbiter (R287). Its entry is freed when it is
added. -/
def State.redPromote (s : State) (t ctx slot : Nat) (acc : Entry) : State :=
  let c := s.tctx t ctx
  let hit := fun (e : Entry) => e.isToken && e.slot == slot && outerTag c slot e.tok.tag == acc.tok.tag &&
    redIndex c slot e.tok.tag == acc.kind.next
  match c.store.find? hit, c.sumped.find? hit with
  | some e, _ => (s.modCtx t ctx (fun c => c.drop e)).makeReady t ctx slot { port := 0, tok := e.tok, stored := true, edge := e.edge } []
  | none, some e => (s.dropRecord t ctx e).makeReady t ctx slot { port := 0, tok := e.tok, stored := false, edge := none } []
  | none, none => s

/-- RED_FIRING (R287): a reduction of a colour adds the token at its turn; the one that closes it emits the accumulator. -/
def execRedFiring (tile slot colour : Nat) (s : State) : Out :=
  let ctx := s.activeCtx tile
  let c := s.tctx tile ctx
  let b := c.wordB slot
  s.fireSet tile ctx slot colour 1 (fun x => if redClosed b (c.redNext slot x) then [0, 1] else []) (fun x s1 =>
    let acc := c.redAcc slot x
    let acc1 := c.redNext slot x
    let old := (c.accOf slot acc.tok.tag).isSome
    if redClosed b acc1 then
      let lost := c.spoiled.contains (slot, acc.tok.tag)
      let s2 := (if old then s1.endEntry tile ctx acc else s1).modCtx tile ctx (fun c =>
        { c with spoiled := c.spoiled.filter (fun k => k != (slot, acc.tok.tag)) })
      let out := { c.outTok slot x acc.tok.tag 0 (ctlLast x.lead.ctl) acc1.tok.wide acc1.tok.payload.toNat with clock := acc1.tok.clock }
      let p := if ctlPoison acc1.tok.ctl then some acc1.tok
        else if lost then some (Token.spoiled { acc1.tok with payload := 0 }) else none
      s2.sendResult tile ctx slot x x.lead.tag true p (out.poisonIf p)
    else
      let s2 := if old then s1.modEntry tile ctx acc.seq (fun _ => { acc1 with spill := acc.spill })
        else s1.modCtx tile ctx (fun c => { c with store := c.store ++ [acc1] })
      s2.redPromote tile ctx slot acc1)

/-! ### NRM and LUT (R290 to R292) -/

/-- NRM_FIRING (R290). -/
def execNrmFiring (tile slot colour : Nat) (s : State) : Out :=
  let ctx := s.activeCtx tile
  s.fireSlot tile ctx slot colour 2 (fun x s1 =>
    let t := typeOf (waFunc ((s1.tctx tile ctx).wordA slot))
    let v := x.lead.payload
    s1.sendPlain tile ctx slot x false
      (payOf t false 2 (fun i => cspResolve t (cspOfBits (v.extractLsb' (256 * i) 256)))))

/-- The entry of a LUT that a finite lane takes (R292): the floor of (x - `LUT.LO`) times 2 to `LUT.SH`, clamped. -/
def lutIndex (b : Word) (n : Bool) (m : Nat) (e : Int) : Nat :=
  match decodeFloat (floatFmt .fp32) (bitsAt b.toNat 31 0) with
  | .fin n2 m2 e2 =>
    let d := exactSum n m e (!n2) m2 e2
    let i := floorShift d.1 (d.2 + (BitVec.ofNat 8 (bitsAt b.toNat 39 32)).toInt)
    if i < 0 then 0 else min 255 i.toNat
  | _ => 0

/-- A lane of LUT (R292). -/
def lutLane (b : Word) (table : Memory) (t : ElemType) (x : Nat) : Nat :=
  let m := rndOf (bitsAt b.toNat 45 43)
  let icept := fun i => Memory.readN table (8 * i + 4) 4
  match decodeFloat (floatFmt t) x with
  | .nan n f _ => quietNan (floatFmt t) n f
  | .inf n => (convert .fp32 t m (icept (if n then 0 else 255))).bits
  | .fin n man e =>
    let i := lutIndex b n man e
    let sb := Memory.readN table (8 * i) 4
    let sv := decodeFloat (floatFmt .fp32) sb
    let iv := decodeFloat (floatFmt .fp32) (icept i)
    if sv.isNan then (convert .fp32 t m sb).bits
    else if iv.isNan then (convert .fp32 t m (icept i)).bits
    else match mulVals sv (.fin n man e) with
      | none => defaultNan (floatFmt t)
      | some p => (addVals t m p iv).bits

/-- LUT_FIRING (R291, R292). -/
def execLutFiring (tile slot colour : Nat) (s : State) : Out :=
  let ctx := s.activeCtx tile
  s.fireSlot tile ctx slot colour 3 (fun x s1 =>
    let c := s1.tctx tile ctx
    let b := c.wordB slot
    let t := typeOf (waType (c.wordA slot))
    let table := AMap.get [] c.luts (bitsAt b.toNat 42 40)
    let wide := x.lead.wide
    s1.sendPlain tile ctx slot x wide
      (payOf t wide (payLanes t wide) (fun i => lutLane b table t (payLane t wide x.lead.payload.toNat i))))

/-! ### STE and MRG (R253, R293, R294) -/

/-- The outputs that an STE firing writes (R293). -/
def steOuts (f : Nat) (x : OpSet) : List Nat :=
  match x.on 3 with
  | none => []
  | some p =>
    let v := p.payload.getLsbD 0
    if ctlPoison p.ctl then [] else if f = 1 then [if v then 0 else 1] else if v = (f == 0) then [0, 1] else []

/-- STE_FIRING (R293, R253): a false or a poisoned predicate may absorb the set. -/
def execSteFiring (tile slot colour : Nat) (s : State) : Out :=
  let ctx := s.activeCtx tile
  s.fireSet tile ctx slot colour 4 (steOuts (waFunc ((s.tctx tile ctx).wordA slot))) (fun x s1 =>
    let c := s1.tctx tile ctx
    let f := waFunc (c.wordA slot)
    match x.on 0, x.on 3 with
    | some d, some p =>
      let v := p.payload.getLsbD 0
      let out := (c.outTok slot x x.lead.tag 0 x.last d.wide d.payload.toNat).poisonIf x.poison
      if ctlPoison p.ctl then s1
      else if f = 1 then s1.sendOut tile ctx slot (if v then 0 else 1) out
      else if v = (f == 0) then s1.sendResult tile ctx slot x x.lead.tag true x.poison out
      else s1
    | _, _ => s1)

/-- MRG_FIRING (R294): the token goes on unchanged but for its matching action. -/
def execMrgFiring (tile slot colour : Nat) (s : State) : Out :=
  let ctx := s.activeCtx tile
  s.fireSlot tile ctx slot colour 5 (fun x s1 =>
    let c := s1.tctx tile ctx
    match x.toks.find? (fun k => k.port != 3) with
    | none => s1
    | some k =>
      let out : Token := { c.outTok slot x x.lead.tag (ctlKind k.tok.ctl) (ctlLast k.tok.ctl) k.tok.wide k.tok.payload.toNat with
        ctl := (k.tok.ctl &&& 0xFC) ||| BitVec.ofNat 8 (waMact (c.wordA slot)) }
      s1.sendResult tile ctx slot x x.lead.tag true x.poison (out.poisonIf x.poison))

/-! ### TAG (R16, R298) -/

/-- A push of a value into field k: a value that does not fit poisons the token (R16, R248). -/
def TileCtx.pushTag (c : TileCtx) (slot : Nat) (x : OpSet) (t : Token) (v : Nat) : Token :=
  let k := bitsAt (c.wordB slot).toNat 2 0
  let out := c.outTok slot x (setField c.tagw k v t.tag) 0 (ctlLast t.ctl) t.wide t.payload.toNat
  match x.poison with
  | some p => out.poisonedBy p
  | none => if v < 2 ^ fieldW c.tagw k then out else out.spoiled

/-- TAG_FIRING (R298). -/
def execTagFiring (tile slot colour : Nat) (s : State) : Out :=
  let ctx := s.activeCtx tile
  let c0 := s.tctx tile ctx
  let absorbs := fun (x : OpSet) => waFunc (c0.wordA slot) = 2 && (c0.wordB slot).getLsbD 3 && !ctlLast x.lead.ctl
  s.fireSet tile ctx slot colour 8 (fun x => if absorbs x then [] else [0, 1]) (fun x s1 =>
    let c := s1.tctx tile ctx
    let t := x.lead
    let b := c.wordB slot
    let send := fun (out : Token) (st : State) => st.sendResult tile ctx slot x t.tag true (if ctlPoison out.ctl then some out else none) out
    match waFunc (c.wordA slot) with
    | 0 =>
      match (c.store ++ c.sumped).find? (fun e => e.isCounter slot t.tag) with
      | none => s1
      | some e =>
        let more := c.ready.any (fun y => y.slot == slot && y.lead.tag == t.tag)
        let s2 := if ctlLast t.ctl && !more then s1.endEntry tile ctx e
          else s1.modEntry tile ctx e.seq (fun y => { y with kind := .counter (if ctlLast t.ctl then 0 else e.kind.next + 1) })
        send (c.pushTag slot x t e.kind.next) s2
    | 1 => send (c.pushTag slot x t t.payload.toNat) s1
    | _ =>
      let lastOnly := b.getLsbD 3
      if lastOnly && !ctlLast t.ctl then s1
      else
        let out := c.outTok slot x (clearFrom c.tagw (bitsAt b.toNat 2 0) t.tag) 0 (!lastOnly && ctlLast t.ctl) t.wide t.payload.toNat
        send (out.poisonIf x.poison) s1)

/-! ### GEN (R297) -/

/-- GEN_TRIGGER (R281, R297): the slot takes a trigger while no sequence is in progress. -/
def execGenTrigger (tile slot colour : Nat) (s : State) : Out :=
  let ctx := s.activeCtx tile
  if AMap.has (s.tctx tile ctx).gens slot then .next s
  else s.fireSlot tile ctx slot colour 7 (fun x s1 =>
    s1.modCtx tile ctx (fun c => { c with gens := AMap.put c.gens slot { trigger := x.lead, count := 0 } }))

/-- The value of a sequence's token n. -/
def genValue (a b : Word) (trigger : Token) (n : Nat) : Nat :=
  let d0 := bitsAt b.toNat 15 0
  let i0 := n % d0
  let i1 := n / d0
  if waFunc a = 0 then n
  else (trigger.word + BitVec.ofInt 64 (i0 * (BitVec.ofNat 16 (bitsAt b.toNat 47 32)).toInt +
    i1 * (BitVec.ofNat 16 (bitsAt b.toNat 63 48)).toInt)).toNat

/-- GEN_EMIT (R297): the sequence in progress emits its next token, one a cycle; its completion token goes with the last. -/
def execGenEmit (tile slot : Nat) (s : State) : Out :=
  let ctx := s.activeCtx tile
  let c := s.tctx tile ctx
  let a := c.wordA slot
  let b := c.wordB slot
  match AMap.find c.gens slot with
  | none => .next s
  | some g =>
    if !c.live || !c.outsFree slot [0, 1] || s.cycle < AMap.get 0 c.issuedAt slot then .next s
    else
      let total := bitsAt b.toNat 15 0 * bitsAt b.toNat 31 16
      let x : OpSet := { slot := slot, colour := tagColour g.trigger.tag, seq := 0, cycle := s.cycle,
                         toks := [{ port := 0, tok := g.trigger, stored := false, edge := none }] }
      let fin : Bool := total ≤ g.count + 1
      let out := (c.outTok slot x g.trigger.tag 0 fin false (genValue a b g.trigger g.count)).poisonIf x.poison
      let s1 := (s.noteSlot tile ctx slot).modCtx tile ctx (fun c => { c with
        gens := if fin then AMap.erase c.gens slot else AMap.put c.gens slot { g with count := g.count + 1 } })
      if waOrd a && !fin then .next (s1.sendOut tile ctx slot 0 out)
      else .next (s1.sendResult tile ctx slot x g.trigger.tag true x.poison out)

/-! ### JON (R295, R296) -/

/-- A token's coordinate and its value. -/
def jonCoord (t : Token) : Nat := bitsAt t.payload.toNat 63 32
/-- The value of a token. -/
def jonValue (t : Token) : Nat := bitsAt t.payload.toNat 31 0

/-- What a comparison does: whether each head is consumed, and the emission, if there is one: the two values and the
coordinate (R295). -/
def jonStep (union : Bool) : Option Token → Option Token → Bool × Bool × Option (Nat × Nat × Nat)
  | some a, some b =>
    if jonCoord a < jonCoord b then (true, false, if union then some (jonValue a, 0, jonCoord a) else none)
    else if jonCoord b < jonCoord a then (false, true, if union then some (0, jonValue b, jonCoord b) else none)
    else (true, true, some (jonValue a, jonValue b, jonCoord a))
  | some a, none => (true, false, if union then some (jonValue a, 0, jonCoord a) else none)
  | none, some b => (false, true, if union then some (0, jonValue b, jonCoord b) else none)
  | none, none => (false, false, none)

/-- A token with or without last-of-stream. -/
def Token.setLast (t : Token) (last : Bool) : Token :=
  { t with ctl := mkCtl (ctlErr t.ctl) (ctlPa t.ctl) (ctlKind t.ctl) last (ctlPoison t.ctl) (ctlMact t.ctl) }

/-- Send a pair and its coordinate. -/
def State.sendPair (s : State) (t ctx slot : Nat) (p : Token × Token) : State := (s.sendOut t ctx slot 0 p.1).sendOut t ctx slot 1 p.2

/-- The heads that a comparison takes: a stream that has ended has none (R296). -/
def TileCtx.jonHeads (c : TileCtx) (slot : Nat) (tag : Word) : Option Entry × Option Entry :=
  let run := c.jonRun slot tag
  (if run.endA then none else c.jonHead slot 0 tag, if run.endB then none else c.jonHead slot 1 tag)

/-- The comparison of a tag's heads as an operand set, where one can be made: its age is that of the younger head, or of the comparison
before it (R24). -/
def TileCtx.jonSet (c : TileCtx) (slot : Nat) (tag : Word) : Option OpSet :=
  let run := c.jonRun slot tag
  let h := c.jonHeads slot tag
  let able : Bool := (h.1.isSome && h.2.isSome) || (h.1.isSome && run.endB) || (h.2.isSome && run.endA)
  if able then
    let es := h.1.toList ++ h.2.toList
    some { slot := slot, colour := tagColour tag, seq := (es.map (fun e => e.seq)).foldl max 0,
           cycle := (es.map (fun e => e.cycle)).foldl max run.cycle,
           toks := es.map (fun e => { port := e.port, tok := e.tok, stored := true, edge := e.edge }) }
  else none

/-- The tags of the tokens that wait at a JON slot, in entries or in its buffers. -/
def TileCtx.jonTags (c : TileCtx) (slot : Nat) : List Word :=
  (((c.store ++ c.sumped).filter (fun e => e.isToken && e.slot == slot)).map (fun e => e.tok.tag) ++
    [0, 1].flatMap (fun p => ((AMap.get [] c.buffers (waIn (c.wordA slot) p)).filter (fun h => h.met)).map (fun h => h.tok.tag))).eraseDups

/-- The comparisons that a JON slot can make. -/
def TileCtx.jonSets (c : TileCtx) (slot : Nat) : List OpSet := (c.jonTags slot).filterMap (c.jonSet slot)

/-- A head is consumed: its record, or its entry, or its place in its buffer is free, and its credits return (R262, R303). -/
def State.endHead (s : State) (t ctx : Nat) (e : Entry) : State :=
  let c := s.tctx t ctx
  if c.sumped.any (fun x => x.seq == e.seq) then s.dropRecord t ctx e
  else (s.modCtx t ctx (fun c => { c.drop e with
    buffers := AMap.modify [] c.buffers (waIn (c.wordA e.slot) e.port) (dropHeld e.seq) })).returnCredit c.region e.edge e.tok.weight

/-- A head that a comparison leaves in its buffer meets its port again: it enters the store, unless it completes the next one (R262). -/
def State.leaveHead (s : State) (t ctx : Nat) (e : Entry) : State :=
  s.meet t ctx (waIn ((s.tctx t ctx).wordA e.slot) e.port) (tagColour e.tok.tag) (ctlMact e.tok.ctl) false

/-- The streams that have ended once a comparison has been made. -/
def jonEnds (run : JonRun) (used : Bool × Bool) (ta tb : Option Token) : Bool × Bool :=
  (run.endA || (used.1 && ta.any (fun t => ctlLast t.ctl)), run.endB || (used.2 && tb.any (fun t => ctlLast t.ctl)))

/-- JON_COMPARISON (R24, R262, R295, R296): one comparison of the heads of a tag's two streams. -/
def execJonComparison (tile slot tag : Nat) (s : State) : Out :=
  let ctx := s.activeCtx tile
  let c := s.tctx tile ctx
  let w := BitVec.ofNat 64 tag
  let run := c.jonRun slot w
  let (ha, hb) := c.jonHeads slot w
  let sets := c.jonSets slot
  let (ta, tb) := (ha.map (fun e => e.tok), hb.map (fun e => e.tok))
  let (useA, useB, emit) := jonStep (waFunc (c.wordA slot) == 1) ta tb
  let (endA, endB) := jonEnds run (useA, useB) ta tb
  let sends : Bool := (emit.isSome && run.held.isSome) || (endA && endB)
  match firstSet (sets.filter (fun x => x.colour == tagColour w)) with
  | none => .next s
  | some x =>
    if x.lead.tag != w || !s.slotRuns tile ctx || waKind (c.wordA slot) != 6 || !AMap.has c.slots slot ||
        !s.turnOk c slot x.colour (agedColours sets) || (sends && !c.outsFree slot [0, 1]) then .next s
    else
      let clock := clockMerge run.clock x.clock
      let made : Option (Token × Token) := emit.map (fun (a, b, k) =>
        let f := fun (v : Nat) => ({ (c.outTok slot x w 0 false false v).poisonIf x.poison with clock := clock } : Token)
        (f (a * 2 ^ 32 + b), f k))
      let s0 := s.takeTurn tile ctx slot x.colour (agedColours sets)
      let s1 := if useA then ha.toList.foldl (fun st e => st.endHead tile ctx e) s0 else s0
      let s2 := if useB then hb.toList.foldl (fun st e => st.endHead tile ctx e) s1 else s1
      let s3 := match made, run.held with
        | some _, some old => s2.sendPair tile ctx slot old
        | _, _ => s2
      let held := match made with
        | some p => some p
        | none => run.held
      let rest := c.jons.filter (fun r => !(r.slot == slot && r.tag == w))
      let s4 := s3.modCtx tile ctx (fun k => { k with
        lastFire := AMap.put k.lastFire (tagColour w) s.cycle
        jons := if endA && endB then rest
          else rest ++ [{ run with endA := endA, endB := endB, held := held, clock := clock, cycle := s.cycle }] })
      let left := (if useA then [] else ha.toList) ++ (if useB then [] else hb.toList)
      let s5 := (left.filter (fun e => !(c.store ++ c.sumped).any (fun y => y.seq == e.seq))).foldl (fun st e => st.leaveHead tile ctx e) s4
      if endA && endB then
        let none_ : Token := { (c.outTok slot x w 2 true false 0).poisonIf x.poison with clock := clock }
        let p := match held with
          | some (a, b) => (a.setLast true, b.setLast true)
          | none => (none_, none_)
        .next (s5.sendPair tile ctx slot p)
      else .next s5

end Sys2Proof.Machine
end

