-- ==== Sys2Proof/Machine/OperMem.lean ====
section
/-! DEFINITION. The operators LDM and STM (R282, R299 to R301): their requests, their results and completions in issue
order. -/

namespace Sys2Proof.Machine

/-! ### Fields and operands -/

/-- The address of an LDM or STM firing: port 0's payload plus the signed offset (R299, R300). -/
def operAddr (b : Word) (t : Token) : Nat := (t.word + BitVec.ofInt 64 (BitVec.ofNat 32 (bitsAt b.toNat 31 0)).toInt).toNat
/-- `LDM.MOD` or `STM.MOD`. -/
def operMod (b : Word) : BitVec 4 := b.extractLsb' 32 4
/-- `STM.SD`. -/
def stmSd (b : Word) : Bool := b.getLsbD 36
/-- `STM.FMT` and `STM.SCL`, as they are placed (R78): an ignored scale byte is placed as given (R76). DESIGN CHOICE: log entry 88. -/
def stmDesc (b : Word) : Nat × Nat := (bitsAt b.toNat 47 40, bitsAt b.toNat 55 48)

/-- The instance that a tag names. -/
def State.instOfTag (s : State) (region : Nat) (tag : Word) : InstKey :=
  { region := region, colour := tagColour tag, f0 := f0Of (s.region region).image.tagw tag }

/-- Is an LDM slot's result wide: the width of the output edge that carries it (R299)? -/
def TileCtx.ldmWide (c : TileCtx) (slot : Nat) : Bool :=
  let a := c.wordA slot
  if waOut a 0 != 0xFF then edgeWide (c.edge (waOut a 0))
  else !waOrd a && waOut a 1 != 0xFF && edgeWide (c.edge (waOut a 1))

/-- The operation of a firing of a slot context, before its requests (R39, R299, R300). -/
def State.slotOp (s : State) (t ctx slot : Nat) (x : OpSet) : MemOp :=
  let c := s.tctx t ctx
  let m := operMod (c.wordB slot)
  { MemOp.empty (slotParty t ctx slot) none with
    scope := scopeOf m
    inst := some (s.instOfTag c.region x.lead.tag)
    gen := (s.region c.region).gen
    tagCol := 1024 * c.region + x.colour
    tile := some t }

/-- The checks of an operator's access (R282): alignment, then the extents of the instance. -/
def State.operCheck (s : State) (k : InstKey) (va n : Nat) (kind : ReqKind) : Except Exc (Nat × Nat × Bool) :=
  if va % n != 0 then .error (excAt 0x03 0 va)
  else match s.translate ((s.inst k).elim [] (fun i => i.extents)) va n kind with
    | none => .error (excAt 0x04 0 va)
    | some r => .ok r

/-- An operator ends its instance (R282). -/
def State.operFault (s : State) (t ctx slot : Nat) (x : OpSet) (e : Exc) : State :=
  let c := s.tctx t ctx
  s.setVerdict (s.instOfTag c.region x.lead.tag) x.lead.tag true (opErrPayload e slot c.ltile x.lead.tag)

/-! ### Outputs in issue order (R273, R281) -/

/-- The outputs of an LDM firing with their edges: the data on output 0, and on output 1 a completion token or a copy. -/
def TileCtx.resultOuts (c : TileCtx) (slot : Nat) (out : Token) : List (Nat × Token) :=
  let a := c.wordA slot
  let done : Token :=
    { out with
      ctl := mkCtl false (ctlPa out.ctl) 2 (ctlLast out.ctl) (ctlPoison out.ctl) (ctlMact out.ctl)
      wide := false
      payload := if ctlPoison out.ctl then out.payload else 0 }
  [(waOut a 0, out), (waOut a 1, if waOrd a then done else out)].filter (fun o => o.1 != 0xFF)

/-- The outputs of an STM firing: its completion token on output 0, and a copy on output 1 (R273, R274, R300). -/
def TileCtx.stmOuts (c : TileCtx) (slot : Nat) (out : Token) : List (Nat × Token) :=
  let a := c.wordA slot
  [(waOut a 0, out), (if waOrd a then 0xFF else waOut a 1, out)].filter (fun o => o.1 != 0xFF)

/-- Send a list of tokens on their edges. -/
def State.emitAll (s : State) (t ctx : Nat) (outs : List (Nat × Token)) : State :=
  outs.foldl (fun st o => st.emitOn t ctx o.1 o.2) s

/-- Send the outputs of a slot and colour whose turn has come: those of the oldest firings, up to the first that still
waits for its request. -/
def State.flushOuts (t ctx slot colour : Nat) : Nat → State → State
  | 0, s => s
  | n + 1, s =>
    let mine := fun (w : OutWait) => w.slot == slot && w.colour == colour
    match (s.tctx t ctx).outs.find? mine with
    | none => s
    | some w =>
      if w.op.isSome then s
      else State.flushOuts t ctx slot colour n
        ((s.modCtx t ctx (fun c => { c with outs := dropFirst mine c.outs })).emitAll t ctx w.outs)

/-- A firing's outputs take their place in the issue order. -/
def State.waitOuts (s : State) (t ctx slot : Nat) (x : OpSet) (op : Option Nat) (outs : List (Nat × Token)) : State :=
  let s1 := s.modCtx t ctx (fun c => { c with outs := c.outs ++
    [{ slot := slot, colour := x.colour, op := op, clock := x.clock, outs := outs }] })
  State.flushOuts t ctx slot x.colour (s1.tctx t ctx).outs.length s1

/-- A request's outputs are made from its firing's clocks, and are sent when their turn comes. -/
def State.deliverOuts (s : State) (t ctx slot colour op : Nat) (outs : Clock → List (Nat × Token)) : State :=
  let s1 := s.modCtx t ctx (fun c => { c with outs := c.outs.map (fun w =>
    if w.op == some op then { w with op := none, outs := outs w.clock } else w) })
  State.flushOuts t ctx slot colour (s1.tctx t ctx).outs.length s1

/-! ### LDM (R299) -/

/-- LDM_FIRING (R248, R282, R299): a poisoned set makes no request. -/
def execLdmFiring (tile slot colour : Nat) (s : State) : Out :=
  let ctx := s.activeCtx tile
  s.fireSlot tile ctx slot colour 9 (fun x s1 =>
    let c := s1.tctx tile ctx
    let f := waFunc (c.wordA slot)
    let wide := c.ldmWide slot
    match x.poison with
    | some p => s1.waitOuts tile ctx slot x none
        (c.resultOuts slot ((c.outTok slot x x.lead.tag 0 x.last wide 0).poisonedBy p))
    | none =>
      let op := s1.slotOp tile ctx slot x
      let m := operMod (c.wordB slot)
      let va := operAddr (c.wordB slot) x.lead
      let n := if wide then 64 else 8
      match s1.operCheck (s1.instOfTag c.region x.lead.tag) va n .read with
      | .error e => s1.operFault tile ctx slot x e
      | .ok (pa, key, stb) =>
        let kind : ReqKind := if 2 ≤ f && stb then .readOnly else .read
        ((s1.mergeClock op.party x.clock).addOp { op with
          acquire := acquires m false
          release := releases m false
          reqs := (unitPieces va n).map (fun p => Req.make kind (va + p.1) (pa + p.1) p.2 0 key)
          sink := .ldm tile ctx slot x.lead.tag x.last wide (f % 2 == 1) } op.party).waitOuts tile ctx slot x (some s1.z.nextId) [])

/-- An element of a scaled line rounded to its type (R72, R74, R299). -/
def scaledInto (t : ElemType) (scale bits : Nat) : Nat :=
  match scaledVal (elemVal t bits) scale with
  | .nan n fr sn => if isFloatType t then (nanTo t (if scale = 255 then 23 else (floatFmt t).fracW) n fr sn).bits else 0
  | .inf n => (infTo t n).bits
  | .fin n m e =>
    if isFloatType t then (roundExact t .rne n m e false).bits
    else let v := toIntegral .rne n m e; (satInt t v.1 v.2).bits

/-- The data of a typed read (R77, R299): as they are from a raw line or a line of the type, scaled from a scaled line of it;
none from any other line. -/
def typedData (t : ElemType) (n fmt scale data : Nat) : Option Nat :=
  match lineFormat fmt with
  | .raw => some data
  | .elem u scaled =>
    if u != t then none
    else if !scaled then some data
    else
      let w := elemBits t
      some (foldUp (fun i acc => acc + scaledInto t scale ((data >>> (w * i)) % 2 ^ w) % 2 ^ w * 2 ^ (w * i)) (8 * n / w) 0)
  | _ => none

/-- The bytes that an operator's reads returned, without the line's descriptor. -/
def MemOp.readData (o : MemOp) : Nat := readBytes o.reqs

/-- The line descriptor that the first read returned. -/
def MemOp.readDesc (o : MemOp) : Nat × Nat := (o.reqs.head?).elim (0, 0x7F) Req.lineDesc

/-- The physical address of the first poisoned line that an operation met. DEDUCED: log entry 16. -/
def MemOp.badLine (o : MemOp) : Option Nat := (o.reqs.find? Req.bad).map (fun r => r.pa / 64 * 64)

/-- A result token: its payload, or its poison with the address where one is logged. -/
def resultToken (tag : Word) (kind : Nat) (last wide : Bool) (mact : Nat) (clock : Clock) (data : Option Nat) (bad : Option Nat) : Token :=
  match bad, data with
  | some a, _ => { tag := tag, ctl := mkCtl false true kind last true mact, wide := wide, payload := BitVec.ofNat 512 (a % 2 ^ 52), clock := clock }
  | none, some v => { tag := tag, ctl := mkCtl false false kind last false mact, wide := wide, payload := BitVec.ofNat 512 v, clock := clock }
  | none, none => { tag := tag, ctl := mkCtl false false kind last true mact, wide := wide, payload := 0, clock := clock }

/-- LDM_RESULT (R77, R248, R299): the read has returned; its token is sent in issue order. -/
def execLdmResult (op : Nat) (s : State) : Out :=
  match s.op op with
  | none => .next s
  | some o =>
    match o.sink with
    | .ldm t ctx slot tag last wide typed =>
      if !s.opReady o || !o.answered then .next s
      else if s.stale o then .next (s.removeOp op)
      else
        let c := s.tctx t ctx
        let ty := typeOf (waType (c.wordA slot))
        let d := o.readDesc
        let data := if typed then typedData ty (if wide then 64 else 8) d.1 d.2 o.readData else some o.readData
        let s1 := s.completeOp o
        .next (s1.deliverOuts t ctx slot (tagColour tag) op (fun clock =>
          c.resultOuts slot (resultToken tag 0 last wide (waMact (c.wordA slot)) (clockMerge clock (s1.doneClock o.party)) data o.badLine)))
    | _ => .next s

/-! ### STM (R300) -/

/-- STM_FIRING (R248, R282, R300). -/
def execStmFiring (tile slot colour : Nat) (s : State) : Out :=
  let ctx := s.activeCtx tile
  s.fireSlot tile ctx slot colour 10 (fun x s1 =>
    let c := s1.tctx tile ctx
    let f := waFunc (c.wordA slot)
    let b := c.wordB slot
    match x.poison, x.on 0, x.on 1 with
    | some p, _, _ => s1.waitOuts tile ctx slot x none (c.stmOuts slot ((c.outTok slot x x.lead.tag 2 x.last false 0).poisonedBy p))
    | none, some addr, some data =>
      let op := s1.slotOp tile ctx slot x
      let m := operMod b
      let va := operAddr b addr
      let n := if f = 0 then (if data.wide then 64 else 8) else if f = 2 then 4 else 8
      match s1.operCheck (s1.instOfTag c.region x.lead.tag) va n (if f = 0 then .write else .atomic) with
      | .error e => s1.operFault tile ctx slot x e
      | .ok (pa, key, _) =>
        let store := fun (p : Nat × Nat) =>
          { Req.make .write (va + p.1) (pa + p.1) p.2 ((data.payload.toNat >>> (8 * p.1)) % 2 ^ (8 * p.2)) key with
            desc := if p.1 = 0 && n = 64 && stmSd b then some (stmDesc b) else none
            whole := n = 64 }
        let reqs := if f = 0 then (unitPieces va n).map store else [Req.make .atomic va pa n (data.payload.toNat % 2 ^ (8 * n)) key]
        ((s1.mergeClock op.party x.clock).addOp { op with
          acquire := if f = 0 then acquires m true else m.getLsbD 2
          release := if f = 0 then releases m true else m.getLsbD 3
          reqs := reqs
          amo := f - 1
          cmp := (x.on 2).elim 0 (fun t => t.word.toNat)
          result := n
          sink := .stm tile ctx slot x.lead.tag x.last } op.party).waitOuts tile ctx slot x (some s1.z.nextId) []
    | _, _, _ => s1)

/-- STM_COMPLETION (R300): the request is complete; its completion token carries the byte count or the old value. -/
def execStmCompletion (op : Nat) (s : State) : Out :=
  match s.op op with
  | none => .next s
  | some o =>
    match o.sink with
    | .stm t ctx slot tag last =>
      if !s.opReady o || !o.answered then .next s
      else if s.stale o then .next (s.removeOp op)
      else
        let c := s.tctx t ctx
        let a := c.wordA slot
        let s1 := s.completeOp o
        .next (s1.deliverOuts t ctx slot (tagColour tag) op (fun clock =>
          c.stmOuts slot (resultToken tag 2 last false (waMact a) (clockMerge clock (s1.doneClock o.party))
            (some (if waFunc a = 0 then o.result else o.firstValue)) o.badLine)))
    | _ => .next s

end Sys2Proof.Machine
end

