-- ==== Sys2Proof/Machine/Casement.lean ====
section
/-! DEFINITION. The casements (R255 to R261, R302, R309, R338, R345, R348, R351, R465): start tokens and admission, results
and done tokens, the retire sweep, and the completion. -/

namespace Sys2Proof.Machine

/-! ### A casement's sets -/

/-- Take a set from a casement's slot; its token's credits are kept. -/
def State.takeCasementSet (s : State) (t ctx : Nat) (x : OpSet) : State :=
  (s.modCtx t ctx (fun c => { c with
    ready := c.ready.filter (fun y => y.seq != x.seq)
    lastFire := AMap.put c.lastFire x.colour s.cycle })).takeTurn t ctx x.slot x.colour ((s.tctx t ctx).readyOn x.slot)

/-- The next set of a colour on a casement's slot, where the slot may issue. -/
def State.casementSet (s : State) (t ctx slot colour func : Nat) : Option (OpSet × SetTok) :=
  let c := s.tctx t ctx
  let a := c.wordA slot
  if !s.slotOpen t ctx slot || waKind a != 11 || waFunc a != func || !AMap.has c.slots slot || !s.turnOk c slot colour (c.readyOn slot)
  then none
  else match c.nextSet slot colour with
    | none => none
    | some x => (x.toks.head?).map (fun k => (x, k))

/-- Is a set older than another (R24)? Of two that neither is older, either may issue first (R354). -/
def OpSet.older (a b : OpSet) : Bool :=
  a.cycle < b.cycle || (a.cycle == b.cycle && (a.rank < b.rank || (a.rank == b.rank && tagNest a.lead.tag < tagNest b.lead.tag)))

/-- The next set of a colour on a port of an exit casement, where the slot may issue and none of the colour's sets is older. -/
def State.exitSet (s : State) (t ctx slot colour port : Nat) : Option (OpSet × SetTok) :=
  let c := s.tctx t ctx
  let sets := c.ready.filter (fun x => x.slot == slot && x.colour == colour)
  if (s.casementSet t ctx slot colour 1).isNone then none
  else match firstSet (sets.filter (fun x => (x.toks.head?).any (fun k => k.port == port))) with
    | none => none
    | some x => if sets.any (fun y => y.older x) then none else (x.toks.head?).map (fun k => (x, k))

/-- Does a colour's casement stand at a slot: its entry, or its exit? -/
def State.serves (s : State) (t ctx slot colour : Nat) (exit : Bool) : Bool :=
  let c := s.tctx t ctx
  let k := (s.region c.region).colour colour
  k.state != 0 && (if exit then k.xtile == c.ltile && k.xslot == slot else k.ntile == c.ltile && k.nslot == slot)

/-! ### The launch pool's entries (R348) -/

/-- A pool entry ends: it is freed, and its LNCH completes. -/
def State.endLaunch (s : State) (id status result : Nat) : State :=
  let s1 := { s with gals := s.gals.map (fun g => (g.1, { g.2 with pool := g.2.pool.filter (fun l => l.cmd != id) })) }
  match s1.cmd id with
  | none => s1
  | some c => s1.finishCmd c status result

/-! ### The entry casement (R255, R257, R302) -/

/-- A token of a colour that is not open is dropped (R11, R255): counted, its credits returned; a launch's entry fails with it.
DEDUCED: log entry 18. -/
def State.dropStart (s : State) (t ctx slot : Nat) (h : Held) : State :=
  let s1 := (s.modGat t ctx slot (fun g => { g with drop := sat32 (g.drop + 1) })).returnCredit (s.tctx t ctx).region h.src h.tok.weight
  match h.tok.launch with
  | none => s1
  | some id => s1.endLaunch id 0x24 0

/-- GAT_ENTRY_FIRING (R11, R241, R255, R257): a token with a reserved control byte is dropped and counted; so is one whose colour is
not open; any other waits in the louvre. -/
def execGatEntryFiring (tile slot colour : Nat) (s : State) : Out :=
  let ctx := s.activeCtx tile
  match s.casementSet tile ctx slot colour 0 with
  | none => .next s
  | some (x, k) =>
    let s1 := s.takeCasementSet tile ctx x
    let region := (s.tctx tile ctx).region
    let h : Held := { tok := k.tok, seq := x.seq, cycle := x.cycle, reserved := none, src := k.edge }
    if ctlKind k.tok.ctl = 3 || ctlMact k.tok.ctl = 3 then
      .next ((s1.modGat tile ctx slot (fun g => { g with bad := sat32 (g.bad + 1) })).returnCredit region k.edge k.tok.weight)
    else if !s.serves tile ctx slot colour false || ((s.region region).colour colour).state != 1 then
      .next (s1.dropStart tile ctx slot h)
    else .next (s1.modColour region colour (fun c => { c with louvre := c.louvre ++ [h] }))

/-! ### Admission (R255, R256, R309, R338, R341, R345) -/

/-- The admitted instances of a colour. -/
def Region.admitted (r : Region) (colour : Nat) : Nat := r.insts.countP (fun i => i.colour == colour)
/-- The completions of a colour held in the queue (R345). -/
def Region.heldDone (r : Region) (colour : Nat) : Nat := r.queue.countP (fun t => tagColour t.tag == colour)
/-- The size of a colour's tag pool (R256). -/
def Region.poolSize (r : Region) : Nat := min (2 ^ fieldW r.image.tagw 0) 4096

/-- Do two regions share a tile? -/
def Region.overlaps (a b : Region) : Bool := a.sites.any (fun t => b.sites.contains t)

/-- Does a CFGSW of another region drain the region (R331)? -/
def State.draining (s : State) (n : Nat) : Bool :=
  s.cmds.any (fun c => c.kind == .cfgsw && c.region != n && (s.region c.region).overlaps (s.region n))

/-- Is admission open for the region (R31, R309, R343, R347)? -/
def Region.admitting (r : Region) : Bool := r.state == .armed && !r.barred && !r.preempting && r.insts.length < r.image.quotaAll

/-- The extents that an admission copies (R338); none where the colour must wait for a lease. -/
def State.admitExtents (s : State) (r : Region) (k : Colour) : Option (AMap Extent) :=
  match k.lease.bind s.lease with
  | some l => some l.extents
  | none => if r.image.decls.isEmpty then some [] else none

/-- The F0 value that an admission draws: the lowest free one (R255). -/
def Region.draw (r : Region) (colour : Nat) : Option Nat := findUp (fun v => !((r.colour colour).drawn.contains v)) r.poolSize

/-- Admit a start token of a colour with an F0 value and extents (R255, R256, R338, R340, R348). -/
def State.admitInst (s : State) (region colour v : Nat) (x : AMap Extent) (h : Held) : State :=
  let r := s.region region
  let k := r.colour colour
  let t := r.phys k.ntile
  let tag := setField r.image.tagw 0 v (mkTag colour (tagCtx h.tok.tag) 0)
  let i : Inst :=
    { colour := colour, f0 := v, tag := tag, admitted := s.cycle, extents := x, binds := k.binds,
      ports := r.image.ports.map (fun p => { port := p.1, next := 0, ended := false, hand := 0, bad := none, toks := [], writes := [] }),
      results := 0, verdict := none, fired := none, sweep := none, clock := [] }
  let s1 := (s.modRegion region (fun g => { g with insts := g.insts ++ [i] })).modColour region colour (fun c =>
    { c with louvre := c.louvre.drop 1, drawn := c.drawn ++ [v] })
  let s2 := s1.returnCredit region h.src h.tok.weight
  let out := { h.tok with tag := tag, launch := none }
  let s3 := (s2.sendOut t r.ctx k.nslot 0 out).sendOut t r.ctx k.nslot 1 out
  match h.tok.launch with
  | none => s3
  | some id => s3.endLaunch id 0 v

/-- LOUVRE_ADMIT (R255, R257): the louvre's oldest token goes on: a sticky or purge token as it is, a start token when it is
admitted. -/
def execLouvreAdmit (region colour : Nat) (s : State) : Out :=
  let r := s.region region
  let k := r.colour colour
  let t := r.phys k.ntile
  match k.louvre with
  | [] => .next s
  | h :: rest =>
    if !s.slotOpen t r.ctx k.nslot then .next s
    else if ctlMact h.tok.ctl != 0 then
      let s1 := (s.modColour region colour (fun c => { c with louvre := rest })).returnCredit region h.src h.tok.weight
      let out := { h.tok with launch := none }
      let s2 := (s1.sendOut t r.ctx k.nslot 0 out).sendOut t r.ctx k.nslot 1 out
      .next (match h.tok.launch with
        | none => s2
        | some id => s2.endLaunch id 0 0)
    else
      let able := k.state == 1 && r.admitting && !s.draining region && r.admitted colour + r.heldDone colour < k.quota &&
        r.image.ports.all (fun p => AMap.has k.binds p.1)
      match (if able then s.admitExtents r k else none), r.draw colour with
      | some x, some v => .next (s.admitInst region colour v x h)
      | _, _ => .next s

/-! ### The exit casement (R258, R261, R351, R465) -/

/-- The outgoing peer route of a colour and region (R464, R465). -/
def State.peerRoute (s : State) (region colour : Nat) : Option (BitVec 128) :=
  (s.host.routes.find? (fun r => r.2.getLsbD 1 && r.2.getLsbD 32 && bitsAt r.2.toNat 11 6 == region && bitsAt r.2.toNat 21 12 == colour)).map
    Prod.snd

/-- Send a token to a peer, with the entry's colour (R465). -/
def State.sendPeer (s : State) (e : BitVec 128) (tok : Token) : State :=
  s.send (.peer (bitsAt e.toNat 35 33) (bitsAt e.toNat 45 40) (bitsAt e.toNat 39 36)
    { tok with tag := mkTag (bitsAt e.toNat 55 46) (tagCtx tok.tag) (tagNest tok.tag) })

/-- Hand a result token to the lowest output stream port of a tile (R351). -/
def State.toStreamPort (s : State) (k : InstKey) (ltile : Nat) (tok : Token) : State :=
  match (s.region k.region).image.ports.find? (fun p => p.2.1 == ltile && p.2.2.1) with
  | none => s
  | some (port, _) =>
    s.modInst k (fun i => { i with ports := i.ports.map (fun p => if p.port == port then { p with toks := p.toks ++ [tok] } else p) })

/-- A late token is dropped and counted (R261). -/
def State.lateToken (s : State) (t ctx slot : Nat) (k : SetTok) : State :=
  (s.modGat t ctx slot (fun g => { g with late := sat32 (g.late + 1) })).returnCredit (s.tctx t ctx).region k.edge k.tok.weight

/-- The error completion's payload of a poisoned result (R261). -/
def exitPoison (ltile : Nat) (tok : Token) : Vec :=
  errPayload { code := 0x05, detail := 0x01, addr := if ctlPa tok.ctl then some (tok.payload.toNat % 2 ^ 52) else none, loc := false }
    0 0 ltile 0 0 tok.tag

/-- A token of the exit ends its instance: the verdict and the token's place in the order of firings. -/
def State.exitEnds (s : State) (k : InstKey) (tok : Token) (err : Bool) (payload : Vec) (place : Nat) : State :=
  (s.setVerdict k tok.tag err payload).modInst k (fun i => { i with fired := some place, clock := clockMerge i.clock tok.clock })

/-- The instance that a token at an exit belongs to, which has not ended (R17, R261). -/
def State.exitInst (s : State) (t ctx slot : Nat) (tok : Token) : Option (InstKey × Inst) :=
  let k := s.instOfTag (s.tctx t ctx).region tok.tag
  if s.serves t ctx slot k.colour true then
    match s.inst k with
    | some i => if i.endable s.cycle (tagNest tok.tag) then some (k, i) else none
    | none => none
  else none

/-- EXIT_RESULT_FORWARD (R258, R261, R351, R465): a result goes to output 0, to a peer port or to the tile's output stream
port; a poisoned one ends its instance; a late one is dropped. -/
def execExitResultForward (tile slot colour : Nat) (s : State) : Out :=
  let ctx := s.activeCtx tile
  match s.exitSet tile ctx slot colour 0 with
  | none => .next s
  | some (x, k) =>
      let c := s.tctx tile ctx
      let s1 := s.takeCasementSet tile ctx x
      match s.exitInst tile ctx slot k.tok with
      | none => .next (s1.lateToken tile ctx slot k)
      | some (key, _) =>
        let s2 := s1.returnCredit c.region k.edge k.tok.weight
        if ctlPoison k.tok.ctl then
          .next (s2.bump.exitEnds key k.tok true (exitPoison c.ltile k.tok) s2.serial)
        else
          let s3 := s2.modInst key (fun i => { i with results := i.results + 1, clock := clockMerge i.clock k.tok.clock })
          let out := { k.tok with ctl := (k.tok.ctl &&& 0xFC) ||| BitVec.ofNat 8 (waMact (c.wordA slot)) }
          if waOut (c.wordA slot) 0 != 0xFF then .next (s3.sendOut tile ctx slot 0 out)
          else match s3.peerRoute c.region colour with
            | some e => .next (s3.sendPeer e out)
            | none => .next (s3.toStreamPort key c.ltile out)

/-- EXIT_DONE_FIRING (R258, R261): a done token ends its instance; a late one is dropped. -/
def execExitDoneFiring (tile slot colour : Nat) (s : State) : Out :=
  let ctx := s.activeCtx tile
  match s.exitSet tile ctx slot colour 1 with
  | none => .next s
  | some (x, k) =>
      let s1 := s.takeCasementSet tile ctx x
      match s.exitInst tile ctx slot k.tok with
      | none => .next (s1.lateToken tile ctx slot k)
      | some (key, _) =>
        let s2 := s1.returnCredit (s.tctx tile ctx).region k.edge k.tok.weight
        .next (s2.bump.exitEnds key k.tok false 0 s2.serial)

/-! ### The retire sweep (R258) -/

/-- Is a tag of colour c and F0 v, under a layout? -/
def tagOf (tagw : List Nat) (colour v : Nat) (tag : Word) : Bool := tagColour tag == colour && f0Of tagw tag == v

/-- Is an entry swept: its colour and F0, unless it is a sticky token whose F0 is a wildcard? -/
def Entry.swept (e : Entry) (tagw : List Nat) (colour v : Nat) : Bool :=
  tagOf tagw colour v e.tok.tag && !(e.isToken && ctlMact e.tok.ctl == 1 && v == 2 ^ fieldW tagw 0 - 1)

/-- Does an input buffer belong to a casement? -/
def TileCtx.atCasement (c : TileCtx) (buf : Nat) : Bool :=
  match c.portOf buf with
  | some (slot, _) => waKind (c.wordA slot) == 11
  | none => false

/-- Remove what `gone` names from a context: entries, sump records and the sets that hold entries; their credits return. The answer is
how many entries and records there were. Tokens in edge buffers stay (R258). DEDUCED: log entry 15. -/
def State.removeEntries (s : State) (t ctx : Nat) (gone : Entry → Bool) (tags : Word → Bool) : Nat × State :=
  let c := s.tctx t ctx
  let entries := c.store.filter gone
  let records := c.sumped.filter gone
  let sets := c.ready.filter (fun x => tags x.lead.tag && x.toks.any (fun k => k.stored))
  let s1 := records.foldl (fun st e => st.dropRecord t ctx e) s
  let s2 := s1.modCtx t ctx (fun c => { c with
    store := c.store.filter (fun e => !gone e)
    ready := c.ready.filter (fun x => !sets.any (fun y => y.seq == x.seq))
    jons := c.jons.filter (fun r => !tags r.tag)
    spoiled := c.spoiled.filter (fun x => !tags x.2) })
  let n := entries.length + records.length + (sets.map (fun x => x.toks.countP (fun k => k.stored))).sum
  let s3 := entries.foldl (fun st e => st.returnCredit c.region e.edge e.tok.weight) s2
  (n, (sets.flatMap (fun x => x.toks)).foldl (fun st k => st.returnCredit c.region k.edge k.tok.weight) s3)

/-- The firing slots of a tile's context that run firings which `who` names. -/
def State.firingsOn (s : State) (t ctx : Nat) (who : Firing → Bool) : List Nat :=
  ((upTo 4).map (fun j => 256 + 4 * t + j)).filter (fun p =>
    let c := s.core p
    c.run != .empty && c.firing.ctx == ctx && who c.firing)

/-- A suspended firing is discarded, and its matrix bank is reset (R356). -/
def Bank.freeFrom (k : Bank) (dead : List Nat) : Bank :=
  match k.owner with
  | .core p => if dead.contains (slotOf p) then Bank.taken else k
  | _ => k

/-- End the firings of a context that `who` names: the running ones end at this instruction boundary, the suspended ones are discarded
with their reserved tokens and their bank (R156, R258, R356). -/
def State.endFirings (s : State) (t ctx : Nat) (who : Firing → Bool) : State :=
  let s1 := (s.firingsOn t ctx who).foldl (fun st p => st.endFiring p) s
  let c := s1.tctx t ctx
  let dead := (c.saved.filter (fun f => who f.2)).map Prod.fst
  let mine := fun (h : Held) => match h.reserved with
    | some j => dead.contains j
    | none => false
  let gone := c.buffers.flatMap (fun b => b.2.filter mine)
  let s2 := s1.modCtx t ctx (fun c => { c with
    saved := c.saved.filter (fun f => !who f.2)
    parked := c.parked.filter (fun f => !dead.contains f.1)
    bank := c.bank.freeFrom dead
    buffers := if dead.isEmpty then c.buffers else c.buffers.map (fun b => (b.1, b.2.filter (fun h => !mine h))) })
  gone.foldl (fun st h => st.returnCredit c.region h.src h.tok.weight) s2

/-- Has the instance an incomplete request, or an output port a token or a unit that it has yet to write (R258, R341)? DEDUCED: log entry
92. -/
def State.instBusy (s : State) (k : InstKey) (i : Inst) : Bool :=
  s.z.ops.any (fun o => o.inst == some k) || i.ports.any (fun p => !p.toks.isEmpty || !p.units.isEmpty)

/-- A tile applies an instance's sweep (R258): the firings end, and the matching entries and sump records go, unless it has done so. What it
removes is counted in LEFT of the colour's exit casement. DEDUCED: log entries 13 and 15. -/
def State.sweepTile (s : State) (k : InstKey) (i : Inst) (tile : Nat) : State :=
  let r := s.region k.region
  let t := r.phys tile
  if i.swept.contains tile then s
  else
    let tags := tagOf r.image.tagw k.colour k.f0
    let s1 := s.endFirings t r.ctx (fun f => f.region == k.region && tags f.tag)
    let p := s1.removeEntries t r.ctx (fun e => e.swept r.image.tagw k.colour k.f0) tags
    (p.2.modCasement k.region k.colour true (fun g => { g with left := sat32 (g.left + p.1) })).modInst k (fun i =>
      { i with swept := tile :: i.swept })

/-- SWEEP_ACKNOWLEDGE (R30, R258, R427): a tile of the region applies an ended instance's sweep, and acknowledges it once no
request of the instance is incomplete. -/
def execSweepAcknowledge (region colour f0 tile : Nat) (s : State) : Out :=
  let r := s.region region
  let k : InstKey := { region := region, colour := colour, f0 := f0 }
  let t := r.phys tile
  let moving := s.swaps.any (fun w => w.step == .transfer && (w.lo == t || w.hi == t))
  match s.inst k with
  | none => .next s
  | some i =>
    if i.verdict.isNone || r.tileCount ≤ tile || moving then .next s
    else
      let s1 := s.sweepTile k i tile
      if s1.instBusy k i then .next s1
      else .next (s1.modInst k (fun i => { i with sweep := some ((i.sweep.getD (upTo r.tileCount)).filter (fun n => n != tile)) }))

/-! ### The completion (R19, R256, R259, R309, R344) -/

/-- The completion token of an ended instance. -/
def State.completionOf (s : State) (i : Inst) (v : Verdict) (wide : Bool) (mact : Nat) : Token :=
  let payload : Vec := if v.err then v.payload
    else BitVec.ofNat 512 (i.results % 2 ^ 32 + min (s.cycle - i.admitted) 0xFFFFFFFF * 2 ^ 32)
  { tag := i.tag, ctl := mkCtl v.err false 2 false false mact, wide := wide || v.err, payload := payload, clock := i.clock }

/-- The instance retires: its tag returns to the pool and the counts fall (R256, R309). -/
def State.retireInst (s : State) (k : InstKey) : State :=
  (s.modRegion k.region (fun r => { r with
    insts := r.insts.filter (fun i => !i.is k.colour k.f0)
    retired := r.retired + 1 })).modColour k.region k.colour (fun c => { c with drawn := c.drawn.filter (fun v => v != k.f0) })

/-- COMPLETION_EMIT (R19, R100, R258, R259, R281, R344): every tile has acknowledged; the exit casement sends the completion on
output 1, or puts it into the region's completion queue. -/
def execCompletionEmit (region colour f0 : Nat) (s : State) : Out :=
  let r := s.region region
  let k : InstKey := { region := region, colour := colour, f0 := f0 }
  let c := r.colour colour
  let t := r.phys c.xtile
  let a := (s.tctx t r.ctx).wordA c.xslot
  let e := waOut a 1
  match s.inst k with
  | none => .next s
  | some i =>
    match i.verdict with
    | none => .next s
    | some v =>
      let first := match i.fired with
        | none => true
        | some n => !r.insts.any (fun j => j.colour == colour && (match j.fired with
          | some m => m < n
          | none => false))
      let room := e == 0xFF || ((AMap.get [] (s.tctx t r.ctx).stage e).isEmpty && !s.swapHolds t)
      if i.sweep != some [] || s.instBusy k i || !first || !room then .next s
      else if e = 0xFF then
        .next ((s.retireInst k).modRegion region (fun g => { g with queue := g.queue ++ [s.completionOf i v false 0] }))
      else .next ((s.retireInst k).emitOn t r.ctx e (s.completionOf i v true (waMact a)))

end Sys2Proof.Machine
end

