-- ==== Sys2Proof/Machine/Region.lean ====
section
/-! DEFINITION. Regions (R307, R308, R322, R329 to R333, R310 to R312): loading, unloading and killing a region, the checks of
its certificate, switching contexts, and changing an edge's depth. -/

namespace Sys2Proof.Machine

/-! ### Issuing a fabric command (R322, R326) -/

/-- Issue a fabric command: its register operands, its operand faults, and what it does with its selector, which is x[`A`]. -/
def fabric (o : Operands) (more : List RegField) (bad : Bool) (s : State) (k : Word → Regs → State → Out) : Out :=
  issue { Use.onSeq with xs := o.a :: more, c := o.c, t := o.t, bad := badIf bad } s (fun rd s1 => k (rd o.a) rd s1)

/-- The gallery whose regions the issuing slot commands (R322). -/
def State.myGallery (s : State) : Nat := s.galleryOf s.cur

/-- Is a region commanded from another gallery (R322)? -/
def State.foreign (s : State) (region : Nat) : Bool :=
  (s.region region).state != .unloaded && (s.region region).home != s.myGallery

/-- Issue a command on a loaded region: 0x20 for a region of another gallery, 0x21 for an Unloaded one. -/
def onRegion (o : Operands) (more : List RegField) (bad : Bool) (s : State) (k : Word → Regs → State → Out) : Out :=
  fabric o more bad s (fun sel rd s1 =>
    if s1.foreign (selReg sel) then s1.answer o 0x20 0
    else if (s1.region (selReg sel)).state = .unloaded then s1.answer o 0x21 0
    else k sel rd s1)

/-! ### The certificate (R307) -/

/-- The loaded contexts of a tile. -/
def State.loadedOn (s : State) (t : Nat) : List TileCtx := ((s.tile t).ctxs.map Prod.snd).filter (fun c => c.state != .empty)

/-- The pool cap of the ranges that may not spill (R307, check 4). -/
def RegionImage.noSpill (i : RegionImage) : Nat :=
  ((i.ranges.filter (fun r => r.nosp)).map (fun r => (r.last + 1 - r.first) * r.cap)).sum

/-- The index of the range that holds a colour (R305). -/
def RegionImage.rangeOf (i : RegionImage) (c : Nat) : Option (Nat × CertRange) :=
  ((upTo i.ranges.length).zip i.ranges).find? (fun r => r.2.first ≤ c && c ≤ r.2.last)

/-- Does a colour's row keep to its range (R307, check 9)? -/
def RegionImage.rowOk (i : RegionImage) (c share cap quota stall : Nat) : Bool :=
  match i.rangeOf c with
  | Option.none => false
  | Option.some (_, r) => share == r.share && cap ≤ r.cap && quota ≤ r.lim && (stall != 0 || r.nosp)

/-- A result that names a tile and an index. -/
def certResult (tile index : Nat) : Nat := tile % 1024 + index % 1024 * 1024

/-- The first index that fails a test, and where: tiles in order, then indices. -/
def firstFail (tiles : Nat) (indices : Nat → List Nat) (bad : Nat → Nat → Bool) : Option Nat :=
  (upTo tiles).findSome? (fun l => ((indices l).find? (fun i => bad l i)).map (fun i => certResult l i))

/-- Checks 2 to 8 of R307 for a region; the status and the place of the first failure, 0 where all pass. -/
def State.certPools (s : State) (n : Nat) : Nat × Nat :=
  let r := s.region n
  let i := r.image
  let on := fun (l : Nat) => s.loadedOn (r.phys l)
  let images := fun (l : Nat) => (on l).map (fun c => (s.region c.region).image)
  let shares := fun (l : Nat) => ((images l).map RegionImage.reserved).sum
  let tile := fun (l : Nat) => (AMap.find i.tiles l).getD { dsum := 0, minst := 0, localBytes := 0, scr := 0, we := [] }
  let one := fun (_ : Nat) => [0]
  let ranges := fun (_ : Nat) => upTo i.ranges.length
  let rng := fun (k : Nat) => i.ranges.getD k { first := 0, last := 0, lim := 0, share := 0, cap := 0, nosp := false }
  let ctx := fun (l : Nat) => s.tctx (r.phys l) r.ctx
  let checks : List (Nat × Option Nat) :=
    [(0x10, firstFail r.tileCount one (fun l _ => 16384 < ((on l).map (fun c => c.dsum)).sum)),
     (0x11, firstFail r.tileCount one (fun l _ => 7680 < shares l)),
     (0x12, firstFail r.tileCount one (fun l _ => 8192 < shares l + ((images l).map RegionImage.noSpill).sum)),
     (0x13, firstFail r.tileCount ranges (fun l k => (rng k).share + (rng k).cap < (tile l).minst * (rng k).lim)),
     (0x14, firstFail r.tileCount (fun l => (ctx l).edges.map Prod.fst) (fun l e =>
       edgeDepth ((ctx l).edge e) != 0 && edgeDepth ((ctx l).edge e) < AMap.get 0 (tile l).we e * i.quotaAll)),
     (0x15, firstFail (min 1 r.tileCount) ranges (fun _ k => i.quotaAll < (rng k).lim)),
     (0x17, firstFail r.tileCount one (fun l _ => 2 ^ 21 < ((on l).map (fun c => c.blockSize)).sum))]
  match checks.find? (fun c => c.2.isSome) with
  | some (st, res) => (st, res.getD 0)
  | none => (0, 0)

/-- Check 9 of R307: the open colours keep to their ranges. -/
def State.certColours (s : State) (n : Nat) : Nat × Nat :=
  let r := s.region n
  match r.colours.find? (fun c => c.2.state == 1 && !r.image.rowOk c.1 c.2.share c.2.cap c.2.quota c.2.stall) with
  | none => (0, 0)
  | some (c, _) => (0x18, certResult 0 ((r.image.rangeOf c).elim 0 Prod.fst))

/-- Every check of R307 that a loaded region can fail: check 1 is the load's (R330). -/
def State.certify (s : State) (n : Nat) : Nat × Nat :=
  let p := s.certPools n
  if p.1 != 0 then p else s.certColours n

/-! ### The end of a region (R34, R126, R311, R318, R329) -/

/-- Empty a tile's context: its firings leave, its pools are given up, its block of local memory is zero-filled. -/
def State.emptyCtx (s : State) (t ctx : Nat) : State :=
  let s1 := (s.firingsOn t ctx (fun _ => true)).foldl (fun st p => st.leaveSlot p true) s
  let c := s1.tctx t ctx
  (s1.modTile t (fun x => { x with
    loc := Memory.clear x.loc c.blockBase c.blockSize
    traffic := if c.live then [] else x.traffic
    locPoison := x.locPoison.filter (fun l => 64 * l.1 < c.blockBase || c.blockBase + c.blockSize ≤ 64 * l.1) })).setCtx t ctx
    TileCtx.empty

/-- Is a waiting command one that the end of its region ends? -/
def CmdKind.onRegion (k : CmdKind) : Bool :=
  match k with
  | .cfgsw | .cfged .. | .cclose _ | .ckill _ | .unbind .. | .rearm .. | .barr _ | .inj _ | .lnch .. | .swpx .. => true
  | .await src _ _ _ => src != 1
  | _ => false

/-- The status with which the end of its region ends a command (R310, R318, R327, R427): a kill's, or, at an unload that kills no
instance (R329), that of an Unloaded region. -/
def CmdKind.killStatus (k : CmdKind) (kill fence : Bool) : Nat :=
  match k with
  | .swpx .. => 0x34
  | .cfged .. => if kill then 0x19 else 0x21
  | .cfgsw => if fence then 0x1A else if kill then 0x28 else 0x21
  | _ => if kill then 0x28 else 0x21

/-- A waiting command fails: an AWAIT's x[`D`] stops being pending, a launch's entry is freed. -/
def State.failCmd (s : State) (c : Cmd) (status : Nat) : State :=
  match c.kind with
  | .await _ _ _ d => (s.finishCmd c status 0).modCore c.core (fun k => k.clearX d)
  | .lnch .. => s.endLaunch c.id status 0
  | _ => s.finishCmd c status 0

/-- A region becomes Unloaded: its contexts are Empty, its tokens and swaps are gone, the commands that wait on it end. Where
it is killed, its generation advances (R34). -/
def State.unloadRegion (s : State) (n : Nat) (kill fence : Bool) : State :=
  let r := s.region n
  let s1 := r.sites.foldl (fun st t => st.emptyCtx t r.ctx) s
  let mine := fun (o : MemOp) => o.inst.any (fun k => k.region == n)
  let s2 : State := { s1 with
    z := { s1.z with ops := (s1.z.ops.filter (fun o => !(mine o && o.unserved))).map (fun o =>
      if mine o then { o with pending := false } else o) }
    flights := s1.flights.filter (fun f => f.region != n)
    swaps := s1.swaps.filter (fun w => w.region != n)
    rings := AMap.erase s1.rings n }
  let gen := if kill then (r.gen + 1) % 256 else r.gen
  let s3 := s2.modRegion n (fun _ => { Region.unloaded with gen := gen })
  (s3.cmds.filter (fun c => c.region == n && c.kind.onRegion)).foldl (fun st c => st.failCmd c (c.kind.killStatus kill fence)) s3

/-! ### CFGLD (R319, R330) -/

/-- CFGLD to load or to unload (R330): a load waits for its image; an unload acts at once. DEDUCED: log entry 23. -/
def cfgldForms (o : Operands) (s : State) : Out :=
  fabric o [o.b] false s (fun sel rd s1 =>
    let n := selReg sel
    let r := s1.region n
    if rd o.b != 0 then
      if galleryOfTile (selTile sel) != s1.myGallery || s1.foreign n then s1.answer o 0x20 0
      else .next (s1.holdCmd o sel (.cfgld (rd o.b).toNat (selTile sel) false))
    else if s1.foreign n then s1.answer o 0x20 0
    else if r.state = .unloaded || r.ctx != selCtx sel then s1.answer o 0x21 0
    else (s1.unloadRegion n (!r.insts.isEmpty) false).answer o 0 0)

/-- CFGLD with x[`B`] ≠ 0 (R330). -/
def execCfgldLoad (o : Operands) (s : State) : Out := cfgldForms o s
/-- CFGLD with x[`B`] = 0 (R330). -/
def execCfgldUnload (o : Operands) (s : State) : Out := cfgldForms o s

/-- Where a byte of an image lies: its physical address and its key. -/
def State.imagePlace (s : State) (p va : Nat) : Option (Nat × Nat) :=
  (s.translate (s.extentsOf p) va 1 .read).map (fun r => (r.1, r.2.1))

/-- The bytes that some 8-byte units hold, from byte `skew` on. -/
def imgOf (ws : List Word) (skew : Nat) : Img := fun off n =>
  foldUp (fun i acc =>
    let k := skew + off + i
    acc + ((ws.getD (k / 8) 0).toNat >>> (8 * (k % 8))) % 256 * 2 ^ (8 * i)) n 0

/-- How many 8-byte units hold a range. -/
def unitsOf (va n : Nat) : Nat := if n = 0 then 0 else (va % 8 + n + 7) / 8

/-- How many units a region image at an address takes, as far as what has been read says: its header first. -/
def imageUnits (base : Nat) (got : List Word) : Nat :=
  if got.length < unitsOf base 128 then unitsOf base 128 else unitsOf base (max 128 (readHeader (imgOf got (base % 8))).size)

/-- The address of the unit that CFGLD reads next: the region image's (R330), then the persistent-state image's (R447); none where it has
read both. -/
def cfgldUnit (base : Nat) (got : List Word) : Option Nat :=
  let n := imageUnits base got
  let h := readHeader (imgOf got (base % 8))
  if got.length < n then some (base / 8 * 8 + 8 * got.length)
  else if got.length < n + unitsOf h.lva h.lsize then some (h.lva / 8 * 8 + 8 * (got.length - n))
  else none

/-- An 8-byte unit of an image, as a slot reads it. -/
def State.imageUnit (s : State) (p va : Nat) : Word :=
  match s.imagePlace p va with
  | some (pa, key) => BitVec.ofNat 64 (View.bytes s.root.keys (s.view (domainOf p)) key pa 8)
  | none => 0

/-- The exception of the first byte of `size` that cannot be read: unmapped, or poisoned (R144, R330). DEDUCED: log entry
22. -/
def State.imageFault (s : State) (p base size : Nat) : Option Exc :=
  match findUp (fun i => (s.imagePlace p (base + i)).isNone) size with
  | some i => some (excAt 0x04 0 (base + i))
  | none =>
    (findUp (fun i => match s.imagePlace p (base + i) with
      | some (pa, _) => (s.view (domainOf p)).poisoned pa
      | none => false) size).map (fun i => excAt 0x05 0 (base + i))

/-- The highest free place for a block on a tile (R125). -/
def State.blockPlace (s : State) (t size : Nat) : Option Nat :=
  let used := (s.loadedOn t).map (fun c => (c.blockBase, c.blockSize))
  let free := fun (b : Nat) => used.all (fun u => u.1 + u.2 ≤ b || b + size ≤ u.1)
  if 2 ^ 21 < size then none
  else (findUp (fun i => free (4096 * (512 - size / 4096 - i))) (513 - size / 4096)).map (fun i => 4096 * (512 - size / 4096 - i))

/-- The size of a tile's block (R125). -/
def imageBlock (img : Img) (h : RgnHeader) (l : Nat) : Nat :=
  let c := readCertTile img h l
  roundUp (16384 + 4 * c.scr + c.localBytes) 4096

/-- The checks of a load after its image has been read, in R330's order: 0 where all pass. -/
def State.loadStatus (s : State) (c : Cmd) (origin : Nat) (img : Img) (h : RgnHeader) : Nat :=
  let fits : Bool := origin % 32 + h.w ≤ 32 && origin / 32 + h.h ≤ 32
  let site := fun (l : Nat) => (origin / 32 + l / h.w) * 32 + (origin % 32 + l % h.w)
  let tiles := upTo h.nt
  if !headerOk img h || h.reg != c.region || h.ctx != c.ctx || !tiles.all (tileAgrees img h) then 0x22
  else if !fits || tiles.any (fun l => (s.tctx (site l) h.ctx).state != .empty ||
      ((readTile img h l).row0 && !inRow0 (site l))) then 0x23
  else if tiles.any (fun l => (s.tile (site l)).fenced) then 0x1A
  else if !imageOk img h then 0x22
  else if !certOk img h then 0x16
  else if tiles.any (fun l => (s.blockPlace (site l) (imageBlock img h l)).isNone) then 0x17
  else 0

/-- The persistent-state image that CFGLD writes as the template (R447): the lines that it covers are not poisoned any more (R144). -/
def State.writeTemplate (s : State) (t ctx : Nat) (h : RgnHeader) (local_ : Img) : State :=
  let b := (s.tctx t ctx).templateBase
  if h.lsize = 0 then s
  else s.modTile t (fun x => { x with
    loc := Memory.writeN x.loc b h.lsize (local_ 0 h.lsize)
    locPoison := x.locPoison.filter (fun l => !(b ≤ 64 * l.1 && 64 * l.1 + 64 ≤ b + h.lsize)) })

/-- Load the region (R125, R311, R330, R349, R447): its contexts are Loading. -/
def State.loadRegion (s : State) (n origin : Nat) (img : Img) (h : RgnHeader) (local_ : Img) : State :=
  let gen := ((s.region n).gen + 1) % 256
  let s1 := s.modRegion n (fun _ => { Region.unloaded with
    state := .loaded, gen := gen, ctx := h.ctx, origin := origin, image := regionImage img h })
  let r := s1.region n
  (upTo h.nt).foldl (fun st l =>
    let t := r.phys l
    let base := (st.blockPlace t (imageBlock img h l)).getD 0
    (st.setCtx t h.ctx { tileContext img h l base with state := .loading }).writeTemplate t h.ctx h local_) s1

/-- Does a request still carry the generation that a load would assign (R319)? -/
def State.genLive (s : State) (n : Nat) : Bool :=
  let gen := ((s.region n).gen + 1) % 256
  s.z.ops.any (fun o => o.gen == gen && o.inst.any (fun k => k.region == n))

/-- The trap of a load whose image cannot be read: the command ends with it. -/
def State.loadTrap (s : State) (c : Cmd) (e : Exc) : State :=
  let s1 := { s with cmds := s.cmds.filter (fun x => x.id != c.id) }
  ((s1.modCore c.core (fun k => k.release c.id)).complete c.core c.done 0 0).raiseAt c.core e c.pc

/-- Has the slot an earlier write of a range that its view does not hold yet (R44, Same location)? -/
def State.ownWrite (s : State) (c : Cmd) (pa n : Nat) : Bool :=
  s.z.ops.any (fun o => o.id < c.id && o.party == c.core && o.reqs.any (fun r =>
    r.writes && r.state == .buffered && r.pa < pa + n && pa < r.pa + r.size))

/-- CFGLD reads a unit of its image (R455): a byte that no extent maps traps, and a poisoned one (R330, R144). DEDUCED: log entry 22. -/
def State.readUnit (s : State) (c : Cmd) (va : Nat) : State :=
  match s.imageFault c.core va 8, s.imagePlace c.core va with
  | some e, _ => s.loadTrap c e
  | none, none => s
  | none, some (pa, _) =>
    if s.ownWrite c pa 8 then s
    else { s with cmds := s.cmds.map (fun x => if x.id == c.id then { x with got := c.got ++ [s.imageUnit c.core va] } else x) }

/-- The first part of a load (R319, R330, R455): the image is read, one aligned 8-byte unit at a turn, and checked on the values read;
then the contexts begin to load. DEDUCED: log entry 23. -/
def State.beginLoad (s : State) (c : Cmd) (base origin : Nat) : State :=
  if (s.region c.region).state != .unloaded then s.finishCmd c 0x21 0
  else if s.genLive c.region then s
  else match cfgldUnit base c.got with
    | some va => s.readUnit c va
    | none =>
      let img := imgOf c.got (base % 8)
      let h := readHeader img
      let st := s.loadStatus c origin img h
      if st != 0 then s.finishCmd c st 0
      else (s.loadRegion c.region origin img h (imgOf (c.got.drop (imageUnits base c.got)) (h.lva % 8))).modCmd c.id (.cfgld base origin true)

/-- The last image byte has been written (R311): the contexts are Loaded. A region that has been unloaded or fenced meanwhile ends the
command. -/
def State.endLoad (s : State) (c : Cmd) : State :=
  let r := s.region c.region
  if r.state == .loaded && r.sites.all (fun t => (s.tctx t r.ctx).state == .loading) then
    (r.sites.foldl (fun st t => st.modCtx t r.ctx (fun x => { x with state := .loaded })) s).finishCmd c 0 r.tileCount
  else s.finishCmd c (if r.gen == (c.gen + 1) % 256 then 0x21 else 0x28) 0

/-- CFGLD_COMPLETE (R311, R319, R330): the image has been read and checked, or it has been written. -/
def execCfgldComplete (cmd : Nat) (s : State) : Out :=
  match s.cmd cmd with
  | none => .next s
  | some c =>
    match c.kind with
    | .cfgld base origin loading => .next (if loading then s.endLoad c else s.beginLoad c base origin)
    | _ => .next s

/-! ### CFGCK and CFGSW (R308, R312, R331, R332) -/

/-- CFGCK (R332). -/
def execCfgck (o : Operands) (s : State) : Out :=
  onRegion o [] false s (fun sel _ s1 =>
    if (s1.region (selReg sel)).ctx != selCtx sel then s1.answer o 0x21 0
    else let r := s1.certify (selReg sel); s1.answer o r.1 r.2)

/-- Is a region Loaded on every one of its tiles, in a context? -/
def State.isLoaded (s : State) (n ctx : Nat) : Bool :=
  let r := s.region n
  (r.state == .loaded || r.state == .suspended || r.state == .parked) && r.ctx == ctx &&
    r.sites.all (fun t => (s.tctx t ctx).state == .loaded)

/-- CFGSW (R331): it waits for the drains and the checks. -/
def execCfgsw (o : Operands) (s : State) : Out :=
  onRegion o [] false s (fun sel _ s1 =>
    if s1.isLoaded (selReg sel) (selCtx sel) then .next (s1.holdCmd o sel .cfgsw) else s1.answer o 0x21 0)

/-- The other regions whose context is active on one of a region's tiles. -/
def State.occupants (s : State) (n : Nat) : List Nat :=
  ((s.regions.filter (fun r => r.1 != n && (r.2.state == .active || r.2.state == .armed) && r.2.overlaps (s.region n))).map Prod.fst)

/-- A region's contexts change state. -/
def State.setContexts (s : State) (n : Nat) (f : TileCtx → TileCtx) : State :=
  let r := s.region n
  r.sites.foldl (fun st t => st.modCtx t r.ctx f) s

/-- A drained region is Parked if it was Armed, and Loaded otherwise (R331). -/
def State.parkRegion (s : State) (n : Nat) : State :=
  (s.setContexts n (fun c => { c with state := .loaded })).modRegion n (fun r => { r with
    state := if r.state == .armed then .parked else .loaded })

/-- A region's context becomes active: it is Armed if it was Parked or Suspended, and Active otherwise; a fresh quantum starts,
and its traffic tables are cleared (R331, R350, R418). -/
def State.activateRegion (s : State) (n : Nat) : State :=
  let r := s.region n
  let s1 := s.setContexts n (fun c => { c with state := .active, suspended := false })
  let s2 := r.sites.foldl (fun st t => st.modTile t (fun x => { x with traffic := [] })) s1
  s2.modRegion n (fun r => { r with
    state := if r.state == .parked || r.state == .suspended then .armed else .active
    preempting := false
    qStart := s.cycle })

end Sys2Proof.Machine
end

