-- ==== Sys2Proof/Machine/Swap.lean ====
section
/-! DEFINITION. The swap log (R434) and the abandonment of a swap (R423, R427). -/

namespace Sys2Proof.Machine

/-- A record of the swap log for a swap that ends its exchange now (R434): kind 0 swapped, 1 abandoned; 2 more for SWPX. -/
def State.swapRecord (s : State) (w : Swap) (kind : Nat) : SwapLog :=
  { gain := if w.cmd.isSome then 0 else min w.gain.toNat 0xFFFF, lta := w.la, ltb := w.lb, pha := w.lo,
    kind := if w.cmd.isSome then kind + 2 else kind, cyc := min (s.cycle - w.began) 0xFFFF }

/-- Put a record into a ring of 16: a full ring loses its oldest (R434). -/
def SwapRing.push (r : SwapRing) (x : SwapLog) : SwapRing :=
  if r.recs.length < 16 then { r with recs := r.recs ++ [x] } else { recs := r.recs.drop 1 ++ [x], lost := min (r.lost + 1) 255 }

/-- Log a swap (R434). -/
def State.logSwap (s : State) (w : Swap) (kind : Nat) : State :=
  { s with rings := AMap.modify { recs := [], lost := 0 } s.rings w.region (fun r => r.push (s.swapRecord w kind)) }

/-- The SWPX that asked for a swap completes. -/
def State.endSwpx (s : State) (w : Swap) (status : Nat) : State :=
  match w.cmd.bind s.cmd with
  | some c => s.finishCmd c status 0
  | none => s

/-- A swap is abandoned (R423, R427): it is logged, issue resumes, and its SWPX completes with 0x34. -/
def State.abandonSwap (s : State) (w : Swap) : State :=
  let s1 := s.logSwap w 1
  State.endSwpx { s1 with swaps := s1.swaps.filter (fun x => x.id != w.id) } w 0x34

end Sys2Proof.Machine
end

