-- ==== Sys2Proof/Machine/Firing.lean ====
section
/-! DEFINITION. Actor firings on a core's slots (R24, R30, R148, R150, R154, R155): issue, suspension, resumption, the
watchdog; and the block scheduler with quanta (R31 to R33, R349, R350, R413) and the switch of contexts (R331). -/

namespace Sys2Proof.Machine

/-! ### Ready bindings (R148) -/

/-- The unreserved tokens of a colour in input queue n of a context. -/
def TileCtx.freeTokens (c : TileCtx) (n colour : Nat) : List Held :=
  (AMap.get [] c.buffers (queueBuf n)).filter (fun h => h.reserved.isNone && tagColour h.tok.tag == colour)

/-- The queues that a binding rates. -/
def Binding.queues (b : Binding) : List Nat := (upTo 8).filter (fun n => b.qRates.getD n 0 != 0)

/-- The tokens that a firing of a binding would reserve; none where some queue holds too few. -/
def TileCtx.wouldReserve (c : TileCtx) (b : Binding) (colour : Nat) : Option (List Held) :=
  if b.queues.all (fun n => b.qRates.getD n 0 ≤ (c.freeTokens n colour).length) then
    some (b.queues.flatMap (fun n => (c.freeTokens n colour).take (b.qRates.getD n 0)))
  else none

/-- Runs or waits a firing of a binding and colour, on its tile? -/
def State.bindingBusy (s : State) (t ctx bnd colour : Nat) : Bool :=
  !(s.firingsOn t ctx (fun f => f.bnd == bnd && f.colour == colour)).isEmpty ||
    (s.tctx t ctx).saved.any (fun f => f.2.bnd == bnd && f.2.colour == colour)

/-- What a ready binding would reserve for a colour. -/
def State.readySet (s : State) (t ctx bnd colour : Nat) : Option (List Held) :=
  let c := s.tctx t ctx
  match AMap.find c.binds bnd with
  | none => none
  | some b => if s.bindingBusy t ctx bnd colour then none else c.wouldReserve b colour

/-- A ready firing's age: the cycle in which its set became complete, then its tag (R24). -/
def setAge (hs : List Held) : Nat × Nat :=
  ((hs.map (fun h => h.cycle)).foldl max 0, (hs.head?).elim 0 (fun h => tagNest h.tok.tag))

/-- The colours with tokens in a context's input queues. -/
def TileCtx.queueColours (c : TileCtx) : List Nat :=
  ((upTo 8).flatMap (fun n => (AMap.get [] c.buffers (queueBuf n)).map (fun h => tagColour h.tok.tag))).eraseDups

/-- The ready firings of a context's actor core, as operand sets. -/
def State.firingSets (s : State) (t ctx : Nat) : List OpSet :=
  let c := s.tctx t ctx
  c.queueColours.flatMap (fun k => c.binds.filterMap (fun b => (s.readySet t ctx b.1 k).map (fun hs =>
    { slot := b.1, colour := k, seq := b.1, cycle := (setAge hs).1, toks := hs.map (fun h => h.member false) })))

/-- The colours of the ready firings, the oldest first. -/
def State.readyColours (s : State) (t ctx : Nat) : List Nat := agedColours (s.firingSets t ctx)

/-- Is a firing the oldest ready one of its colour (R24)? -/
def State.oldestReady (s : State) (t ctx colour : Nat) (hs : List Held) : Bool :=
  let a := setAge hs
  (s.tctx t ctx).binds.all (fun b => match s.readySet t ctx b.1 colour with
    | none => true
    | some x => let k := setAge x; a.1 < k.1 || (a.1 == k.1 && a.2 ≤ k.2))

/-! ### ACTOR_FIRING_ISSUE (R24, R148, R150, R154) -/

/-- `FINFO` (R184). -/
def finfo (ltile ctx slot bnd : Nat) : Word := BitVec.ofNat 64 (ltile * 2 ^ 16 + ctx * 2 ^ 10 + slot * 2 ^ 8 + bnd)

/-- The code extent of an instance's firings: extent 15 (R278). -/
def State.codeExtentFor (s : State) (k : InstKey) : Extent := ((s.inst k).bind (fun i => AMap.find i.extents 15)).getD Extent.none

/-- A core as a firing starts it (R150). -/
def firingCore (c : TileCtx) (f : Firing) (slot entry : Nat) (x : Extent) : Core :=
  let k : Core := { Core.reset with
    run := .running
    pc := BitVec.ofNat 64 (c.codeBase + entry)
    firing := f
    codeBase := c.codeBase
    codeSize := c.codeSize
    codeExtent := x }
  ((((k.wx 1 (BitVec.ofNat 64 (c.areaOf f.colour))).wx 2 f.tag).wx 3 (BitVec.ofNat 64 (c.scratchBase slot))).wx 4
    (BitVec.ofNat 64 c.scr)).wx 5 (finfo c.ltile f.ctx slot f.bnd)

/-- Reserve tokens for a slot. -/
def TileCtx.reserve (c : TileCtx) (hs : List Held) (slot : Nat) : TileCtx :=
  { c with buffers := c.buffers.map (fun b => (b.1, b.2.map (fun h =>
    if hs.any (fun x => x.seq == h.seq) then { h with reserved := some slot } else h))) }

/-- May a context's actor core issue (R31, R249, R318, R423)? -/
def State.coreOpen (s : State) (t ctx : Nat) : Bool :=
  let c := s.tctx t ctx
  c.state == .active && !(s.region c.region).preempting && !(s.tile t).fenced && !s.swapHolds t

/-- ACTOR_FIRING_ISSUE (R24, R148, R150): the arbiter issues a firing of a binding for a colour into a free slot. -/
def execActorFiringIssue (tile slot binding colour : Nat) (s : State) : Out :=
  let ctx := s.activeCtx tile
  let c := s.tctx tile ctx
  let p := 256 + 4 * tile + slot
  let free : Bool := slot < 4 && (s.core p).run == .empty && !AMap.has c.saved slot
  match AMap.find c.binds binding, s.readySet tile ctx binding colour with
  | some b, some hs =>
    if !s.coreOpen tile ctx || !free || !s.oldestReady tile ctx colour hs || !s.turnOk c 24 colour (s.readyColours tile ctx) then .next s
    else
      let tag := (hs.head?).elim 0 (fun h => h.tok.tag)
      let f : Firing := { Firing.none with
        region := c.region, ctx := ctx, colour := colour, bnd := binding, tag := tag, started := s.cycle, scratch := s.freeCount }
      let x := s.codeExtentFor (s.instOfTag c.region tag)
      let s1 := { s with freeCount := s.freeCount + c.scr }
      let s2 := ((s1.dropAsk p).setCore p (firingCore c f slot b.entry x)).zeroClock p
      let s3 := hs.foldl (fun st h => st.mergeClock p h.tok.clock) s2
      .next ((s3.modCtx tile ctx (fun k => { (k.reserve hs slot) with lastFire := AMap.put k.lastFire colour s.cycle })).takeTurn
        tile ctx 24 colour (s.readyColours tile ctx))
  | _, _ => .next s

/-! ### Suspension (R31, R99, R154, R155, R224, R401) -/

/-- Is the operation one whose requests are all still in the issue buffer, and that no unit carries on? -/
def State.unissued (s : State) (o : MemOp) : Bool :=
  o.own.isNone && o.reqs.all (fun r => r.state == .buffered) && !s.copies.any (fun c => c.op == o.id) &&
    !s.streams.any (fun j => j.op == o.id)

/-- The operations that a suspension of the firing takes with it, in issue order: its unserved WAITVs, and what waits unissued behind
them through the arcs of R44. These cannot complete before the WAITV is served, and R224 and R239 let the suspension come first: they
are made again with it. DEDUCED: log entry 17. -/
def State.waiters (s : State) (p : Nat) : List MemOp :=
  s.z.ops.foldl (fun l o => if o.core == some p && (o.unserved || (s.unissued o && l.any (fun w => o.arcs.contains w.id))) then l ++ [o]
    else l) []

/-- A core without the marks of some operations. -/
def Core.clearOps (c : Core) (ops : List MemOp) : Core := ops.foldl (fun k o => (k.clearSink o.sink).clearX o.done) c

/-- A withdrawn WAITV record (R224). -/
def waitRecord (o : MemOp) : Nat :=
  let d := match o.sink with
    | .xreg r _ _ => r.toNat
    | _ => 0
  ((o.reqs.head?).elim 0 (fun r => r.va)) + o.cmp % 2 ^ 64 * 2 ^ 64 + (o.cond.getD 0 % 8 + 0x80) * 2 ^ 128 +
    o.md % 16 * 2 ^ 136 + d * 2 ^ 144 + o.done.toNat * 2 ^ 152

/-- The slot record of a firing (R155), as the bytes of a number. -/
def slotRecord (c : Core) (pc : Word) (fcyc walk : Nat) (waits : List Nat) : Nat :=
  let at_ := fun (off v : Nat) => v * 2 ^ (8 * off)
  foldUp (fun i a => a + at_ (8 * i) (c.rx (BitVec.ofNat 6 i)).toNat) 64 0 +
    foldUp (fun i a => a + at_ (0x200 + 64 * i) (c.rv (BitVec.ofNat 5 i)).toNat) 32 0 +
    foldUp (fun i a => a + at_ (0xA00 + 8 * i) (c.rm (BitVec.ofNat 4 i)).toNat) 16 0 +
    foldUp (fun i a => a + at_ (0xA80 + 64 * i) (c.rh (BitVec.ofNat 3 i)).toNat) 8 0 +
    at_ 0xC80 pc.toNat + at_ 0xC88 c.firing.fflags.toNat + at_ 0xC90 (fcyc % 2 ^ 64) + at_ 0xC98 c.firing.tag.toNat +
    foldUp (fun i a => a + at_ (0xCA0 + i) (min 255 (c.firing.pops.getD i 0))) 8 0 +
    foldUp (fun i a => a + at_ (0xCA8 + i) (min 255 (c.firing.pushes.getD i 0))) 8 0 + at_ 0xCB0 walk +
    ((waits.zip (upTo 4)).map (fun w => at_ (0xCF0 + 32 * w.2) w.1)).sum

/-- The long operation on a channel that holds a core (R401). -/
def State.heldJob (s : State) (p : Nat) : Option QsJob :=
  match (s.core p).run, (s.ownChannel p).bind (fun c => (s.channel (s.galleryOf p) c).job) with
  | .held id, some j => if j.op = id then some j else none
  | _, _ => none

/-- May a firing be suspended now (R99, R154, R365, R379, R401)? It is at an instruction boundary, or in a long selection operation, its
matrix node has no operation of it queued, and it awaits nothing but its open WAITVs and what they hold back. -/
def State.suspendable (s : State) (p : Nat) : Bool :=
  let c := s.core p
  !s.barred p && (c.clearOps (s.waiters p)).quiet && !s.nodeBusy p && (match c.run with
    | .running | .idle .. => true
    | .held _ => (s.heldJob p).isSome
    | .empty | .ending => false)

/-- Stop and save a firing's walk (R399, R401): the long operation ends without its effect on the core, and its mask's writes are
made; the record is the answer. -/
def State.parkWalk (s : State) (p : Nat) : Except Exc (Nat × State) :=
  let g := s.galleryOf p
  match s.ownChannel p with
  | none => .ok (0, s)
  | some c =>
    let s1 := match (s.channel g c).job with
      | some j => s.modOp j.op (fun o => { o with pending := false, core := none, done := 0 })
      | none => s
    match (s1.channel g c).walk with
    | none => .ok (0, s1.modChannel g c (fun _ => Channel.free))
    | some w =>
      match s1.saveWalk p g c w with
      | .error e => .error e
      | .ok (r, reqs) =>
        let k := s1.firingInst p
        let s2 := if reqs.isEmpty then s1
          else s1.addOp { MemOp.empty (chanParty g c) none with
            own := some (s1.clock p), eager := true, inst := some k, gen := (s1.region k.region).gen, reqs := reqs } p
        .ok (r.toNat, s2.modChannel g c (fun _ => Channel.free))

/-- Suspend a firing (R155): its record is written, its open WAITVs are withdrawn with what waits behind them, and its slot is free.
Its reserved tokens and its bank stay with it; what it has issued goes on. What a firing that waited here before it and ended has left
in flight is another party's (R41). A walk whose mask has no place any more faults (R399). -/
def State.suspendFiring (s : State) (p : Nat) : State :=
  let c := s.core p
  let t := tileOf p
  let pc := match (s.heldJob p).bind (fun j => s.op j.op) with
    | some o => o.pc
    | none => c.pc
  match s.parkWalk p with
  | .error e => s.actorFault p e pc
  | .ok (walk, s1) =>
    let gone := s.waiters p
    let base := (s.firingCtx p).saveBase + 4096 * slotOf p
    let record := slotRecord c pc (s.fcyc p) walk ((s.openWaitvs p).map waitRecord)
    let s2 := s1.modTile t (fun x => { x with loc := Memory.writeN x.loc base 4096 record })
    let s3 := s2.modCtx t c.firing.ctx (fun k => { k with
      saved := AMap.put k.saved (slotOf p) c.firing
      parked := AMap.put k.parked (slotOf p) (gone.map (fun o => if o.unserved then none else some o)) })
    let s4 := { s3 with z := { s3.z with ops := s3.z.ops.filter (fun o => !gone.any (fun w => w.id == o.id)) } }
    let q := parkedParty p c.firing.ctx
    let s5 := if s4.partyBusy q then s4.renameParty q (ghostParty p s4.z.nextId) else s4
    (((s5.dropAsk p).renameParty p q).detachOps p q).setCore p Core.reset

/-- FIRING_BUDGET_SUSPEND (R31, R154): a firing of a region that is being pre-empted has reached its budget. DEDUCED: log
entry 19. -/
def execFiringBudgetSuspend (core : Nat) (s : State) : Out :=
  let f := (s.core core).firing
  if isActor core && (s.region f.region).preempting && 2048 ≤ s.fcyc core && s.suspendable core then .next (s.suspendFiring core)
  else .next s

/-- WATCHDOG_EXPIRY (R30, R154): a firing whose count has reached 2^24 ends with the watchdog fault. -/
def execWatchdogExpiry (core : Nat) (s : State) : Out :=
  let c := s.core core
  if isActor core && c.run != .empty && c.run != .ending && 2 ^ 24 ≤ s.fcyc core then .next (s.actorFault core (exc 0x07 0x00) c.pc) else .next s

/-! ### Resumption (R32, R155, R224, R401) -/

/-- A core as its record gives it back (R155). -/
def recordCore (m : Memory) (base : Nat) (f : Firing) (now : Nat) : Core :=
  let rd := fun (off n : Nat) => Memory.readN m (base + off) n
  { Core.reset with
    run := .running
    pc := BitVec.ofNat 64 (rd 0xC80 8)
    x := Vector.ofFn (fun (i : Fin 64) => BitVec.ofNat 64 (rd (8 * i.val) 8))
    v := Vector.ofFn (fun (i : Fin 32) => BitVec.ofNat 512 (rd (0x200 + 64 * i.val) 64))
    m := Vector.ofFn (fun (i : Fin 16) => BitVec.ofNat 64 (rd (0xA00 + 8 * i.val) 8))
    h := Vector.ofFn (fun (i : Fin 8) => BitVec.ofNat 512 (rd (0xA80 + 64 * i.val) 64))
    firing := { f with
      started := now
      fcycBase := rd 0xC90 8
      fflags := BitVec.ofNat 5 (rd 0xC88 8)
      tag := BitVec.ofNat 64 (rd 0xC98 8)
      pops := (upTo 8).map (fun i => rd (0xCA0 + i) 1)
      pushes := (upTo 8).map (fun i => rd (0xCA8 + i) 1) } }

/-- Make a withdrawn WAITV again (R224): the address is translated again; where it no longer translates, the firing faults. -/
def State.remakeWait (s : State) (p : Nat) (w : Nat) : State :=
  let va := bitsAt w 63 0
  let md : BitVec 4 := BitVec.ofNat 4 (bitsAt w 139 136)
  let d : RegField := BitVec.ofNat 6 (bitsAt w 149 144)
  let t : RegField := BitVec.ofNat 6 (bitsAt w 157 152)
  let f := (s.core p).firing
  match s.translate (s.extentsOf p) va 8 .read with
  | none => s.raiseAt p (excAt 0x04 0 va) (s.core p).pc
  | some (pa, key, _) =>
    let op : MemOp :=
      { MemOp.empty p (some p) with
        scope := scopeOf md
        acquire := acquires md false
        md := md.toNat
        done := t
        inst := some (s.firingInst p)
        gen := (s.region f.region).gen
        tagCol := s.colourTag p
        tile := some (tileOf p)
        cond := some (bitsAt w 130 128)
        cmp := bitsAt w 127 64
        reqs := [Req.make .read va pa 8 0 key]
        sink := .xreg d 8 false
        result := 8
        pc := (s.core p).pc }
    (s.putOp op p).modCore p (fun c => (c.markX d).markT t)

/-- Mark an operation's destination as awaiting its result. -/
def Core.markSink (c : Core) (k : Sink) : Core :=
  match k with
  | .xreg r _ _ => c.markX r
  | .vreg r _ _ _ _ => c.markV (vreg r)
  | .hreg r => { c with pendH := c.pendH ||| (1 : BitVec 8) <<< (hreg r).toNat }
  | _ => c

/-- Make again what a suspension has withdrawn, in issue order: the WAITVs by their records, and what waits behind them (R224). -/
def remakeOps (p base : Nat) (m : Memory) : List (Option MemOp) → Nat → State → State
  | [], _, st => st
  | x :: rest, i, st =>
    if (st.core p).run != .running then st
    else match x with
      | none => remakeOps p base m rest (i + 1) (st.remakeWait p (Memory.readN m (base + 0xCF0 + 32 * i) 32))
      | some o => remakeOps p base m rest i ((st.putOp o p).modCore p (fun c => (c.markSink o.sink).markT o.done))

/-- Resume a suspended firing in its own slot, without its walk. -/
def State.resumeFiring (s : State) (t ctx slot : Nat) (f : Firing) : State :=
  let c := s.tctx t ctx
  let p := 256 + 4 * t + slot
  let base := c.saveBase + 4096 * slot
  let m := (s.tile t).loc
  let k := recordCore m base f s.cycle
  let x := s.codeExtentFor (s.instOfTag f.region k.firing.tag)
  let s1 := (s.setCore p { k with codeBase := c.codeBase, codeSize := c.codeSize, codeExtent := x }).modCtx t ctx (fun c =>
    { c with saved := AMap.erase c.saved slot, parked := AMap.erase c.parked slot })
  remakeOps p base m (AMap.get [] c.parked slot) 0 (s1.renameParty (parkedParty p ctx) p)

/-- The walk that a suspended firing's record holds (R393, R401). -/
def State.savedWalk (s : State) (t ctx slot : Nat) : Option Walk :=
  let r := Memory.readN (s.tile t).loc ((s.tctx t ctx).saveBase + 4096 * slot + 0xCB0) 64
  if r.testBit 17 then some (walkOfRecord (BitVec.ofNat 512 r)) else none

/-- Resume the suspended firings of a tile's context (R32); one with a walk waits for a channel (R401). -/
def State.resumeFirings (s : State) (t ctx : Nat) : State :=
  (s.tctx t ctx).saved.foldl (fun st f =>
    if (st.savedWalk t ctx f.1).isSome then st.askChannel (256 + 4 * t + f.1) else st.resumeFiring t ctx f.1 f.2) s

/-- A suspended firing with a walk takes a channel and resumes, once the spill of its mask has been applied (R401, R402). The walk's
ranges are checked again, as QSRST checks them (R399); a firing that faults as it resumes takes no channel. -/
def State.resumeWithWalk (s : State) (p c : Nat) : State :=
  let t := tileOf p
  let ctx := s.activeCtx t
  match AMap.find (s.tctx t ctx).saved (slotOf p), s.savedWalk t ctx (slotOf p) with
  | some f, some w =>
    let s1 := s.resumeFiring t ctx (slotOf p) f
    if (s1.core p).run != .running then s1
    else if s1.spillPending p w then s
    else match s1.walkFaultOf p w with
      | some e => s1.actorFault p e (s1.core p).pc
      | none =>
        let g := s1.galleryOf p
        ((s1.dropAsk p).modChannel g c (fun _ => { Channel.free with owner := some p })).restoreWalk p g c w
  | _, _ => s

/-- Does a core wait for a channel (R386, R401): at QSCFG or QSRST without one, or suspended with a walk in a context that runs? -/
def State.wantsChannel (s : State) (p : Nat) : Bool :=
  if isActor p && (s.core p).run == .empty then
    let ctx := s.activeCtx (tileOf p)
    AMap.has (s.gal (s.galleryOf p)).asks p && AMap.has (s.tctx (tileOf p) ctx).saved (slotOf p) &&
      (s.savedWalk (tileOf p) ctx (slotOf p)).isSome && s.coreOpen (tileOf p) ctx
  else s.asking p && !s.ownsAny p

/-- The cycle since which a core waits for a channel. -/
def State.askedAt (s : State) (p : Nat) : Nat := (AMap.get (0, 0) (s.gal (s.galleryOf p)).asks p).1

/-- Is it a core's turn to take a channel of its gallery: in issue order, and of those that began to wait in one cycle actor cores
before sequencer slots, then the lower tile and the lower slot (R386)? -/
def State.channelTurn (s : State) (p : Nat) : Bool :=
  let ahead := fun (q : Nat) => (isActor q && !isActor p) || (isActor q == isActor p && q < p)
  s.wantsChannel p && !(s.gal (s.galleryOf p)).asks.any (fun a =>
    (s.askedAt a.1 < s.askedAt p || (s.askedAt a.1 == s.askedAt p && ahead a.1)) && s.wantsChannel a.1)

/-- QS_CHANNEL_ACQUIRE (R386, R401): the core whose turn it is takes the lowest free channel; a suspended firing with a walk then
resumes. -/
def execQsChannelAcquire (core : Nat) (s : State) : Out :=
  match findUp (fun c => (s.channel (s.galleryOf core) c).owner == none) 8 with
  | none => .next s
  | some c =>
    if !s.channelTurn core then .next s
    else if isActor core && (s.core core).run == .empty then .next (s.resumeWithWalk core c)
    else .next ((s.dropAsk core).modChannel (s.galleryOf core) c (fun _ => { Channel.free with owner := some core }))

/-! ### Quanta and the block scheduler (R31, R33, R349, R350, R413) -/

/-- The entry tokens that a region has queued (R350): in its injection edges and louvres, and its pool entries. -/
def State.entryTokens (s : State) (n : Nat) : Nat :=
  let r := s.region n
  let entry := fun (c : TileCtx) (slot : Nat) => waKind (c.wordA slot) == 11 && waFunc (c.wordA slot) == 0
  let onTile := fun (t : Nat) =>
    let c := s.tctx t r.ctx
    ((c.slots.filter (fun x => entry c x.1)).map (fun x =>
      (AMap.get [] c.buffers (waIn x.2.1 0)).length + c.ready.countP (fun y => y.slot == x.1))).sum
  let flying := s.flights.countP (fun f => f.region == n &&
    (let w := (s.tctx (r.phys f.src) r.ctx).edge f.edge
     edgeDstS w < 24 && entry (s.tctx (r.phys (edgeDstT w)) r.ctx) (edgeDstS w)))
  (r.sites.map onTile).sum + flying + (r.colours.map (fun c => c.2.louvre.length)).sum +
    (s.gals.map (fun g => g.2.pool.countP (fun l => l.region == n))).sum

/-- Does a configuration wait for its tiles (R413)? -/
def State.waitingConfig (s : State) (n : Nat) : Bool :=
  let r := s.region n
  r.sites.all (fun t => (s.tctx t r.ctx).state == .loaded) &&
    ((r.state == .parked && s.entryTokens n != 0) || (r.state == .suspended && (s.entryTokens n != 0 || !r.insts.isEmpty)))

/-- Can a configuration take its tiles when a region expires (R31)? -/
def State.canTake (s : State) (n expiring : Nat) : Bool := (s.occupants n).all (fun k => k == expiring)

/-- The configurations that wait for a tile of an expiring region and can take their tiles. -/
def State.takers (s : State) (expiring : Nat) : List Nat :=
  ((s.regions.map Prod.fst).filter (fun n => n != expiring && s.waitingConfig n && s.canTake n expiring &&
    (s.region n).overlaps (s.region expiring)))

/-- The configuration with the most entry tokens; a tie goes to the lower region number (R31). -/
def State.chooseTaker (s : State) (expiring : Nat) : Option Nat :=
  (s.takers expiring).foldl (fun b n => match b with
    | none => some n
    | some m => if s.entryTokens m < s.entryTokens n then some n else some m) none

/-- A quantum expires (R31, R33, R350, R427): without a taker a new one starts; otherwise admission and issue stop, and the
swaps still waiting for their boundary are abandoned. -/
def State.expire (s : State) (n : Nat) : State :=
  let r := s.region n
  if r.state != .active && r.state != .armed || r.preempting then s
  else if (s.takers n).isEmpty then s.modRegion n (fun r => { r with qStart := s.cycle })
  else
    let gone := fun (w : Swap) => w.region == n && (w.step == .waiting || w.step == .boundary)
    let s2 := (s.swaps.filter gone).foldl (fun st w => st.abandonSwap w) s
    (s2.setContexts n (fun c => { c with state := .suspending })).modRegion n (fun r => { r with preempting := true })

/-- A quantum that has run out expires. -/
def State.expireDue (s : State) (n : Nat) : State :=
  let r := s.region n
  if r.quantum != 0 && r.qStart + r.quantum ≤ s.cycle then s.expire n else s

/-- QUANTUM_EXPIRY (R31, R349): a region's quantum has run out. -/
def execQuantumExpiry (region : Nat) (s : State) : Out := .next (s.expireDue region)

/-- Has a region's pre-emption finished its steps 1 to 3 on a tile (R31, R379, R427)? -/
def State.tileStopped (s : State) (t ctx : Nat) : Bool :=
  let c := s.tctx t ctx
  (s.firingsOn t ctx (fun _ => true)).isEmpty && c.gens.isEmpty && c.outs.isEmpty && c.bank.queue.isEmpty && c.bank.chainOp.isNone &&
    !s.swapHolds t

/-- BLOCK_SCHEDULER_ACTIVATE (R31, R32, R350): the suspension has finished; the chosen configuration becomes active, or, where
none can take its tiles, the expiring region goes on, with its traffic tables cleared (R418). -/
def execBlockSchedulerActivate (region : Nat) (s : State) : Out :=
  let r := s.region region
  if !r.preempting || !r.sites.all (fun t => s.tileStopped t r.ctx) then .next s
  else
    let holds := !r.insts.isEmpty || r.sites.any (fun t => !(s.tctx t r.ctx).saved.isEmpty)
    let stopped : RegionState := if r.state == .active then .loaded else if holds then .suspended else .parked
    match s.chooseTaker region with
    | none =>
      let s1 := (s.setContexts region (fun c => { c with state := .active })).modRegion region (fun g =>
        { g with preempting := false, qStart := s.cycle })
      let s2 := r.sites.foldl (fun st t => st.modTile t (fun x => { x with traffic := [] })) s1
      .next (r.sites.foldl (fun st t => st.resumeFirings t r.ctx) s2)
    | some n =>
      let s1 := (s.setContexts region (fun c => { c with state := .loaded, suspended := stopped == .suspended })).modRegion region
        (fun g => { g with preempting := false, state := stopped })
      let s2 := s1.activateRegion n
      .next ((s2.region n).sites.foldl (fun st t => st.resumeFirings t (s2.region n).ctx) s2)

/-! ### QSET and QYLD (R349) -/

/-- QSET (R349). -/
def execQset (o : Operands) (s : State) : Out :=
  onRegion o [o.b] false s (fun sel rd s1 =>
    let q := bitsAt (rd o.b).toNat 31 0
    (s1.modRegion (selReg sel) (fun r => { r with quantum := if q = 0 then 0 else max q 1024, qStart := s1.cycle })).answer o 0 0)

/-- QYLD (R349, R350): the running quantum, if there is one, expires at once. -/
def execQyld (o : Operands) (s : State) : Out :=
  onRegion o [] false s (fun sel _ s1 =>
    (if (s1.region (selReg sel)).quantum = 0 then s1 else s1.expire (selReg sel)).answer o 0 0)

/-! ### CFGSW_FLIP (R312, R331, R427) -/

/-- Has the drain for a switch finished: no other region on the tiles has an instance, a firing, a pre-emption or a swap? -/
def State.drainDone (s : State) (n : Nat) : Bool :=
  let r := s.region n
  (s.occupants n).all (fun k => (s.region k).insts.isEmpty && !(s.region k).preempting) &&
    r.sites.all (fun t => (upTo 4).all (fun j => (s.core (256 + 4 * t + j)).run == .empty)) &&
    !s.swaps.any (fun w => w.region == n || r.sites.contains w.lo || r.sites.contains w.hi)

/-- CFGSW_FLIP (R312, R331): an expiry that is due on the tiles comes first; then the drained regions are Parked or Loaded, the checks
of R307 run, and the contexts flip. -/
def execCfgswFlip (cmd : Nat) (s : State) : Out :=
  match s.cmd cmd with
  | none => .next s
  | some c =>
    if c.kind != .cfgsw then .next s else
    let s := (s.occupants c.region).foldl State.expireDue s
    if !s.drainDone c.region then .next s
    else if !s.isLoaded c.region c.ctx then .next (s.finishCmd c 0x21 0)
    else
      let s1 := (s.occupants c.region).foldl (fun st k => st.parkRegion k) s
      let v := s1.certify c.region
      if v.1 != 0 then .next (s1.finishCmd c v.1 v.2)
      else
        let s2 := s1.activateRegion c.region
        let s3 := (s2.region c.region).sites.foldl (fun st t => st.resumeFirings t c.ctx) s2
        .next (s3.finishCmd c 0 0)

/-! ### CFGED (R310, R333) -/

/-- CFGED (R310, R333): the edge closes at the commit. -/
def execCfged (o : Operands) (s : State) : Out :=
  onRegion o [o.b] false s (fun sel rd s1 =>
    let r := s1.region (selReg sel)
    let d := (rd o.b).toNat
    let l := selTile sel
    let t := r.phys l
    if d = 0 || 4096 ≤ d || r.tileCount ≤ l || edgeDepth ((s1.tctx t r.ctx).edge (selIdx sel)) = 0 then s1.answer o 0x29 0
    else .next ((s1.modCtx t r.ctx (fun c => { c with closed := c.closed ++ [selIdx sel] })).holdCmd o sel
      (.cfged (selIdx sel) l d)))

/-- An edge word with another depth. -/
def setDepth (w : Word) (d : Nat) : Word := (w &&& ~~~((0xFFF : Word) <<< (17 : Nat))) ||| BitVec.ofNat 64 (d % 4096 * 2 ^ 17)

/-- CFGED_APPLY (R310): the edge is empty and its credits have returned; checks 2 and 6 of R307 decide. -/
def execCfgedApply (cmd : Nat) (s : State) : Out :=
  match s.cmd cmd with
  | none => .next s
  | some c =>
    match c.kind with
    | .cfged e l d =>
      let r := s.region c.region
      let t := r.phys l
      let k := s.tctx t r.ctx
      let w := k.edge e
      let dl := edgeDstT w
      let dt := r.phys dl
      if AMap.get 0 k.spent e != 0 || r.state == .suspended || r.preempting || s.swapHolds dt || s.swapHolds t then .next s
      else
        let grow := fun (n : Nat) => n + d - edgeDepth w
        let sum := grow ((s.loadedOn dt).map (fun x => x.dsum)).sum
        let need := ((AMap.find r.image.tiles l).elim 0 (fun x => AMap.get 0 x.we e)) * r.image.quotaAll
        let status : Nat × Nat :=
          if 16384 < sum then (0x10, certResult dl 0) else if d < need then (0x14, certResult l e) else (0, 0)
        let s1 := if status.1 != 0 then s
          else
            let s2 := s.modCtx dt r.ctx (fun x => { x with
              dsum := grow x.dsum
              qWords := if 24 ≤ edgeDstS w then AMap.put x.qWords (edgeDstS w - 24) (setDepth w d) else x.qWords })
            s2.modCtx t r.ctx (fun x => { x with edges := AMap.put x.edges e (setDepth w d) })
        let s3 := s1.modCtx t r.ctx (fun x => { x with closed := dropFirst (fun n => n == e) x.closed })
        .next ((s3.drainEdge t r.ctx e).finishCmd c status.1 status.2)
    | _ => .next s

end Sys2Proof.Machine
end

