-- ==== Sys2Proof/Machine/Chain.lean ====
section
/-! DEFINITION. The free-running chains of the matrix node (R376 to R378). -/

namespace Sys2Proof.Machine

/-! ### Address tokens (R377) -/

/-- `ADR.ABASE`, `ADR.BBASE`. -/
def adrBase (t : Token) (b : Bool) : Nat := if b then bitsAt t.payload.toNat 120 64 else bitsAt t.payload.toNat 56 0
/-- `ADR.HOLD`. -/
def adrHold (t : Token) : Bool := t.payload.getLsbD 128
/-- `ADR.DRN`. -/
def adrDrn (t : Token) : Bool := t.payload.getLsbD 129
/-- `ADR.FMT`. -/
def adrFmt (t : Token) : Nat := bitsAt t.payload.toNat 131 130

/-- The tokens of a colour in the section's input queue. -/
def TileCtx.chainTokens (c : TileCtx) (r : SectionRec) (colour : Nat) : List Held :=
  (AMap.get [] c.buffers (queueBuf r.inq)).filter (fun h => tagColour h.tok.tag == colour)

/-- The length of the chain at the head of a colour's tokens, if all of it is present (R378). -/
def chainLength (l : List Held) : Option Nat := (l.findIdx? (fun h => adrDrn h.tok)).map (· + 1)

/-- The instance of a tag in a region. -/
def State.instOf (s : State) (region : Nat) (tag : Word) : InstKey :=
  { region := region, colour := tagColour tag, f0 := f0Of (s.region region).image.tagw tag }

/-- The extents of an instance. -/
def State.instExtents (s : State) (k : InstKey) : AMap Extent :=
  match s.inst k with
  | some i => i.extents
  | none => []

/-! ### The start of a chain (R378) -/

/-- A chain that could start, as an operand set: it became complete with its last token (R24). -/
def TileCtx.chainSet (c : TileCtx) (r : SectionRec) (colour : Nat) : Option OpSet :=
  let l := c.chainTokens r colour
  match chainLength l with
  | none => none
  | some n =>
    if c.passes < n then none
    else some { slot := 0, colour := colour, seq := ((l.take n).getLast?).elim 0 (fun h => h.seq),
                cycle := ((l.take n).map (fun h => h.cycle)).foldl max 0,
                toks := (l.take n).map (fun h => { port := 0, tok := h.tok, stored := false, edge := h.src }) }

/-- The chains that could start. -/
def TileCtx.chainSets (c : TileCtx) (r : SectionRec) : List OpSet :=
  (((AMap.get [] c.buffers (queueBuf r.inq)).map (fun h => tagColour h.tok.tag)).eraseDups).filterMap (c.chainSet r)

/-- CHAIN_START (R24, R378): a node without an owner takes the chain of the colour that its arbiter chooses. -/
def execChainStart (tile ctx colour : Nat) (s : State) : Out :=
  let c := s.tctx tile ctx
  match c.mxs with
  | none => .next s
  | some r =>
    let ready := agedColours (c.chainSets r)
    match chainLength (c.chainTokens r colour) with
    | none => .next s
    | some n =>
      if s.slotRuns tile ctx && c.bank.owner == .none && ready.contains colour && s.turnOk c 25 colour ready then
        .next ((s.modBank tile ctx (fun _ =>
          { Bank.taken with word := r.word, stride := r.stride, owner := .colour colour, chain := n })).takeTurn tile ctx 25 colour ready)
      else .next s

/-! ### The passes (R378) -/

/-- A token leaves the node's input queue, and its credits return. -/
def State.popChain (s : State) (tile ctx : Nat) (r : SectionRec) (h : Held) : State :=
  (s.modCtx tile ctx (fun x => { x with buffers := AMap.modify [] x.buffers (queueBuf r.inq) (dropHeld h.seq) })).returnCredit
    (s.tctx tile ctx).region h.src h.tok.weight

/-- A chain's fault ends the token's instance, discards the chain's tokens and resets the bank (R378). -/
def State.chainFault (s : State) (tile ctx : Nat) (r : SectionRec) (t : Token) (left : Nat) (e : Exc) : State :=
  let c := s.tctx tile ctx
  let k := s.instOf c.region t.tag
  let s1 := (s.setVerdict k t.tag true (opErrPayload e 0x1E c.ltile t.tag)).modBank tile ctx (fun _ => Bank.taken)
  ((c.chainTokens r (tagColour t.tag)).take left).foldl (fun st h => st.popChain tile ctx r h) s1

/-- Poison every enabled element (R378). -/
def Bank.poisonAll (k : Bank) (pa : Option Nat) : Bank :=
  foldUp (fun e b => if k.enabled (e / 32) (e % 32) then b.putElem (e / 32) (e % 32) ((k.elem (e / 32) (e % 32)).mark pa) else b)
    1024 k

/-- The address logged in a poisoned token (R241). -/
def Token.logged (t : Token) : Option Nat := if ctlPa t.ctl then some (t.payload.toNat % 2 ^ 52) else none

/-- A pass of a chain is done: its token is popped and the count falls; the last one's token is the drain's. -/
def State.endPass (s : State) (tile ctx : Nat) (r : SectionRec) (h : Held) (f : Bank → Bank) : State :=
  let left := (s.tctx tile ctx).bank.chain - 1
  ((s.popChain tile ctx r h).modCtx tile ctx (fun x => { x with passes := x.passes - 1 })).modBank tile ctx (fun k =>
    { f k with chain := left, chainOp := none, drain := if left = 0 then some (h.tok, 0) else none })

/-- The machine operation that fetches a pass's operands: the Token row of R44 puts its reads behind the requests whose completion made
the token. -/
def State.chainFetch (s : State) (tile : Nat) (c : TileCtx) (t : Token) (reqs : List Req) : MemOp :=
  let p := fetchParty tile
  { MemOp.empty p none with
    own := some (clockMerge (s.clock p) t.clock)
    eager := true
    inst := some (s.instOf c.region t.tag)
    gen := (s.region c.region).gen
    tile := some tile
    reqs := reqs }

/-- The next pass of a chain begins: it is checked as MXMUL is (R368), and its reads are put in the issue buffer. -/
def State.beginPass (s : State) (tile ctx : Nat) (r : SectionRec) (h : Held) : State :=
  let c := s.tctx tile ctx
  let x := s.instExtents (s.instOf c.region h.tok.tag)
  if ctlPoison h.tok.ctl then (s.mergeDone (fetchParty tile) h.tok.clock).endPass tile ctx r h (fun k => k.poisonAll h.tok.logged)
  else if adrHold h.tok && (c.bank.held.map (fun y => y.1)) != some (mxcClass r.word) then
    s.chainFault tile ctx r h.tok c.bank.chain excOperand
  else match s.passRows x r.word r.stride (adrBase h.tok false) (adrBase h.tok true) (adrHold h.tok) with
    | .error e => s.chainFault tile ctx r h.tok c.bank.chain e
    | .ok (ra, rb) =>
      let o := s.chainFetch tile c h.tok (passReads r.word ra rb)
      (s.addOp o o.party).modBank tile ctx (fun k => { k with chainOp := some s.z.nextId })

/-- A pass whose reads have come back accumulates. -/
def State.finishPass (s : State) (tile ctx : Nat) (r : SectionRec) (h : Held) (o : MemOp) : State :=
  let hold := adrHold h.tok
  let cl := s.opClock o
  (s.completeOp o).endPass tile ctx r h (fun k => k.passFetched r.word hold (if hold then 0 else 32) 32 o.reqs cl)

/-- CHAIN_PASS (R373, R378, R379): the chain's next address token starts its pass, or the pass whose operands have been fetched is
added. While the region is being suspended only the pass in flight finishes. -/
def execChainPass (tile ctx : Nat) (s : State) : Out :=
  let c := s.tctx tile ctx
  match c.mxs, c.bank.owner with
  | some r, .colour colour =>
    match c.nodeRuns && 0 < c.bank.chain, c.chainTokens r colour with
    | true, h :: _ =>
      (match c.bank.chainOp with
        | none => .next (if c.state == .active then s.beginPass tile ctx r h else s)
        | some m =>
          match s.op m with
          | none => .next (s.modBank tile ctx (fun k => { k with chainOp := none }))
          | some o => if s.opReady o && s.fetched o then .next (s.finishPass tile ctx r h o) else .next s)
    | _, _ => .next s
  | _, _ => .next s

/-- CHAIN_DRAIN (R378, R379): the node sends the next drain token, and resets the bank after the last; not while the region is being
suspended. -/
def execChainDrain (tile ctx : Nat) (s : State) : Out :=
  let c := s.tctx tile ctx
  match c.mxs, c.bank.drain with
  | some r, some (t, e) =>
    let fmt := adrFmt t
    let p := drainTokens fmt
    if c.state != .active || !c.canSend r.outEdge 5 then .next s
    else
      let (data, bad) := c.bank.tokenData fmt (e / p) (e % p)
      let fits := e < 2 ^ fieldW c.tagw r.fld
      let (ctl, pay) := if fits then poisonPayload data bad (ctlLast t.ctl)
        else (mkCtl false false 0 (ctlLast t.ctl) true 0, (0 : Vec))
      let tok : Token :=
        { tag := setField c.tagw r.fld e t.tag, ctl := ctl, wide := true, payload := pay, clock := s.doneClock (fetchParty tile) }
      let s1 := s.sendOn tile ctx r.outEdge tok
      .next (s1.modBank tile ctx (fun k => if e + 1 = 32 * p then Bank.taken else { k with drain := some (t, e + 1) }))
  | _, _ => .next s

end Sys2Proof.Machine
end

