-- ==== Sys2Proof/Machine/Port.lean ====
section
/-! DEFINITION. Streams and ports (R340 to R342, R351): binding, the stream units that serve the ports, and the windows of
PORTW. -/

namespace Sys2Proof.Machine

/-! ### A port for an instance (R341) -/

/-- The instance's stream: the record with its base moved by v strides (R340, R341). -/
def PortBind.record (b : PortBind) (v : Nat) : Vec :=
  let base := (((recBase b.shape : Int) + v * b.stride) % (2 ^ 64 : Nat)).toNat
  BitVec.ofNat 512 (b.shape.toNat - recBase b.shape + base)

/-- A port of an instance: its tile, its binding, and its progress. -/
structure PortView where
  inst : Inst
  ltile : Nat
  bind : PortBind
  run : PortRun
  deriving DecidableEq, Repr

/-- The view of a port, where it is a stream port of the direction. -/
def State.portView (s : State) (k : InstKey) (port : Nat) (output : Bool) : Option PortView :=
  match s.inst k, AMap.find (s.region k.region).image.ports port with
  | some i, some (l, out, _) =>
    (match AMap.find i.binds port, i.ports.find? (fun p => p.port == port) with
      | some b, some r => if out == output then some { inst := i, ltile := l, bind := b, run := r } else none
      | _, _ => none)
  | _, _ => none

/-- Change a port's progress. -/
def State.modPort (s : State) (k : InstKey) (port : Nat) (f : PortRun → PortRun) : State :=
  s.modInst k (fun i => { i with ports := i.ports.map (fun p => if p.port == port then f p else p) })

/-- A stream access that faults ends the instance (R341). -/
def State.portFault (s : State) (k : InstKey) (v : PortView) (e : Exc) : State :=
  s.setVerdict k v.inst.tag true (opErrPayload e 0x1F v.ltile v.inst.tag)

/-- A stream unit's operation (R315, R319, R340): its requests are relaxed, at the binding's scope; they count among its tile's and carry
the region's generation. -/
def State.portOp (s : State) (t : Nat) (k : InstKey) (v : PortView) (reqs : List Req) : MemOp :=
  { MemOp.empty (portParty t) none with
    scope := v.bind.scope
    eager := true
    inst := some k
    gen := (s.region k.region).gen
    tile := some t
    reqs := reqs }

/-- Has the unit a write of its own to these bytes that is not complete (R44, Same location)? DEDUCED: log entry 56. -/
def State.portPending (s : State) (t pa n : Nat) : Bool :=
  s.z.ops.any (fun o => o.party == portParty t && o.reqs.any (fun r => r.writes && r.pa < pa + n && pa < r.pa + r.size))

/-- The stream unit reads `n` bytes of device memory: what they hold, whether a line is poisoned, and the state after; none where the
tile may not inject the requests yet. -/
def State.portRead (s : State) (t : Nat) (k : InstKey) (v : PortView) (va pa n key : Nat) : Option (Nat × Bool × State) :=
  let pieces := unitPieces pa n
  let id := s.z.nextId
  let s1 := s.addOp (s.portOp t k v (pieces.map (fun p => Req.make .read (va + p.1) (pa + p.1) p.2 0 key))) (portParty t)
  let s2 := (upTo pieces.length).foldl (fun st i => st.inject id i true) s1
  match s2.op id with
  | none => none
  | some o =>
    if o.reqs.all (s2.reqDone o) then
      some (readBytes o.reqs, o.reqs.any Req.bad, s2.mergeDone (portParty t) ((s.view (galleryOfTile t)).clockOf pa n))
    else none

/-! ### Input ports (R341) -/

/-- The token that an input port sends from what it has gathered: poisoned where a line was (R248). -/
def State.portToken (s : State) (t : Nat) (v : PortView) (wide : Bool) (payload : Nat) (bad : Option Nat) (last : Bool) : Token :=
  resultToken v.inst.tag 0 last wide 0 (s.doneClock (portParty t)) (some payload) bad

/-- Take the next element into the token in hand, and send the token when it is full or the walk is over. -/
def State.portGather (s : State) (k : InstKey) (port t ctx : Nat) (v : PortView) (wide : Bool) (elem : Nat) (bad : Option Nat) :
    State :=
  let h := v.bind.record k.f0
  let ty := recElem h
  let lanes := tokenLanes wide ty
  let lane := v.run.next % lanes
  let hand := (if lane = 0 then 0 else v.run.hand) + elem % 2 ^ elemBits ty * 2 ^ (laneBits ty * lane)
  let bad1 := if lane = 0 then bad else v.run.bad.or bad
  let last : Bool := recCount h ≤ v.run.next + 1
  let s1 := s.modPort k port (fun p => { p with next := p.next + 1, hand := hand, bad := bad1, ended := last })
  if lane + 1 = lanes || last then s1.emitOn t ctx port (s1.portToken t v wide hand bad1 last) else s1

/-- May an input port of an instance read its next element: the instance runs, its tile's context is live, and the edge has
taken the last token? -/
def State.portReady (s : State) (port t ctx : Nat) (v : PortView) : Bool :=
  v.inst.verdict.isNone && !v.run.ended && (s.tctx t ctx).live && !(s.tile t).fenced && !s.swapHolds t &&
    (AMap.get [] (s.tctx t ctx).stage port).isEmpty

/-- STREAM_PORT_READ (R208, R341): the stream unit reads the next element of an input port for an instance. -/
def execStreamPortRead (region colour f0 port : Nat) (s : State) : Out :=
  let k : InstKey := { region := region, colour := colour, f0 := f0 }
  let r := s.region region
  match s.portView k port false with
  | none => .next s
  | some v =>
    let t := r.phys v.ltile
    let h := v.bind.record f0
    let l := walkLoc h v.run.next
    if !s.portReady port t r.ctx v then .next s
    else if recordMisaligned h then .next (s.portFault k v (misalignedRecord h))
    else match s.translate v.inst.extents l.addr l.bytes .read with
      | none => .next (s.portFault k v (excAt 0x04 0 l.addr))
      | some (pa, key, _) =>
        if s.portPending t pa l.bytes then .next s
        else match s.portRead t k v l.addr pa l.bytes key with
          | none => .next s
          | some (bytes, bad, s1) =>
            .next (s1.portGather k port t r.ctx v (edgeWide ((s.tctx t r.ctx).edge port)) (elemOf (recElem h) l bytes)
              (if bad then some (pa / 64 * 64) else none))

/-! ### Output ports (R341) -/

/-- A lane of the token in hand has been dealt with: the token leaves after its last one. -/
def PortRun.laneDone (p : PortRun) (lanes : Nat) (written : Bool) : PortRun :=
  { p with
    next := if written then p.next + 1 else p.next
    hand := if p.hand + 1 = lanes then 0 else p.hand + 1
    toks := if p.hand + 1 = lanes then p.toks.drop 1 else p.toks }

/-- The walk of an output port as a stream unit's job: it gathers the units of 8 bytes that the elements touch, so that each is one
request, and the descriptor goes with bytes 0 to 7 of a line (R78, R208). -/
def PortView.job (v : PortView) (f0 : Nat) : StreamJob :=
  let h := v.bind.record f0
  { op := 0, core := 0, fn := 3, f := 0, rnd := .rne, hd := h, ha := h, hb := h, d := 0, acc := none, next := v.run.next, stage := none,
    hand := [], out := 0, units := [], writes := v.run.units, loc := [], fail := none, before := 0 }

/-- A gathered write that may leave: no later element adds to it; or no token is in hand, and it carries no descriptor or the instance
has ended. -/
def PortView.ripe (v : PortView) (f0 : Nat) : Option UnitWrite :=
  match (v.job f0).ripe with
  | some w => some w
  | none => if v.run.toks.isEmpty then v.run.units.find? (fun w => w.desc.isNone || 8 ≤ w.pa % 64 || v.inst.verdict.isSome) else none

/-- A gathered write is made; where it holds part of a byte, the unit is read first for the rest (R206). -/
def State.portPlace (s : State) (k : InstKey) (port t : Nat) (v : PortView) (w : UnitWrite) : State :=
  if s.portPending t w.pa 8 then s
  else match (if fullBytes w.bits = someBytes w.bits then some (0, false, s) else s.portRead t k v w.va w.pa 8 w.key) with
    | none => s
    | some (old, _, s1) =>
      let r := { Req.make .write w.va w.pa 8 (mixBits old w.value w.bits) w.key with
        be := someBytes w.bits
        desc := if w.pa % 64 < 8 then w.desc else none
        whole := w.whole }
      let id := s1.z.nextId
      let s2 := (s1.addOp (s1.portOp t k v [r]) (portParty t)).inject id 0 false
      s2.modPort k port (fun p => { p with
        units := p.units.filter (fun x => x.pa != w.pa)
        writes := p.writes.filter (fun n => s2.z.ops.any (fun o => o.id == n)) ++ [id] })

/-- Take the next element of an output port's token; elements beyond the count are discarded and counted (R342). A stream unit is no
party that fires on the token, so the token's clock does not pass to its writes (R39, R44, R438). -/
def State.portPut (s : State) (k : InstKey) (port : Nat) (v : PortView) (tok : Token) : State :=
  let h := v.bind.record k.f0
  let ty := recElem h
  let lanes := tokenLanes tok.wide ty
  let l := walkLoc h v.run.next
  let elem := laneAt ty tok.payload v.run.hand % 2 ^ elemBits ty
  if recCount h ≤ v.run.next then
    (s.modPort k port (fun p => p.laneDone lanes false)).modColour k.region k.colour (fun c =>
      { c with discards := AMap.modify 0 c.discards port (fun n => sat32 (n + 1)) })
  else
    let dropAll := fun (st : State) => st.modPort k port (fun p => { p with toks := [], hand := 0 })
    if recordMisaligned h then dropAll (s.portFault k v (misalignedRecord h))
    else match s.translate v.inst.extents l.addr l.bytes .write with
      | none => dropAll (s.portFault k v (excAt 0x04 0 l.addr))
      | some (pa, key, _) =>
        s.modPort k port (fun p => { p.laneDone lanes true with
          units := ((v.job k.f0).store pa key elem).writes })

/-- STREAM_PORT_WRITE (R78, R341, R342, R351): the stream unit makes a gathered write of an output port, or takes the next element of
an instance's tokens there. -/
def execStreamPortWrite (region colour f0 port : Nat) (s : State) : Out :=
  let k : InstKey := { region := region, colour := colour, f0 := f0 }
  match s.portView k port true with
  | none => .next s
  | some v =>
    let t := (s.region region).phys v.ltile
    if (s.tile t).fenced || s.swapHolds t then .next s
    else match v.ripe f0, v.run.toks with
      | some w, _ => .next (s.portPlace k port t v w)
      | none, tok :: _ => .next (s.portPut k port v tok)
      | none, [] => .next s

/-! ### BIND and UNBIND (R340, R342) -/

/-- BIND (R340). DEDUCED: log entry 34. -/
def execBind (o : Operands) (s : State) : Out :=
  issue { Use.onSeq with xs := [o.d, o.a, o.b], c := o.c, t := o.t, bad := none } s (fun rd s1 =>
    let sel := rd o.a
    let n := selReg sel
    let port := selIdx sel
    if s1.foreign n then s1.answer o 0x20 0
    else if (s1.region n).state = .unloaded then s1.answer o 0x21 0
    else match s1.localFault s1.cur (rd o.b) 64 64 true with
      | some e => s1.raise e
      | none =>
        let h := BitVec.ofNat 512 (s1.localRead s1.cur (rd o.b).toNat 64)
        match AMap.find (s1.region n).image.ports port with
        | none => s1.answer o 0x26 0
        | some (_, out, _) =>
          if recSpace h != 1 || recordBad h || (!out && recCount h = 0) then s1.answer o 0x26 0
          else
            let b : PortBind := { shape := h, stride := (rd o.d).toInt, scope := opScope o, serial := s1.serial }
            (s1.bump.modColour n (selCol sel) (fun c => { c with binds := AMap.put c.binds port b })).answer o 0 0)

/-- Does an admitted instance of a colour hold a binding of a port? -/
def Region.holdsBind (r : Region) (colour port serial : Nat) : Bool :=
  r.insts.any (fun i => i.colour == colour && (AMap.find i.binds port).any (fun b => b.serial == serial))

/-- UNBIND (R342): the binding goes at once; the command waits for the instances that were admitted under it. -/
def execUnbind (o : Operands) (s : State) : Out :=
  onRegion o [] false s (fun sel _ s1 =>
    let n := selReg sel
    match AMap.find ((s1.region n).colour (selCol sel)).binds (selIdx sel) with
    | none => s1.answer o 0x26 0
    | some b =>
      let s2 := s1.modColour n (selCol sel) (fun c => { c with binds := AMap.erase c.binds (selIdx sel) })
      if (s2.region n).holdsBind (selCol sel) (selIdx sel) b.serial then .next (s2.holdCmd o sel (.unbind (selIdx sel) b.serial))
      else s2.answer o 0 0)

/-- UNBIND_COMPLETE (R342): every instance admitted under the binding has retired. -/
def execUnbindComplete (cmd : Nat) (s : State) : Out :=
  match s.cmd cmd with
  | none => .next s
  | some c =>
    match c.kind with
    | .unbind port serial => if (s.region c.region).holdsBind c.colour port serial then .next s else .next (s.finishCmd c 0 0)
    | _ => .next s

/-! ### PORTW (R342) -/

/-- The operands that PORTW windows 0 to 7 use: x[`D`] is written, so `T` = `D` is illegal (R326); windows 9 to 15 are illegal (R342).
-/
def windowUse (o : Operands) : Use :=
  { Use.onSeq with xs := [o.a], xd := some o.d, c := o.c, t := o.t, bad := badIf (8 < o.imm.toNat) }

/-- A window command: its region, and what it does with the value that it reads. -/
def window (o : Operands) (s : State) (k : Word → State → Out) : Out :=
  issue (windowUse o) s (fun rd s1 =>
    let sel := rd o.a
    if s1.foreign (selReg sel) then s1.answer o 0x20 0
    else if (s1.region (selReg sel)).state = .unloaded then s1.answer o 0x21 0
    else k sel s1)

/-- Counter w of a GAT slot, and the counters with it cleared (R260). -/
def GatCnt.take (g : GatCnt) (w : Nat) : Nat × GatCnt :=
  match w with
  | 0 => (g.bad, { g with bad := 0 })
  | 1 => (g.drop, { g with drop := 0 })
  | 2 => (g.late, { g with late := 0 })
  | 3 => (g.left, { g with left := 0 })
  | 4 => (g.purge0, { g with purge0 := 0 })
  | _ => (g.refill, { g with refill := 0 })

/-- PORTW windows 0 to 5 (R260, R342): a counter of a GAT slot, cleared on read. -/
def execPortwGatcnt (o : Operands) (s : State) : Out :=
  window o s (fun sel s1 =>
    let r := s1.region (selReg sel)
    let t := r.phys (selTile sel)
    let c := s1.tctx t r.ctx
    let slot := selIdx sel
    if r.tileCount ≤ selTile sel then s1.answer o 0x29 0
    else if 24 ≤ slot || !AMap.has c.slots slot || waKind (c.wordA slot) != 11 then s1.answer o 0x25 0
    else
      let v := (AMap.get GatCnt.zero c.gatcnt slot).take (o.imm.toNat % 16)
      let s2 := s1.modGat t r.ctx slot (fun _ => v.2)
      (s2.writeX o.d (BitVec.ofNat 64 v.1)).answer o 0 0)

/-- PORTW window 6 (R342): the completions in the region's queue. -/
def execPortwCompletions (o : Operands) (s : State) : Out :=
  window o s (fun sel s1 => (s1.writeX o.d (BitVec.ofNat 64 (s1.region (selReg sel)).queue.length)).answer o 0 0)

/-- PORTW window 7 (R341, R342): the elements discarded at an output port, cleared on read. -/
def execPortwDiscards (o : Operands) (s : State) : Out :=
  window o s (fun sel s1 =>
    let n := selReg sel
    let k := (s1.region n).colour (selCol sel)
    match AMap.find (s1.region n).image.ports (selIdx sel) with
    | some (_, true, _) =>
      let s2 := s1.modColour n (selCol sel) (fun c => { c with discards := AMap.erase c.discards (selIdx sel) })
      (s2.writeX o.d (BitVec.ofNat 64 (AMap.get 0 k.discards (selIdx sel)))).answer o 0 0
    | _ => s1.answer o 0x26 0)

/-- PORTW window 8 (R342): a reply token for the host; it issues once every earlier instruction of the slot with a completion
has completed. -/
def execPortwReply (o : Operands) (s : State) : Out :=
  issue { Use.onSeq with
    xs := [o.a, o.b], c := o.c, t := o.t, hold := !s.slotClear s.cur, bad := badIf (15 < o.imm.toNat) } s (fun rd s1 =>
    (s1.send (.reply (rd o.a) (rd o.b))).answer o 0 0)

end Sys2Proof.Machine
end

