-- ==== Sys2Proof/Machine/Colour.lean ====
section
/-! DEFINITION. Colours (R254, R268, R334 to R337, R444): opening, changing the quota, closing and killing. -/

namespace Sys2Proof.Machine

/-! ### The row word (R334) -/

/-- `CROW.STALL`. -/
def rowStall (w : Word) : Nat := bitsAt w.toNat 44 40
/-- `CROW.TENANT`. -/
def rowTenant (w : Word) : Nat := bitsAt w.toNat 15 0

/-- Is a stall exponent allowed, and every reserved bit of the row word zero (R254, R334)? -/
def rowAllowed (w : Word) : Bool :=
  bitsAt w.toNat 63 45 = 0 && (rowStall w = 0 || (10 ≤ rowStall w && rowStall w ≤ 24))

/-- Does an open colour have the row that a row word gives? -/
def Colour.sameRow (k : Colour) (w : Word) : Bool :=
  k.stall == rowStall w && k.key == rowKey w && k.tctx == rowTctx w && k.tenant == rowTenant w

/-- Is a casement a GAT slot of a function (R302)? -/
def State.casementOk (s : State) (r : Region) (l slot func : Nat) : Bool :=
  let c := s.tctx (r.phys l) r.ctx
  l < r.tileCount && slot < 24 && AMap.has c.slots slot && waKind (c.wordA slot) == 11 && waFunc (c.wordA slot) == func

/-- What the open colours of a region but one, and the completions that the others still hold, take of the quota sum (R345). -/
def Region.quotaSum (r : Region) (but : Nat) : Nat :=
  let others := (r.colours.filter (fun c => c.1 != but))
  ((others.filter (fun c => c.2.state == 1)).map (fun c => c.2.quota)).sum +
    r.queue.countP (fun t => tagColour t.tag != but && (r.colour (tagColour t.tag)).state != 1)

/-! ### COPEN (R126, R334) -/

/-- The status of a COPEN (R334): none where the colour is open already with the same row. DEDUCED: log entry 27. -/
def State.openStatus (s : State) (n colour : Nat) (w : Word) : Option Nat :=
  let r := s.region n
  let k := r.colour colour
  if s.rowFrozen n colour w then some 0x24
  else if k.state = 1 then (if k.sameRow w then none else some 0x24)
  else if k.state != 0 then some 0x24
  else if !rowAllowed w then some 0x29
  else match r.image.row colour with
    | Option.none => some 0x18
    | Option.some i =>
      if !(s.casementOk r i.ntile i.nslot 0 && s.casementOk r i.xtile i.xslot 1) then some 0x25
      else if !r.image.rowOk colour i.share i.cap i.quota (rowStall w) then some 0x18
      else if 4096 < r.quotaSum colour + i.quota then some 0x2D
      else if (k.lease.bind s.lease).any (fun l => !(l.tctx == rowTctx w && l.key == rowKey w)) then some 0x24
      else some 0

/-- Copy a tile's template into a colour's persistent-state area (R126). -/
def State.copyTemplate (s : State) (t ctx colour : Nat) : State :=
  let c := s.tctx t ctx
  let dst := c.areaOf colour
  let lines := upTo (roundUp c.lsize 64 / 64)
  if c.lsize = 0 || !AMap.has c.areas colour then s
  else s.modTile t (fun x => { x with
    loc := Memory.writeN x.loc dst c.lsize (Memory.readN x.loc c.templateBase c.lsize)
    locPoison := lines.foldl (fun q i =>
      let m := AMap.get 0 x.locPoison (c.templateBase / 64 + i)
      if m = 0 then AMap.erase q (dst / 64 + i) else AMap.put q (dst / 64 + i) m) x.locPoison })

/-- Open a colour with its row (R334). -/
def State.openColour (s : State) (n colour : Nat) (w : Word) : State :=
  let r := s.region n
  match r.image.row colour with
  | Option.none => s
  | Option.some i =>
    let s1 := s.modColour n colour (fun k => { k with
      stall := rowStall w, xslot := i.xslot, xtile := i.xtile, nslot := i.nslot, ntile := i.ntile, cap := i.cap, share := i.share,
      quota := i.quota, key := rowKey w, tctx := rowTctx w, tenant := rowTenant w, state := 1 })
    r.sites.foldl (fun st t => st.copyTemplate t r.ctx colour) s1

/-- COPEN (R334). -/
def execCopen (o : Operands) (s : State) : Out :=
  onRegion o [o.b] false s (fun sel rd s1 =>
    match s1.openStatus (selReg sel) (selCol sel) (rd o.b) with
    | none => s1.answer o 0 0
    | some 0 => (s1.openColour (selReg sel) (selCol sel) (rd o.b)).answer o 0 0
    | some st => s1.answer o st 0)

/-! ### CQUOTA (R335) -/

/-- CQUOTA (R335). -/
def execCquota (o : Operands) (s : State) : Out :=
  onRegion o [o.b] false s (fun sel rd s1 =>
    let n := selReg sel
    let r := s1.region n
    let k := r.colour (selCol sel)
    let q := (rd o.b).toNat
    if q = 0 || 4096 < q then s1.answer o 0x29 0
    else if k.state != 1 then s1.answer o 0x24 0
    else if !r.image.rowOk (selCol sel) k.share k.cap q k.stall then s1.answer o 0x18 0
    else if 4096 < r.quotaSum (selCol sel) + q then s1.answer o 0x2D 0
    else (s1.modColour n (selCol sel) (fun k => { k with quota := q })).answer o 0 0)

/-! ### CCLOSE (R126, R134, R268, R336) -/

/-- Drop the start tokens that wait in a colour's louvre; the answer is how many there were. -/
def State.dropLouvre (s : State) (n colour : Nat) : Nat × State :=
  let r := s.region n
  let k := r.colour colour
  let gone := k.louvre.filter (fun h => ctlMact h.tok.ctl == 0)
  let s1 := s.modColour n colour (fun k => { k with louvre := k.louvre.filter (fun h => ctlMact h.tok.ctl != 0) })
  (gone.length, gone.foldl (fun st h => st.dropStart (r.phys k.ntile) r.ctx k.nslot h) s1)

/-- Zero-fill a colour's area on a tile and discard its sump. -/
def State.clearArea (s : State) (t ctx colour : Nat) : State :=
  let c := s.tctx t ctx
  let a := c.areaOf colour
  let s1 := (c.sumped.filter (fun e => e.colour == colour)).foldl (fun st e => st.dropRecord t ctx e) s
  if !AMap.has c.areas colour then s1
  else s1.modTile t (fun x => { x with
    loc := Memory.clear x.loc a c.lsize
    locPoison := x.locPoison.filter (fun l => 64 * l.1 + 64 ≤ a || a + c.lsize ≤ 64 * l.1) })

/-- Step 3 of CCLOSE: the areas are zero-filled, the sump is discarded, the colour's leases end, a revoked one too (R134), and the colour
is closed. -/
def State.closeColour (s : State) (n colour : Nat) : State :=
  let r := s.region n
  let s1 := r.sites.foldl (fun st t => st.clearArea t r.ctx colour) s
  let s2 := (s1.ls.leases.filter (fun l => l.region == n && l.colour == colour)).foldl (fun st l => st.endLease l.num) s1
  s2.modColour n colour (fun k => { k with state := 0 })

/-- Does an AWAIT accept a completion? -/
def Cmd.accepts (c : Cmd) (tok : Token) : Bool :=
  match c.kind with
  | .await _ anyCol _ _ => anyCol || tagColour tok.tag == c.colour
  | _ => false

/-- An AWAIT completes without a token. -/
def State.awaitEnd (s : State) (c : Cmd) (d : RegField) (status : Nat) : State :=
  (s.modCore c.core (fun k => k.clearX d)).finishCmd c status 0

/-- The AWAITs that name a colour which has just been closed end, where the queue holds no completion of it, and the inbox no token for
one that reads it too (R344). -/
def State.endAwaits (s : State) (n colour : Nat) : State :=
  if (s.region n).queue.any (fun t => tagColour t.tag == colour) then s
  else (s.cmds.filter (fun c => c.region == n && c.colour == colour)).foldl (fun st c =>
    match c.kind with
    | .await src anyCol _ d =>
      if src = 1 || anyCol || (src = 2 && !(st.core c.core).inbox.isEmpty) then st else st.awaitEnd c d 0x28
    | _ => st) s

/-- CCLOSE (R336): at commit the colour is closing and its louvre is dropped. -/
def execCclose (o : Operands) (s : State) : Out :=
  onRegion o [] false s (fun sel _ s1 =>
    if ((s1.region (selReg sel)).colour (selCol sel)).state != 1 then s1.answer o 0x24 0
    else
      let s2 := s1.modColour (selReg sel) (selCol sel) (fun k => { k with state := 2 })
      let d := s2.dropLouvre (selReg sel) (selCol sel)
      .next (d.2.holdCmd o sel (.cclose d.1)))

/-- CCLOSE_FINISH (R336): the colour has no admitted instance. -/
def execCcloseFinish (cmd : Nat) (s : State) : Out :=
  match s.cmd cmd with
  | none => .next s
  | some c =>
    match c.kind with
    | .cclose dropped =>
      let r := s.region c.region
      if (r.colour c.colour).state != 2 || r.admitted c.colour != 0 then .next s
      else .next (((s.closeColour c.region c.colour).finishCmd c 0 dropped).endAwaits c.region c.colour)
    | _ => .next s

/-! ### CKILL (R100, R156, R337, R356) -/

/-- The launch-pool entries of a colour fail. -/
def State.failLaunches (s : State) (n colour status : Nat) : State :=
  ((s.gals.flatMap (fun g => g.2.pool)).filter (fun l => l.region == n && l.colour == colour)).foldl
    (fun st l => st.endLaunch l.cmd status 0) s

/-- The tokens of a colour that wait in output stages are gone; what waits behind them goes on (R281). -/
def State.dropStaged (s : State) (t ctx colour : Nat) : State :=
  let c := s.tctx t ctx
  let s1 := s.modCtx t ctx (fun c => { c with
    stage := (c.stage.map (fun e => (e.1, e.2.filter (fun k => tagColour k.tag != colour)))).filter (fun e => !e.2.isEmpty)
    ords := c.ords.filter (fun o => tagColour o.2.2.tag != colour) })
  (c.stage.map Prod.fst).foldl (fun st e => st.drainEdge t ctx e) s1

/-- A kill at a tile: the colour's firings end, its operators and its chain stop, and it sends no further token (R156, R356, R379). -/
def State.killOn (s : State) (t ctx region colour : Nat) : State :=
  let s1 := s.endFirings t ctx (fun f => f.region == region && f.colour == colour)
  (s1.modCtx t ctx (fun c => { c with
    gens := c.gens.filter (fun g => tagColour g.2.trigger.tag != colour)
    outs := c.outs.filter (fun w => w.colour != colour)
    bank := if c.bank.owner == .colour colour then
        (if c.bank.queue.isEmpty then Bank.taken
         else { c.bank with leaving := true, discard := true, chain := 0, drain := Option.none })
      else c.bank })).dropStaged t ctx colour

/-- CKILL (R337): step 1 at commit. -/
def execCkill (o : Operands) (s : State) : Out :=
  onRegion o [] false s (fun sel _ s1 =>
    let n := selReg sel
    let colour := selCol sel
    let r := s1.region n
    if (r.colour colour).state != 1 && (r.colour colour).state != 2 then s1.answer o 0x24 0
    else
      let s2 := (s1.dropLouvre n colour).2.modColour n colour (fun k => { k with state := 3 })
      let s3 := r.sites.foldl (fun st t => st.killOn t r.ctx n colour) (s2.failLaunches n colour 0x24)
      .next (s3.holdCmd o sel (.ckill 0)))

/-- Have the requests of a colour's firings and operators completed, its firings ended and its tokens on their way been discarded
(R337, steps 1 and 2), and does no swap of the region move a tile (R427)? -/
def State.colourQuiet (s : State) (n colour : Nat) : Bool :=
  let r := s.region n
  !s.z.ops.any (fun o => o.inst.any (fun k => k.region == n && k.colour == colour)) &&
    !s.flights.any (fun f => f.region == n && tagColour f.tok.tag == colour) &&
    r.sites.all (fun t => (s.firingsOn t r.ctx (fun f => f.region == n && f.colour == colour)).isEmpty) &&
    !s.swaps.any (fun w => w.region == n && w.step == .transfer)

/-- Remove from a tile everything of a colour that is not in a casement or reserved (R337, step 3): its entries, the sets that wait to
be issued, and the tokens in edge buffers. -/
def State.purgeColour (s : State) (t ctx colour : Nat) : State :=
  let tags := fun (w : Word) => tagColour w == colour
  let s1 := (s.removeEntries t ctx (fun e => e.colour == colour) tags).2
  let c := s1.tctx t ctx
  let set := fun (x : OpSet) => tags x.lead.tag && waKind (c.wordA x.slot) != 11
  let out := fun (b : Nat × List Held) (h : Held) => !c.atCasement b.1 && h.reserved.isNone && tags h.tok.tag
  let gone := c.buffers.flatMap (fun b => b.2.filter (out b))
  let s2 := s1.modCtx t ctx (fun c => { c with
    ready := c.ready.filter (fun x => !set x)
    buffers := c.buffers.map (fun b => (b.1, b.2.filter (fun h => !out b h))) })
  let s3 := ((c.ready.filter set).flatMap (fun x => x.toks)).foldl (fun st k => st.returnCredit c.region k.edge k.tok.weight) s2
  gone.foldl (fun st h => st.returnCredit c.region h.src h.tok.weight) s3

/-- Steps 3 and 4 of CKILL; the answer is the number of instances ended. DEDUCED: log entry 31. -/
def State.killColour (s : State) (n colour : Nat) : Nat × State :=
  let r := s.region n
  let k := r.colour colour
  let s1 := r.sites.foldl (fun st t => st.purgeColour t r.ctx colour) s
  let s2 := k.louvre.foldl (fun st h => st.returnCredit n h.src h.tok.weight) s1
  let s3 := (s2.modRegion n (fun r => { r with insts := r.insts.filter (fun i => i.colour != colour) })).modColour n colour
    (fun k => { k with louvre := [], drawn := [] })
  (r.admitted colour, s3.closeColour n colour)

/-- The closings of a colour that wait end with it. -/
def State.endClosings (s : State) (n colour : Nat) : State :=
  (s.cmds.filter (fun c => c.region == n && c.colour == colour)).foldl (fun st c =>
    match c.kind with
    | .cclose dropped => st.finishCmd c 0 dropped
    | _ => st) s

/-- CKILL_FINISH (R256, R337): the colour's requests have completed. -/
def execCkillFinish (cmd : Nat) (s : State) : Out :=
  match s.cmd cmd with
  | none => .next s
  | some c =>
    match c.kind with
    | .ckill _ =>
      let r := s.region c.region
      let s1 := r.sites.foldl (fun st t => st.killOn t r.ctx c.region c.colour) s
      if !s1.colourQuiet c.region c.colour then .next s1
      else
        let k := s1.killColour c.region c.colour
        .next (((k.2.endClosings c.region c.colour).finishCmd c 0 k.1).endAwaits c.region c.colour)
    | _ => .next s

end Sys2Proof.Machine
end

