-- ==== Sys2Proof/Machine/Float.lean ====
section
/-! DEFINITION. The scalar floating-point families FALU, FCMP and FCVT (R165 to R168). -/

namespace Sys2Proof.Machine

/-- The operand faults of FALU, FCMP and FRND (R68, R165): only FP32, unmasked, with a rounding mode of R68. -/
def scalarBad (o : Operands) : Option Exc := badIf (extType o != 0 || extMskd o || 5 ≤ extRnd o)

/-- The low 32 bits of a scalar operand (R165). -/
def low32 (w : Word) : Nat := w.toNat % 2 ^ 32

/-- A scalar result: the flags accrue, the low bits of x[`D`] take the result and the bits above are zero (R165). -/
def State.finishF (s : State) (o : Operands) (r : FRes) : Out := (s.accrue r.flags).finishX o (BitVec.ofNat 64 r.bits)

/-- An instruction of x[`A`] and the typed second source (R166, R167). -/
def floatOp2 (f : Rnd → Nat → Nat → FRes) (o : Operands) (s : State) : Out :=
  issue { Use.onActor with xs := o.a :: typedField o, xd := some o.d, bad := scalarBad o } s
    (fun rd s1 => s1.finishF o (f (rndOf (extRnd o)) (low32 (rd o.a)) (low32 (typedSecond o rd))))

/-- An instruction that also reads x[`D`] (R166). -/
def floatOp3 (f : Rnd → Nat → Nat → Nat → FRes) (o : Operands) (s : State) : Out :=
  issue { Use.onActor with xs := o.d :: o.a :: typedField o, xd := some o.d, bad := scalarBad o } s
    (fun rd s1 => s1.finishF o (f (rndOf (extRnd o)) (low32 (rd o.a)) (low32 (typedSecond o rd)) (low32 (rd o.d))))

/-- An instruction of x[`A`] alone (R166 to R168). -/
def floatOp1 (f : Rnd → Nat → FRes) (o : Operands) (s : State) : Out :=
  issue { Use.onActor with xs := [o.a], xd := some o.d, bad := scalarBad o } s
    (fun rd s1 => s1.finishF o (f (rndOf (extRnd o)) (low32 (rd o.a))))

/-- FADD (R166). -/
def execFadd (o : Operands) (s : State) : Out := floatOp2 (fun m a b => fAdd .fp32 m a b) o s
/-- FSUB (R166). -/
def execFsub (o : Operands) (s : State) : Out := floatOp2 (fun m a b => fSub .fp32 m a b) o s
/-- FMUL (R166). -/
def execFmul (o : Operands) (s : State) : Out := floatOp2 (fun m a b => fMul .fp32 m a b) o s
/-- FMA (R166). -/
def execFma (o : Operands) (s : State) : Out := floatOp3 (fun m a b c => fFma .fp32 m false a b c) o s
/-- FMS (R166). -/
def execFms (o : Operands) (s : State) : Out := floatOp3 (fun m a b c => fFma .fp32 m true a b c) o s
/-- FDIV (R166). -/
def execFdiv (o : Operands) (s : State) : Out := floatOp2 (fun m a b => fDiv .fp32 m a b) o s
/-- FSQRT (R166). -/
def execFsqrt (o : Operands) (s : State) : Out := floatOp1 (fun m a => fSqrt .fp32 m a) o s
/-- FMIN (R166). -/
def execFmin (o : Operands) (s : State) : Out := floatOp2 (fun _ a b => fMinMax .fp32 false a b) o s
/-- FMAX (R166). -/
def execFmax (o : Operands) (s : State) : Out := floatOp2 (fun _ a b => fMinMax .fp32 true a b) o s
/-- FABS (R166). -/
def execFabs (o : Operands) (s : State) : Out := floatOp1 (fun _ a => fAbs .fp32 a) o s
/-- FNEG (R166). -/
def execFneg (o : Operands) (s : State) : Out := floatOp1 (fun _ a => fNeg .fp32 a) o s
/-- FEQ (R167). -/
def execFeq (o : Operands) (s : State) : Out := floatOp2 (fun _ a b => fEq .fp32 a b) o s
/-- FLT (R167). -/
def execFlt (o : Operands) (s : State) : Out := floatOp2 (fun _ a b => fLt .fp32 a b) o s
/-- FLE (R167). -/
def execFle (o : Operands) (s : State) : Out := floatOp2 (fun _ a b => fLe .fp32 a b) o s
/-- FUN (R167). -/
def execFunord (o : Operands) (s : State) : Out := floatOp2 (fun _ a b => fUn .fp32 a b) o s
/-- FCLASS (R167). -/
def execFclass (o : Operands) (s : State) : Out := floatOp1 (fun _ a => ⟨fClass .fp32 a, 0⟩) o s

/-- CVT's result in x[`D`] (R168): an integer result is extended by its own signedness, a float result is
zero-extended. -/
def cvtResult (dst : ElemType) (bits : Nat) : Word :=
  if isSignedInt dst then BitVec.ofInt 64 (intValue dst bits) else BitVec.ofNat 64 bits

/-- CVT (R168): the source type is `B`[4:0], the destination type `EXT.ETYPE`; no code of 16 or more and no mask. The 96-bit form is
an illegal length, which comes before the engine (R104). -/
def execCvt (o : Operands) (s : State) : Out :=
  let src := o.b.toNat % 32
  let bad := badIf (16 ≤ src || 16 ≤ extType o || extMskd o || 5 ≤ extRnd o)
  if o.form = .w96 then s.raise excOperand
  else issue { Use.onActor with xs := [o.a], xd := some o.d, bad := bad } s (fun rd s1 =>
    let r := convert (typeOf src) (typeOf (extType o)) (rndOf (extRnd o)) ((rd o.a).toNat % 2 ^ elemBits (typeOf src))
    (s1.accrue r.flags).finishX o (cvtResult (typeOf (extType o)) r.bits))

/-- FRND (R168). -/
def execFrnd (o : Operands) (s : State) : Out := floatOp1 (fun m a => fRound .fp32 m a) o s

end Sys2Proof.Machine
end

