-- ==== Sys2Proof/Machine/Sill.lean ====
section
/-! DEFINITION. The sill's sampler, acceptance unit, commit unit and random generator (R403 to R411), and the completion
of operations, which for a SILL command is where its unit reads, commits and writes. -/

namespace Sys2Proof.Machine

/-! ### The random generator (R404) -/

/-- A word of the ChaCha state. -/
abbrev Quarter := BitVec 32

/-- The quarter round of RFC 8439. -/
def quarterRound (x : List Quarter) (i j k l : Nat) : List Quarter :=
  let at_ := fun (y : List Quarter) (n : Nat) => y.getD n 0
  let s1 := fun (y : List Quarter) (p q r rot : Nat) =>
    let y1 := y.set p (at_ y p + at_ y q)
    y1.set r ((at_ y1 r ^^^ at_ y1 p).rotateLeft rot)
  s1 (s1 (s1 (s1 x i j l 16) k l j 12) i j l 8) k l j 7

/-- A double round: the columns, then the diagonals. -/
def doubleRound (x : List Quarter) : List Quarter :=
  let col := fun (y : List Quarter) => quarterRound (quarterRound (quarterRound (quarterRound y 0 4 8 12) 1 5 9 13) 2 6 10 14) 3 7 11 15
  let dia := fun (y : List Quarter) => quarterRound (quarterRound (quarterRound (quarterRound y 0 5 10 15) 1 6 11 12) 2 7 8 13) 3 4 9 14
  dia (col x)

/-- U (R404): word 0 of the block of four double rounds. -/
def chachaDraw (key draw step seq : Nat) : Nat :=
  let w := fun (n : Nat) => BitVec.ofNat 32 n
  let init : List Quarter :=
    [(0x61707865 : Quarter), 0x3320646E, 0x79622D32, 0x6B206574] ++ (upTo 8).map (fun i => w (key >>> (32 * i))) ++ [w draw, w step, w seq, 0]
  let out := foldUp (fun _ x => doubleRound x) 4 init
  (out.getD 0 0 + init.getD 0 0).toNat

/-! ### Sequence entries (R403) -/

/-- A sequence entry. -/
def State.seqEntry (s : State) (g e : Nat) : SeqEntry := AMap.get SeqEntry.zero (s.gal g).entries e
/-- Write a sequence entry. -/
def State.setEntry (s : State) (g e : Nat) (x : SeqEntry) : State := s.modGal g (fun k => { k with entries := AMap.put k.entries e x })
/-- U for a draw of an entry; none where the entry is not valid (R404, R408). -/
def State.drawFor (s : State) (g e draw : Nat) : Option Nat :=
  let x := s.seqEntry g e
  if x.valid then some (chachaDraw x.key draw x.step x.seq) else none

/-! ### Reading for a unit -/

/-- The reads of an array of `n` bytes, by its virtual and its physical place (R406). -/
def arrayReads (va : Nat) (l : Nat × Nat) (n : Nat) : List Req := Place.reads ⟨l.1, l.2⟩ va 0 n

/-- How many reads an array of `n` bytes on a line's boundary takes. -/
def arrayLen (n : Nat) : Nat := (n + 7) / 8

/-- Word i of an array that has been read. -/
def wordAt (data i : Nat) : Nat := (data >>> (32 * i)) % 2 ^ 32

/-- Did the read of word i return poison? -/
def wordBad (rs : List Req) (i : Nat) : Bool := (rs[i / 2]?).any Req.bad

/-! ### The end of a SILL command -/

/-- A SILL command completes: its operation ends, x[`D`] takes its value where it has one, and the command completes. -/
def State.endSill (s : State) (c : Cmd) (o : MemOp) (out : Option (RegField × Word)) (status result : Nat) : State :=
  let s1 := match s.op o.id with
    | some x => s.completeOp x
    | none => s
  let s2 := match out with
    | some (d, v) => if o.core.isSome then s1.modCore c.core (fun k => (k.wx d v).clearX d) else s1
    | none => s1
  s2.finishCmd c status result

/-! ### SAMP (R408) -/

/-- The index that a draw selects: the first whose cumulative weight times 2^32 exceeds U times the total. -/
def sampleIndex (weight : Nat → Nat) (n u total : Nat) : Option Nat :=
  (foldUp (fun i (acc : Nat × Option Nat) =>
    let c := acc.1 + weight i
    (c, match acc.2 with
      | some x => some x
      | none => if u * total < c * 2 ^ 32 then some i else none)) n (0, none)).2

/-- SAMP's two passes (R408), on the weights and the vector that were read. -/
def State.sampRun (s : State) (c : Cmd) (o : MemOp) (d : RegField) (n : Nat) (hasSet : Bool) (u : Nat) (rs : List Req) : State :=
  let wgts := readBytes (rs.take (arrayLen (4 * n)))
  let set := readBytes (rs.drop (arrayLen (4 * n)))
  let weight := fun (i : Nat) => if !hasSet || set.testBit i then wordAt wgts i else 0
  let total := foldUp (fun i t => t + weight i) n 0
  let fail := fun (st : Nat) => s.endSill c o (some (d, BitVec.allOnes 64)) st 0
  if rs.any Req.bad then fail 0x03
  else match sampleIndex weight n u total with
    | none => fail 0x05
    | some i => s.endSill c o (some (d, BitVec.ofNat 64 i)) 0 i

/-! ### ACPT (R409) -/

/-- The walk of the draft tree: the node, the mask, the tokens accepted, and whether a node was rejected for poison. -/
structure TreeWalk where
  node : Nat
  mask : Nat
  list : List Nat
  spec : Bool
  ended : Bool
  deriving DecidableEq, Repr

/-- One step down the tree (R409). -/
def treeStep (n : Nat) (parent draft target : Nat → Nat) (bad : Nat → Bool) (w : TreeWalk) : TreeWalk :=
  if w.ended then w
  else match findUp (fun y => w.node < y && parent y == w.node && draft y == target w.node) n with
    | none => { w with ended := true }
    | some y =>
      if bad y then { w with spec := true, ended := true }
      else { w with node := y, mask := w.mask + 2 ^ y, list := w.list ++ [target y] }

/-- ACPT (R409), on the target, draft and parent arrays that were read. -/
def State.acptRun (s : State) (c : Cmd) (o : MemOp) (g : Nat) (d : RegField) (n out : Nat) (rs : List Req) : State :=
  let k := arrayLen (4 * n)
  let (tgt, drf, par) := (rs.take k, (rs.drop k).take k, rs.drop (2 * k))
  let (target, draft, parent) := (wordAt (readBytes tgt), wordAt (readBytes drf), wordAt (readBytes par))
  let keep := some (d, (s.core c.core).rx d)
  if par.any Req.bad || wordBad tgt 0 then s.endSill c o keep 0x03 0
  else if parent 0 != 0 || (upTo n).any (fun i => 1 ≤ i && i ≤ parent i) then s.endSill c o keep 0x29 0
  else
    let w := foldUp (fun _ w => treeStep n parent draft target (fun y => wordBad drf y || wordBad tgt y) w) n
      { node := 0, mask := 1, list := [target 0], spec := false, ended := false }
    let s2 := if w.spec then s.modGal g (fun k =>
      { k with sillst := { k.sillst with spec := min (k.sillst.spec + 1) 0xFFFFFFFF } }) else s
    let bytes := (w.list.zip (upTo 32)).foldl (fun acc x => acc + x.1 * 2 ^ (32 * x.2)) 0
    let s3 := if o.core.isSome then
      (s2.localWrite c.core out 64 (bytes % 2 ^ 512) false).localWrite c.core (out + 64) 64 (bytes / 2 ^ 512) false else s2
    s3.endSill c o (some (d, BitVec.ofNat 64 (w.mask * 2 ^ 32 + w.list.length))) 0 w.list.length

/-! ### CMIT (R410) -/

/-- The completion record (R410). -/
def completionRecord (x : SeqEntry) (draws cnt tokens : Nat) : Nat :=
  1 + (1 + x.replay.toNat * 2) * 2 ^ 32 + cnt % 256 * 2 ^ 40 + x.col % 1024 * 2 ^ 48 + x.seq % 2 ^ 32 * 2 ^ 64 +
    x.step % 2 ^ 32 * 2 ^ 96 + x.pos % 2 ^ 64 * 2 ^ 128 + draws % 2 ^ 32 * 2 ^ 224 + x.key % 2 ^ 256 * 2 ^ 256 +
    tokens % 2 ^ (32 * cnt) * 2 ^ 512

/-- CMIT's commit (R410): the entry advances and the record is written. -/
def State.cmitRun (s : State) (c : Cmd) (o : MemOp) (g draws cnt ent tok addr : Nat) (rec : Nat × Nat) : State :=
  let x := s.seqEntry g ent
  if cnt = 0 || 32 < cnt then s.endSill c o none 0x29 0
  else if !x.valid then s.endSill c o none 0x32 0
  else
    let tokens := s.localRead c.core tok (4 * cnt)
    let s1 := s.setEntry g ent { x with pos := (x.pos + cnt) % 2 ^ 64, step := (x.step + 1) % 2 ^ 32 }
    (s1.unitWrites o.id addr rec.1 rec.2 (completionRecord x draws cnt tokens) 192).modOp o.id
      (fun y => { y with pending := false })

/-! ### SEED (R407) -/

/-- The entry that a completion record replays. -/
def replayEntry (r : Nat) : SeqEntry :=
  { valid := true, seq := bitsAt r 95 64, col := bitsAt r 57 48, pos := bitsAt r 191 128, step := bitsAt r 127 96,
    key := bitsAt r 511 256, replay := true }

/-- SEED mode 2 (R407), on the record that was read. -/
def State.seedRun (s : State) (c : Cmd) (o : MemOp) (g ent : Nat) (rs : List Req) : State :=
  let r := readBytes rs
  if rs.any Req.bad then s.endSill c o none 0x03 0
  else if bitsAt r 15 0 != 1 || !r.testBit 32 then s.endSill c o none 0x31 0
  else if 1024 ≤ ent then s.endSill c o none 0x29 0
  else (s.setEntry g ent (replayEntry r)).endSill c o none 0 0

/-! ### A unit's turn -/

/-- The gallery of a sill's operation. -/
def sillOf (o : MemOp) : Nat := domainOf o.party

/-- The unit of a SILL command works, once the operation's arcs are met and the reads of its device requests have returned (R226,
R406). -/
def State.sillTurn (s : State) (c : Cmd) (o : MemOp) : State :=
  let g := sillOf o
  if !o.pending then (if s.opReady o then s.endSill c o none 0 0 else s)
  else if !s.arcsMet o || !s.readsDone o then s
  else match c.kind with
    | .samp d draw ent n hasSet u =>
      (match u with
        | some v => s.sampRun c o d n hasSet v o.reads
        | none =>
          match s.drawFor g ent draw with
          | some v => s.sampRun c o d n hasSet v o.reads
          | none => s.endSill c o (some (d, BitVec.allOnes 64)) 0x32 0)
    | .acpt d n out => s.acptRun c o g d n out o.reads
    | .cmit draws cnt ent tok addr rec => s.cmitRun c o g draws cnt ent tok addr rec
    | .seed ent => s.seedRun c o g ent o.reads
    | _ => s

/-- Is the command one of the sill's? -/
def CmdKind.isSill (k : CmdKind) : Bool :=
  match k with
  | .samp .. | .acpt .. | .cmit .. | .seed .. => true
  | _ => false

/-! ### The instructions (R406) -/

/-- The unit of the sill that a SILL command is for (R385). -/
def CmdKind.sillUnit (k : CmdKind) : Nat :=
  match k with
  | .samp .. => 0
  | .acpt .. => 1
  | .cmit .. => 2
  | _ => 3

/-- The operation that unit `u` of the sill makes for a SILL command (R226, R406). -/
def State.sillOp (s : State) (o : Operands) (u : Nat) : MemOp :=
  { s.newOp o true with
    party := sillParty (s.galleryOf s.cur) u
    own := some (s.clock s.cur)
    acquire := o.md.getLsbD 2
    release := o.md.getLsbD 3
    done := 0
    pending := true
    eager := true
    tile := none }

/-- Check a device range of a SILL command: a multiple of 64, and inside an extent (R406). -/
def State.sillRange (s : State) (va n : Nat) (k : ReqKind) : Except Exc (Nat × Nat) :=
  if va % 64 != 0 then .error (excAt 0x03 0 va)
  else if n = 0 then .ok (0, 0)
  else match s.translate (s.extentsOf s.cur) va n k with
    | none => .error (excAt 0x04 0 va)
    | some r => .ok (r.1, r.2.1)

/-- Start a SILL command, with the reads that it makes of device memory: its unit's turn comes at once where nothing earlier has to
complete first (R328, R406). DEDUCED: log entry 54. -/
def State.startSill (s : State) (o : Operands) (kind : CmdKind) (d : RegField) (now : Bool) (reads : List Req) : Out :=
  let id := s.z.nextId
  let c := s.newCmd id o 0 kind
  let s1 := (((s.addOp { s.sillOp o kind.sillUnit with reqs := reads } s.cur).modCore s.cur (fun k => k.markX d))).waitCmd c o
  match (if now then s1.op id else none) with
  | some op => .next (s1.sillTurn c op)
  | none => .next s1

/-- SAMP (R408). The entry is read at issue unless the form waits for earlier requests first. -/
def execSamp (o : Operands) (s : State) : Out :=
  issue { Use.onSeq with xs := [o.a], xd := some o.d, c := o.c, t := o.t } s (fun rd s1 =>
    match s1.localFault s1.cur (rd o.a) 64 64 true with
    | some e => s1.raise e
    | none =>
      let r := s1.localRead s1.cur (rd o.a).toNat 64
      let n := bitsAt r 159 128
      let set := bitsAt r 63 0
      let ent := bitsAt r 169 160
      let draw := bitsAt r 223 192
      match s1.sillRange (bitsAt r 127 64) (4 * n) .read, s1.sillRange set (64 * ((n + 511) / 512)) .read with
      | .error e, _ => s1.raise e
      | .ok w, sr =>
        match (if set = 0 then .ok none else sr.map some) with
        | .error e => s1.raise e
        | .ok place =>
          let reads := arrayReads (bitsAt r 127 64) w (4 * n) ++ (place.elim [] (fun l => arrayReads set l (64 * ((n + 511) / 512))))
          if n = 0 then (s1.writeX o.d (BitVec.allOnes 64)).answer o 0x29 0
          else if o.md.getLsbD 3 then s1.startSill o (.samp o.d draw ent n place.isSome none) o.d false reads
          else match s1.drawFor (s1.galleryOf s1.cur) ent draw with
            | none => (s1.writeX o.d (BitVec.allOnes 64)).answer o 0x32 0
            | some u => s1.startSill o (.samp o.d draw ent n place.isSome (some u)) o.d false reads)

/-- ACPT (R409). -/
def execAcpt (o : Operands) (s : State) : Out :=
  issue { Use.onSeq with xs := [o.a], xd := some o.d, c := o.c, t := o.t } s (fun rd s1 =>
    match s1.localFault s1.cur (rd o.a) 64 64 true with
    | some e => s1.raise e
    | none =>
      let r := s1.localRead s1.cur (rd o.a).toNat 64
      let n := bitsAt r 263 256
      let out := bitsAt r 255 192
      match s1.localFault s1.cur (BitVec.ofNat 64 out) 128 1 false with
      | some e => s1.raise e
      | none =>
        match s1.sillRange (bitsAt r 191 128) (4 * n) .read, s1.sillRange (bitsAt r 127 64) (4 * n) .read,
          s1.sillRange (bitsAt r 63 0) (4 * n) .read with
        | .ok tgt, .ok drf, .ok par =>
          if n = 0 || 32 < n then s1.answer o 0x29 0
          else s1.startSill o (.acpt o.d n out) o.d false
            (arrayReads (bitsAt r 191 128) tgt (4 * n) ++ arrayReads (bitsAt r 127 64) drf (4 * n) ++ arrayReads (bitsAt r 63 0) par (4 * n))
        | .error e, _, _ | .ok _, .error e, _ | .ok _, .ok _, .error e => s1.raise e)

/-- CMIT (R410). It commits at issue unless the form waits for earlier requests first. -/
def execCmit (o : Operands) (s : State) : Out :=
  issue { Use.onSeq with xs := [o.a], c := o.c, t := o.t } s (fun rd s1 =>
    match s1.localFault s1.cur (rd o.a) 64 64 true with
    | some e => s1.raise e
    | none =>
      let r := s1.localRead s1.cur (rd o.a).toNat 64
      let cnt := bitsAt r 151 144
      let tok := bitsAt r 127 64
      match s1.localFault s1.cur (BitVec.ofNat 64 tok) (4 * min cnt 32) 1 true with
      | some e => s1.raise e
      | none =>
        match s1.sillRange (bitsAt r 63 0) 192 .write with
        | .error e => s1.raise e
        | .ok rec =>
          s1.startSill o (.cmit (bitsAt r 223 192) cnt (bitsAt r 137 128) tok (bitsAt r 63 0) rec) 0 (!o.md.getLsbD 3) [])

/-- The entry that a seed block gives (R407). -/
def blockEntry (b key : Nat) : SeqEntry :=
  { valid := true, seq := bitsAt b 31 0, col := bitsAt b 41 32, pos := bitsAt b 127 64, step := bitsAt b 159 128, key := key,
    replay := false }

/-- SEED (R407). A fresh key is a free value (log entry 2). -/
def seedForms (o : Operands) (s : State) : Out :=
  issue { Use.onSeq with xs := [o.a, o.b], c := o.c, t := o.t } s (fun rd s1 =>
    let mode := o.imm.toNat % 4
    let g := s1.galleryOf s1.cur
    let ent := (rd o.a).toNat
    match mode with
    | 2 =>
      (match s1.sillRange (rd o.b).toNat 192 .read with
        | .error e => s1.raise e
        | .ok rec => s1.startSill o (.seed ent) 0 false (arrayReads (rd o.b).toNat rec 192))
    | 3 => if 1024 ≤ ent then s1.answer o 0x29 0 else (s1.setEntry g ent SeqEntry.zero).answer o 0 0
    | _ =>
      match s1.localFault s1.cur (rd o.b) 64 64 true with
      | some e => s1.raise e
      | none =>
        let b := s1.localRead s1.cur (rd o.b).toNat 64
        if 1024 ≤ ent then s1.answer o 0x29 0
        else if mode = 1 then (s1.setEntry g ent (blockEntry b (bitsAt b 511 256))).answer o 0 0
        else if !(s1.gal g).sillst.eok then s1.answer o 0x30 0
        else
          let f := s1.freeVec
          (f.2.setEntry g ent (blockEntry b (f.1.toNat % 2 ^ 256))).answer o 0 0)

/-- SEED, mode 0 (R407). -/
def execSeedFresh (o : Operands) (s : State) : Out := seedForms o s
/-- SEED, mode 1 (R407). -/
def execSeedExplicit (o : Operands) (s : State) : Out := seedForms o s
/-- SEED, mode 2 (R407). -/
def execSeedReplay (o : Operands) (s : State) : Out := seedForms o s
/-- SEED, mode 3 (R407). -/
def execSeedClear (o : Operands) (s : State) : Out := seedForms o s

end Sys2Proof.Machine
end

