-- ==== Sys2Proof/Machine/Inst.lean ====
section
/-! DEFINITION. Arming, injecting and waiting (R57, R343 to R347), launches from inside the device (R20, R348), and the turn
of a command that waits (R96, R326). -/

namespace Sys2Proof.Machine

/-! ### The injection edge (R346) -/

/-- The injection edge of a colour's entry casement: the lowest edge of the entry tile that feeds port 0 of the entry GAT. -/
def State.injectionEdge (s : State) (n colour : Nat) : Option Nat :=
  let r := s.region n
  let k := r.colour colour
  let c := s.tctx (r.phys k.ntile) r.ctx
  (c.edges.find? (fun e => edgeDepth e.2 != 0 && edgeDstT e.2 == c.ltile && edgeDstS e.2 == k.nslot && edgeDstP e.2 == 0)).map
    Prod.fst

/-- What an injected token's width comes to at the edge. -/
inductive Injection where
  /-- No edge of the token's width. -/
  | mismatch
  /-- The edge waits for credits. -/
  | full
  | ready (tile ctx edge : Nat)
  deriving DecidableEq, Repr

/-- Where a token of a colour would be injected now. -/
def State.injection (s : State) (n colour : Nat) (tok : Token) : Injection :=
  let r := s.region n
  let t := r.phys (r.colour colour).ntile
  match s.injectionEdge n colour with
  | none => .mismatch
  | some e =>
    let c := s.tctx t r.ctx
    if edgeWide (c.edge e) != tok.wide then .mismatch
    else if (AMap.get [] c.stage e).isEmpty && c.canSend e tok.weight then .ready t r.ctx e
    else .full

/-- Is an earlier INJ of the colour still waiting? -/
def State.injWaiting (s : State) (n colour before : Nat) : Bool :=
  s.cmds.any (fun c => c.region == n && c.colour == colour && c.id < before && (match c.kind with
    | .inj _ => true
    | _ => false))

/-! ### INJ (R346) -/

/-- The turn of a waiting INJ: it completes once its token holds its credits. -/
def State.injTurn (s : State) (c : Cmd) (tok : Token) : State :=
  if s.injWaiting c.region c.colour c.id then s
  else if ((s.region c.region).colour c.colour).state != 1 then s.finishCmd c 0x24 0
  else match s.injection c.region c.colour tok with
    | .mismatch => s.finishCmd c 0x2C 0
    | .full => s
    | .ready t ctx e => (s.sendOn t ctx e tok).finishCmd c 0 0

/-- The token that INJ and LNCH make (R346). -/
def injToken (colour ctx ctl : Nat) (wide : Bool) (d : Word) (payload : Nat) (clock : Clock) : Token :=
  { tag := mkTag colour ctx (if ctl % 4 = 0 then 0 else d.toNat % 2 ^ 52)
    ctl := mkCtl false false 0 (ctl.testBit 2) false (ctl % 4)
    wide := wide
    payload := BitVec.ofNat 512 payload
    clock := clock }

/-- INJ (R346). -/
def execInj (o : Operands) (s : State) : Out :=
  let ctl := o.imm.toNat
  let wide := o.imm.getLsbD 3
  let hold := o.form != .w32 && o.md.getLsbD 3 && !s.slotClear s.cur
  let bad := badIf (15 < ctl || ctl % 4 = 3)
  issue { Use.onSeq with xs := [o.d, o.a, o.b], c := o.c, t := o.t, hold := hold, bad := bad } s (fun rd s1 =>
    let n := selReg (rd o.a)
    let colour := selCol (rd o.a)
    match (if wide then s1.localFault s1.cur (rd o.b) 64 64 true else none) with
    | some e => s1.raise e
    | none =>
      let payload := if wide then s1.localRead s1.cur (rd o.b).toNat 64 else (rd o.b).toNat
      if s1.foreign n then s1.answer o 0x20 0
      else if (s1.region n).state = .unloaded then s1.answer o 0x21 0
      else if ((s1.region n).colour colour).state != 1 then s1.answer o 0x24 0
      else
        let tok := injToken colour (s1.region n).ctx ctl wide (rd o.d) payload (s1.doneClock s1.cur)
        match s1.injection n colour tok with
        | .mismatch => s1.answer o 0x2C 0
        | .ready t ctx e =>
          if s1.injWaiting n colour s1.z.nextId then .next (s1.holdCmd o (rd o.a) (.inj tok))
          else (s1.sendOn t ctx e tok).answer o 0 0
        | .full => .next (s1.holdCmd o (rd o.a) (.inj tok)))

/-! ### The kernel boundary (R57) -/

/-- Is the party one of a region's: a unit or a core of one of its tiles (R39)? -/
def Region.ownsParty (r : Region) (p : Nat) : Bool :=
  r.sites.any (fun t => (256 + 4 * t ≤ p && p < 260 + 4 * t) || p == 5000 + t || p == fetchParty t || p == portParty t ||
    (slotParty t r.ctx 0 ≤ p && p < slotParty t r.ctx 24))

/-- Have the region's writes and atomics that were issued before a number been applied in all 20 views (R57, step 1)?.
DEDUCED: log entry 33. -/
def State.boundaryDone (s : State) (n start : Nat) : Bool :=
  let r := s.region n
  !s.z.writes.any (fun w => r.ownsParty w.party && (w.id < start || 16 ≤ w.stamp.dom) && !(upTo 20).all (fun v => w.applied.contains v)) &&
    !s.z.ops.any (fun o => r.ownsParty o.party && o.id < start && o.reqs.any (fun q => q.kind == .atomic && q.state == .issued))

/-- Drop the read-only entries of the region's colours in the galleries that it occupies (R57, step 2). -/
def State.boundaryDrop (s : State) (n : Nat) : State :=
  ((s.region n).sites.map galleryOfTile).eraseDups.foldl (fun st g => st.roDrop g (fun e => e.col / 1024 == n)) s

/-! ### ARM (R27, R308, R343) -/

/-- The tiles of a region whose nodes belong to a section. -/
def State.sectionTiles (s : State) (n sec : Nat) : List Nat :=
  let r := s.region n
  r.sites.filter (fun t => (s.tctx t r.ctx).mxs.any (fun m => m.sec == sec))

/-- Give the nodes of a section a pass count. -/
def State.giveCount (s : State) (n sec : Nat) (count : Option Nat) : State :=
  match count with
  | none => s
  | some k => (s.sectionTiles n sec).foldl (fun st t => st.modCtx t (s.region n).ctx (fun c => { c with passes := k })) s

/-- The certificate as ARM checks it (R308): check 9, then checks 2 to 8. -/
def State.certArm (s : State) (n : Nat) : Nat × Nat :=
  let c := s.certColours n
  if c.1 != 0 then c else s.certPools n

/-- The turn of a re-arm that waits for its kernel boundary: the region's state and certificate are checked as it commits (R328). -/
def State.rearmTurn (s : State) (c : Cmd) (sec : Nat) (count : Option Nat) (start : Nat) : State :=
  let r := s.region c.region
  if r.state != .active && r.state != .armed then s.finishCmd c 0x21 0
  else if !s.boundaryDone c.region start then s
  else
    let v := s.certArm c.region
    let s1 := s.boundaryDrop c.region
    if v.1 != 0 then s1.finishCmd c v.1 v.2 else (s1.giveCount c.region sec count).finishCmd c 0 0

/-- ARM (R343). -/
def execArm (o : Operands) (s : State) : Out :=
  fabric o [o.b] (1 < o.imm.toNat) s (fun sel rd s1 =>
    let n := selReg sel
    let r := s1.region n
    let count := if o.imm.getLsbD 0 then some (bitsAt (rd o.b).toNat 31 0) else none
    if s1.foreign n then s1.answer o 0x20 0
    else if r.state != .active && r.state != .armed then s1.answer o 0x21 0
    else if count.isSome && (s1.sectionTiles n (selSec sel)).isEmpty then s1.answer o 0x29 0
    else
      let v := s1.certArm n
      if v.1 != 0 then s1.answer o v.1 v.2
      else if r.state = .active then
        ((s1.giveCount n (selSec sel) count).modRegion n (fun r => { r with state := .armed })).answer o 0 0
      else .next (s1.holdCmd o sel (.rearm (selSec sel) count s1.z.nextId)))

/-! ### BARR (R57, R347) -/

/-- BARR (R347): admission closes at commit. -/
def execBarr (o : Operands) (s : State) : Out :=
  onRegion o [] false s (fun sel _ s1 =>
    let n := selReg sel
    let r := s1.region n
    if r.state != .armed then s1.answer o 0x21 0
    else .next ((s1.modRegion n (fun r => { r with barred := true })).holdCmd o sel (.barr r.retired)))

/-- Is a command a BARR? -/
def CmdKind.isBarr (k : CmdKind) : Bool :=
  match k with
  | .barr _ => true
  | _ => false

/-- BARR_REOPEN (R57, R347): the region is Armed, it has no admitted instance and its writes are applied; admission reopens. DEDUCED:
log entry 32. -/
def execBarrReopen (cmd : Nat) (s : State) : Out :=
  match s.cmd cmd with
  | none => .next s
  | some c =>
    match c.kind with
    | .barr before =>
      let r := s.region c.region
      if r.state != .armed || !r.insts.isEmpty || !s.boundaryDone c.region s.z.nextId then .next s
      else
        let others := s.cmds.any (fun x => x.id != c.id && x.region == c.region && x.kind.isBarr)
        let s1 := (s.boundaryDrop c.region).modRegion c.region (fun r => { r with barred := others })
        .next (s1.finishCmd c 0 (r.retired - before))
    | _ => .next s

/-! ### AWAIT (R344) -/

/-- Does an AWAIT read the inbox, and the completion queue? -/
def CmdKind.awaits (k : CmdKind) (inbox : Bool) : Bool :=
  match k with
  | .await src _ _ _ => if inbox then src != 0 else src != 1
  | _ => false

/-- An AWAIT's record (R344). -/
def awaitRecord (tok : Token) (inbox : Bool) : Nat :=
  tok.tag.toNat + tok.ctl.toNat * 2 ^ 64 + inbox.toNat * 2 ^ 72 + tok.payload.toNat % 2 ^ (if ctlErr tok.ctl then 320 else 64) * 2 ^ 128

/-- An AWAIT takes a token: the record and x[`D`] are written, and the slot stands after the token (R44 Token row, R344).
DEDUCED: log entry 35. -/
def State.awaitGive (s : State) (c : Cmd) (addr : Nat) (d : RegField) (tok : Token) (inbox : Bool) : State :=
  let live := (s.core c.core).run != .empty
  let s1 := if live then s.localWrite c.core addr 64 (awaitRecord tok inbox) false else s
  let s2 := s1.modCore c.core (fun k => if live then (k.wx d tok.tag).clearX d else k)
  let s3 := if c.done = 0 then s2.mergeClock c.core tok.clock
    else s2.modCore c.core (fun k => { k with arcs := AMap.put k.arcs c.done.toNat tok.clock })
  s3.finishCmd c 0 (if ctlErr tok.ctl then 1 else 0)

/-- The completion that an AWAIT can take: the oldest that it accepts, unless an earlier AWAIT can take it. -/
def State.awaitPick (s : State) (c : Cmd) : Option Token :=
  match (s.region c.region).queue.find? c.accepts with
  | none => none
  | some tok =>
    if s.cmds.any (fun x => x.id < c.id && x.region == c.region && x.kind.awaits false && x.accepts tok) then none else some tok

/-- How many earlier AWAITs of the slot read the inbox: each takes a token before this one does. -/
def State.awaitPlace (s : State) (c : Cmd) : Nat := s.cmds.countP (fun x => x.id < c.id && x.core == c.core && x.kind.awaits true)

/-- Is the AWAIT the first of its slot that reads the inbox? -/
def State.awaitFirst (s : State) (c : Cmd) : Bool := s.awaitPlace c == 0

/-- An AWAIT looks at the completion queue; `commit` says that it commits now (R344). -/
def State.awaitQueue (s : State) (c : Cmd) (anyCol : Bool) (addr : Nat) (d : RegField) (commit : Bool) : State :=
  let r := s.region c.region
  let k := r.colour c.colour
  if commit && r.state != .unloaded && r.home != c.gal then s.awaitEnd c d 0x20
  else if r.state = .unloaded then s.awaitEnd c d 0x21
  else match s.awaitPick c with
    | some tok => (s.modRegion c.region (fun r => { r with queue := dropFirst c.accepts r.queue })).awaitGive c addr d tok false
    | none =>
      if !anyCol && !r.queue.any c.accepts && (k.state = 0 || (commit && k.state = 3)) then s.awaitEnd c d 0x28 else s

/-- The turn of an AWAIT: the inbox's tokens go to the AWAITs that read it in the order of their issue (R344). -/
def State.awaitTurn (s : State) (c : Cmd) (commit : Bool) : State :=
  match c.kind with
  | .await src anyCol addr d =>
    (match (if src = 0 then none else (s.core c.core).inbox[s.awaitPlace c]?) with
      | some tok => (s.modCore c.core (fun k => { k with inbox := k.inbox.eraseIdx (s.awaitPlace c) })).awaitGive c addr d tok true
      | none => if src = 1 then s else s.awaitQueue c anyCol addr d commit)
  | _ => s

/-- AWAIT (R344): it takes its token at once if it can. -/
def awaitForms (o : Operands) (s : State) : Out :=
  let src := o.imm.toNat % 4
  issue { Use.onSeq with xs := [o.a, o.b], xd := some o.d, c := o.c, t := o.t, bad := badIf (2 < o.imm.toNat) } s (fun rd s1 =>
    match s1.localFault s1.cur (rd o.b) 64 64 false with
    | some e => s1.raise e
    | none =>
      let c := s1.newCmd s1.z.nextId o (rd o.a) (.await src (selAny (rd o.a)) (rd o.b).toNat o.d)
      let s2 := { s1 with z := { s1.z with nextId := s1.z.nextId + 1 } }.modCore s1.cur (fun k => k.markX o.d)
      .next ((s2.waitCmd c o).awaitTurn c true))

/-- AWAIT with src = 0 (R344). -/
def execAwaitCompletion (o : Operands) (s : State) : Out := awaitForms o s
/-- AWAIT with src = 1 (R344). -/
def execAwaitInbox (o : Operands) (s : State) : Out := awaitForms o s
/-- AWAIT with src = 2 (R344). -/
def execAwaitEither (o : Operands) (s : State) : Out := awaitForms o s

/-- AWAIT_TAKE (R344): a waiting AWAIT takes a token that has come, or ends with its colour. -/
def execAwaitTake (cmd : Nat) (s : State) : Out :=
  match s.cmd cmd with
  | none => .next s
  | some c => .next (s.awaitTurn c false)

/-! ### LNCH (R20, R348) -/

/-- Find a pool entry. -/
def State.launch (s : State) (cmd : Nat) : Option Launch := (s.gals.flatMap (fun g => g.2.pool)).find? (fun l => l.cmd == cmd)

/-- The kind of entry that a launch of a level would take: a shared one, or one of its level's (R348); none where none is
free. -/
def State.poolEntry (s : State) (g level : Nat) : Option Bool :=
  let pool := (s.gal g).pool
  if pool.countP (fun l => l.shared) < 192 then some true
  else if pool.countP (fun l => !l.shared && l.level == level) < 16 then some false
  else none

/-- A launch takes its entry. -/
def State.takeEntry (s : State) (c : Cmd) (level : Nat) (tok : Token) (shared : Bool) : State :=
  s.modGal c.gal (fun g => { g with pool := g.pool ++
    [{ cmd := c.id, level := level, shared := shared, region := c.region, colour := c.colour, tok := { tok with launch := some c.id },
       injected := false }] })

/-- Is an earlier LNCH.W of the level still waiting for an entry? -/
def State.launchWaiting (s : State) (g level before : Nat) : Bool :=
  s.cmds.any (fun c => c.id < before && c.gal == g && (s.launch c.id).isNone && (match c.kind with
    | .lnch l _ => l == level
    | _ => false))

/-- The turn of a LNCH.W that waits for an entry. -/
def State.launchTurn (s : State) (c : Cmd) (level : Nat) (tok : Token) : State :=
  let g := c.gal
  if (s.launch c.id).isSome || s.launchWaiting g level c.id then s
  else match s.poolEntry g level with
    | none => s
    | some shared => s.takeEntry c level tok shared

/-- LNCH (R348): the depth is checked, then an entry is taken, or waited for. -/
def launchForms (wait : Bool) (o : Operands) (s : State) : Out :=
  let ctl := o.imm.toNat % 8
  let level := bitsAt o.imm.toNat 5 4
  let bad := badIf (o.imm.getLsbD 3 || 63 < o.imm.toNat || ctl % 4 = 3)
  issue { Use.onSeq with xs := [o.d, o.a, o.b], c := o.c, t := o.t, bad := bad } s (fun rd s1 =>
    let n := selReg (rd o.a)
    let g := s1.galleryOf s1.cur
    if s1.me.ldepth.toNat ≤ level then s1.raise (exc 0x14 0)
    else if s1.foreign n then s1.answer o 0x20 0
    else if (s1.region n).state = .unloaded then s1.answer o 0x21 0
    else
      let tok := injToken (selCol (rd o.a)) (s1.region n).ctx ctl false (rd o.d) (rd o.b).toNat (s1.doneClock s1.cur)
      let id := s1.z.nextId
      match (if s1.launchWaiting g level id then none else s1.poolEntry g level) with
      | none => if wait then .next (s1.holdCmd o (rd o.a) (.lnch level tok)) else s1.answer o 0x27 0
      | some shared =>
        let s2 := s1.holdCmd o (rd o.a) (.lnch level tok)
        .next (match s2.cmd id with
          | some c => s2.takeEntry c level tok shared
          | none => s2))

/-- LNCH.W (R348). -/
def execLnchW (o : Operands) (s : State) : Out := launchForms true o s
/-- LNCH.N (R348). -/
def execLnchN (o : Operands) (s : State) : Out := launchForms false o s

/-- Is an entry the first of its region's that has not been injected (R348)? -/
def State.launchFirst (s : State) (g : Nat) (l : Launch) : Bool :=
  ((s.gal g).pool.find? (fun x => x.region == l.region && !x.injected)).any (fun x => x.cmd == l.cmd)

/-- Inject a launch's token. -/
def State.launchInject (s : State) (l : Launch) : State :=
  if s.injWaiting l.region l.colour s.z.nextId then s
  else match s.injection l.region l.colour l.tok with
    | .mismatch => s.endLaunch l.cmd 0x2C 0
    | .full => s
    | .ready t ctx e =>
      let s1 := s.sendOn t ctx e l.tok
      { s1 with gals := s1.gals.map (fun g => (g.1, { g.2 with pool := g.2.pool.map (fun x =>
        if x.cmd == l.cmd then { x with injected := true } else x) })) }

/-- PENDING_LAUNCH_PROCESS (R18, R20, R348): the launch engine takes up an entry: it leases, then injects. -/
def execPendingLaunchProcess (cmd : Nat) (s : State) : Out :=
  match s.launch cmd, s.cmd cmd with
  | some l, some c =>
    let g := c.gal
    let k := (s.region l.region).colour l.colour
    if l.injected || !s.launchFirst g l then .next s
    else if k.state != 1 then .next (s.endLaunch cmd 0x24 0)
    else if (k.lease.bind s.lease).isSome then .next (s.launchInject l)
    else match s.tryLease l.region l.colour k.tctx k.key cmd with
      | .refused st => .next (s.endLaunch cmd st 0)
      | .fault va => .next (s.pageFault cmd va k.tctx)
      | .waits => .next s
      | .granted x => .next ((s.grantLease l.region l.colour k.tctx k.key g x).launchInject l)
  | _, _ => .next s

/-! ### The turn of a command or an operation (R45, R96, R326) -/

/-- DONE_COMPLETION (R45, R96, R326): an operation completes, or a waiting command takes its turn: a SILL command's unit,
an INJ that waits for credits, a re-arm, a LNCH.W that waits for an entry, a system call that the root's service answers. DEDUCED: log entry 9. -/
def execDoneCompletion (op : Nat) (s : State) : Out :=
  match s.cmd op with
  | none => .next (s.opCompletion op)
  | some c =>
    match c.kind with
    | .inj tok => .next (s.injTurn c tok)
    | .rearm sec count start => .next (s.rearmTurn c sec count start)
    | .lnch level tok => .next (s.launchTurn c level tok)
    | .sysc n a b =>
      let r := s.service c.core n a b
      .next (r.2.2.finishCmd c r.1 r.2.1)
    | k =>
      match s.op op with
      | some o => if k.isSill then .next (s.sillTurn c o) else .next (s.opCompletion op)
      | none => .next s

end Sys2Proof.Machine
end

