-- ==== Sys2Proof/Machine/Int.lean ====
section
/-! DEFINITION. The scalar integer families IALU, IALU.W, IMUL, IBIT and IMOV (R159 to R164). No integer instruction traps
or sets a flag (R62, R159). -/

namespace Sys2Proof.Machine

/-- An instruction of x[`A`] and the second source: x[`D`] := f a b (R159, R160). -/
def intOp (f : Word → Word → Word) (o : Operands) (s : State) : Out :=
  issue { Use.none with xs := o.a :: secondField o, xd := some o.d } s (fun rd s1 => s1.finishX o (f (rd o.a) (second o rd)))

/-- The same at 32 bits, the result sign-extended (R161). -/
def intOpW (f : BitVec 32 → BitVec 32 → BitVec 32) (o : Operands) (s : State) : Out :=
  intOp (fun a b => (f (a.setWidth 32) (b.setWidth 32)).signExtend 64) o s

/-- An instruction that reads only x[`A`] (R159, R163). -/
def intOp1 (f : Word → Word) (o : Operands) (s : State) : Out :=
  issue { Use.none with xs := [o.a], xd := some o.d } s (fun rd s1 => s1.finishX o (f (rd o.a)))

/-- An instruction that also reads x[`D`]: r := f x[D] x[A] b (R163, R164). -/
def intOp3 (f : Word → Word → Word → Word) (o : Operands) (s : State) : Out :=
  issue { Use.none with xs := o.d :: o.a :: secondField o, xd := some o.d } s
    (fun rd s1 => s1.finishX o (f (rd o.d) (rd o.a) (second o rd)))

/-- 1 where a relation holds and 0 where it does not (R160). -/
def boolWord {w : Nat} (b : Bool) : BitVec w := if b then 1 else 0

/-- ROT: rotate right (R160). -/
def rotr {w : Nat} (a : BitVec w) (n : Nat) : BitVec w := (a >>> n) ||| (a <<< (w - n))

/-! ### IALU (R160) -/

/-- ADD (R160). -/
def execAdd (o : Operands) (s : State) : Out := intOp (fun a b => a + b) o s
/-- SUB (R160). -/
def execSub (o : Operands) (s : State) : Out := intOp (fun a b => a - b) o s
/-- AND (R160). -/
def execAnd (o : Operands) (s : State) : Out := intOp (fun a b => a &&& b) o s
/-- OR (R160). -/
def execOr (o : Operands) (s : State) : Out := intOp (fun a b => a ||| b) o s
/-- XOR (R160). -/
def execXor (o : Operands) (s : State) : Out := intOp (fun a b => a ^^^ b) o s
/-- ANDN (R160). -/
def execAndn (o : Operands) (s : State) : Out := intOp (fun a b => a &&& ~~~b) o s
/-- SHL (R160). -/
def execShl (o : Operands) (s : State) : Out := intOp (fun a b => a <<< (b.toNat % 64)) o s
/-- SHR (R160). -/
def execShr (o : Operands) (s : State) : Out := intOp (fun a b => a >>> (b.toNat % 64)) o s
/-- SHA (R160). -/
def execSha (o : Operands) (s : State) : Out := intOp (fun a b => a.sshiftRight (b.toNat % 64)) o s
/-- ROT (R160). -/
def execRot (o : Operands) (s : State) : Out := intOp (fun a b => rotr a (b.toNat % 64)) o s
/-- MIN (R160). -/
def execMin (o : Operands) (s : State) : Out := intOp (fun a b => if a.slt b then a else b) o s
/-- MAX (R160). -/
def execMax (o : Operands) (s : State) : Out := intOp (fun a b => if a.slt b then b else a) o s
/-- MINZ (R160). -/
def execMinz (o : Operands) (s : State) : Out := intOp (fun a b => if a.ult b then a else b) o s
/-- MAXZ (R160). -/
def execMaxz (o : Operands) (s : State) : Out := intOp (fun a b => if a.ult b then b else a) o s
/-- SLT (R160). -/
def execSlt (o : Operands) (s : State) : Out := intOp (fun a b => boolWord (a.slt b)) o s
/-- SLTZ (R160). -/
def execSltz (o : Operands) (s : State) : Out := intOp (fun a b => boolWord (a.ult b)) o s
/-- SEQ (R160). -/
def execSeq (o : Operands) (s : State) : Out := intOp (fun a b => boolWord (a == b)) o s
/-- SNE (R160). -/
def execSne (o : Operands) (s : State) : Out := intOp (fun a b => boolWord (a != b)) o s

/-! ### IALU.W (R161) -/

/-- ADD.W (R161). -/
def execAddW (o : Operands) (s : State) : Out := intOpW (fun a b => a + b) o s
/-- SUB.W (R161). -/
def execSubW (o : Operands) (s : State) : Out := intOpW (fun a b => a - b) o s
/-- AND.W (R161). -/
def execAndW (o : Operands) (s : State) : Out := intOpW (fun a b => a &&& b) o s
/-- OR.W (R161). -/
def execOrW (o : Operands) (s : State) : Out := intOpW (fun a b => a ||| b) o s
/-- XOR.W (R161). -/
def execXorW (o : Operands) (s : State) : Out := intOpW (fun a b => a ^^^ b) o s
/-- ANDN.W (R161). -/
def execAndnW (o : Operands) (s : State) : Out := intOpW (fun a b => a &&& ~~~b) o s
/-- SHL.W (R161). -/
def execShlW (o : Operands) (s : State) : Out := intOpW (fun a b => a <<< (b.toNat % 32)) o s
/-- SHR.W (R161). -/
def execShrW (o : Operands) (s : State) : Out := intOpW (fun a b => a >>> (b.toNat % 32)) o s
/-- SHA.W (R161). -/
def execShaW (o : Operands) (s : State) : Out := intOpW (fun a b => a.sshiftRight (b.toNat % 32)) o s
/-- ROT.W (R161). -/
def execRotW (o : Operands) (s : State) : Out := intOpW (fun a b => rotr a (b.toNat % 32)) o s
/-- MIN.W (R161). -/
def execMinW (o : Operands) (s : State) : Out := intOpW (fun a b => if a.slt b then a else b) o s
/-- MAX.W (R161). -/
def execMaxW (o : Operands) (s : State) : Out := intOpW (fun a b => if a.slt b then b else a) o s
/-- MINZ.W (R161). -/
def execMinzW (o : Operands) (s : State) : Out := intOpW (fun a b => if a.ult b then a else b) o s
/-- MAXZ.W (R161). -/
def execMaxzW (o : Operands) (s : State) : Out := intOpW (fun a b => if a.ult b then b else a) o s
/-- SLT.W (R161). -/
def execSltW (o : Operands) (s : State) : Out := intOpW (fun a b => boolWord (a.slt b)) o s
/-- SLTZ.W (R161). -/
def execSltzW (o : Operands) (s : State) : Out := intOpW (fun a b => boolWord (a.ult b)) o s
/-- SEQ.W (R161). -/
def execSeqW (o : Operands) (s : State) : Out := intOpW (fun a b => boolWord (a == b)) o s
/-- SNE.W (R161). -/
def execSneW (o : Operands) (s : State) : Out := intOpW (fun a b => boolWord (a != b)) o s

/-! ### IMUL (R162) -/

/-- The high word of a 128-bit product of two integers. -/
def highWord (p : Int) : Word := BitVec.ofInt 64 (p / 2 ^ 64)

/-- The signed quotient, truncating towards zero, with the two special cases of R162. -/
def divSigned (a b : Word) : Word :=
  if b = 0 then BitVec.allOnes 64
  else if a = BitVec.ofNat 64 (2 ^ 63) && b = BitVec.allOnes 64 then a
  else BitVec.ofInt 64 (a.toInt.tdiv b.toInt)

/-- The remainder of the signed division, which takes the sign of a (R162). -/
def remSigned (a b : Word) : Word :=
  if b = 0 then a
  else if a = BitVec.ofNat 64 (2 ^ 63) && b = BitVec.allOnes 64 then 0
  else BitVec.ofInt 64 (a.toInt.tmod b.toInt)

/-- The unsigned quotient (R162). -/
def divUnsigned (a b : Word) : Word := if b = 0 then BitVec.allOnes 64 else BitVec.ofNat 64 (a.toNat / b.toNat)

/-- The unsigned remainder (R162). -/
def remUnsigned (a b : Word) : Word := if b = 0 then a else BitVec.ofNat 64 (a.toNat % b.toNat)

/-- MUL (R162). -/
def execMul (o : Operands) (s : State) : Out := intOp (fun a b => a * b) o s
/-- MULH (R162). -/
def execMulh (o : Operands) (s : State) : Out := intOp (fun a b => highWord (a.toInt * b.toInt)) o s
/-- MULHZ (R162). -/
def execMulhz (o : Operands) (s : State) : Out := intOp (fun a b => highWord (a.toNat * b.toNat : Nat)) o s
/-- DIV (R162). -/
def execDiv (o : Operands) (s : State) : Out := intOp (fun a b => divSigned a b) o s
/-- DIVZ (R162). -/
def execDivz (o : Operands) (s : State) : Out := intOp (fun a b => divUnsigned a b) o s
/-- REM (R162). -/
def execRem (o : Operands) (s : State) : Out := intOp (fun a b => remSigned a b) o s
/-- REMZ (R162). -/
def execRemz (o : Operands) (s : State) : Out := intOp (fun a b => remUnsigned a b) o s

/-! ### IBIT (R163) -/

/-- The number of leading zero bits, 64 for zero. -/
def clzWord (a : Word) : Nat := (findUp (fun i => a.getLsbD (63 - i)) 64).getD 64
/-- The number of trailing zero bits, 64 for zero. -/
def ctzWord (a : Word) : Nat := (findUp (fun i => a.getLsbD i) 64).getD 64
/-- The number of one bits. -/
def popCount (a : Word) : Nat := (upTo 64).countP (fun i => a.getLsbD i)
/-- The bits in the reverse order. -/
def reverseBits (a : Word) : Word := foldUp (fun i r => if a.getLsbD (63 - i) then r ||| (1 : Word) <<< i else r) 64 0
/-- The bytes in the reverse order. -/
def reverseBytes (a : Word) : Word :=
  foldUp (fun i r => r ||| (((a >>> (56 - 8 * i)) &&& 0xFF) <<< (8 * i))) 8 0

/-- EXT (R163): the field descriptor gives position, width and sign. -/
def extractField (a b : Word) : Word :=
  let p := bitsAt b.toNat 5 0
  let w := bitsAt b.toNat 12 6
  let keep := min w (64 - p)
  let f := (a.toNat >>> p) % 2 ^ keep
  if b.getLsbD 13 && 0 < w && w ≤ 64 - p && f.testBit (w - 1) then BitVec.ofNat 64 (2 ^ 64 - 2 ^ w + f)
  else BitVec.ofNat 64 f

/-- DEP (R163). -/
def depositField (d a b : Word) : Word :=
  let p := bitsAt b.toNat 5 0
  let m : Word := BitVec.ofNat 64 ((2 ^ min (bitsAt b.toNat 12 6) 64 - 1) <<< p)
  (d &&& ~~~m) ||| ((a <<< p) &&& m)

/-- CLZ (R163). -/
def execClz (o : Operands) (s : State) : Out := intOp1 (fun a => BitVec.ofNat 64 (clzWord a)) o s
/-- CTZ (R163). -/
def execCtz (o : Operands) (s : State) : Out := intOp1 (fun a => BitVec.ofNat 64 (ctzWord a)) o s
/-- POP (R163). -/
def execPop (o : Operands) (s : State) : Out := intOp1 (fun a => BitVec.ofNat 64 (popCount a)) o s
/-- BREV (R163). -/
def execBrev (o : Operands) (s : State) : Out := intOp1 (fun a => reverseBits a) o s
/-- BSWAP (R163). -/
def execBswap (o : Operands) (s : State) : Out := intOp1 (fun a => reverseBytes a) o s
/-- EXT (R163). -/
def execExt (o : Operands) (s : State) : Out := intOp extractField o s
/-- DEP (R163). -/
def execDep (o : Operands) (s : State) : Out := intOp3 depositField o s

/-! ### IMOV (R164) -/

/-- MOV (R164). -/
def execMov (o : Operands) (s : State) : Out := intOp1 (fun a => a) o s
/-- LI (R164): reads only the second source. -/
def execLi (o : Operands) (s : State) : Out :=
  issue { Use.none with xs := secondField o, xd := some o.d } s (fun rd s1 => s1.finishX o (second o rd))
/-- SEL (R164). -/
def execSel (o : Operands) (s : State) : Out := intOp3 (fun d a b => if d != 0 then a else b) o s
/-- SELZ (R164). -/
def execSelz (o : Operands) (s : State) : Out := intOp3 (fun d a b => if d == 0 then a else b) o s

end Sys2Proof.Machine
end

