-- ==== Sys2Proof/Machine/Place.lean ====
section
/-! DEFINITION. The placement engine (R417 to R434): swap instants, the exchange of two tiles' occupants, the transom, and the
PLACE instructions. -/

namespace Sys2Proof.Machine

/-! ### Eligibility (R419, R420, R425) -/

/-- The physical tiles of a region's rectangle. -/
def Region.rectangle (r : Region) : List Nat := (upTo r.tileCount).map r.homeSite

/-- The logical tile that stands on a physical tile (R423). -/
def Region.logical (r : Region) (t : Nat) : Option Nat := findUp (fun l => r.phys l == t) r.tileCount

/-- Is a physical tile the first of a pair of a phase (R419)? -/
def firstOfPair (phase t : Nat) : Bool :=
  match phase with
  | 0 => t % 32 % 2 == 0 && t % 32 + 1 < 32
  | 1 => t % 32 % 2 == 1 && t % 32 + 1 < 32
  | 2 => t / 32 % 2 == 0
  | _ => t / 32 % 2 == 1

/-- The pairs of a phase inside a region's rectangle (R419). -/
def Region.pairs (r : Region) (phase : Nat) : List (Nat × Nat) :=
  let other := fun t => if phase < 2 then t + 1 else t + 32
  ((r.rectangle.filter (fun t => firstOfPair phase t && r.rectangle.contains (other t))).map (fun t => (t, other t)))

/-- The movable state of a context, in bytes (R425). -/
def State.movable (s : State) (c : TileCtx) : Nat :=
  let r := s.region c.region
  let openAreas := (r.colours.filter (fun k => k.2.state == 1 || k.2.state == 2)).length
  4096 + 2048 * c.luts.length + 32 * (c.store.length + (c.ready.map (fun x => x.toks.countP (fun k => k.stored))).sum) +
    128 * c.sumped.length + 128 * (c.sumps.filter (fun x => x.2.2 != 0)).length + openAreas * roundUp c.lsize 64 + 64

/-- Does a nearest-neighbour edge of the region keep the two logical tiles where they are (R420, condition 4)? -/
def State.neighbourBound (s : State) (n a b : Nat) : Bool :=
  let r := s.region n
  (upTo r.tileCount).any (fun l => ((s.tctx (r.phys l) r.ctx).edges.any (fun e =>
    let d := edgeDstT e.2
    edgeDepth e.2 != 0 && edgeNN e.2 && (l == a || l == b || d == a || d == b) && !((l == a && d == b) || (l == b && d == a)))))

/-- Conditions 3, 5 (in part), 6 and 8 of R420 for a tile that would move to another. -/
def State.tileMovable (s : State) (n t other : Nat) : Bool :=
  let r := s.region n
  let c := s.tctx t r.ctx
  (s.tile t).ctxs.all (fun x => x.1 == r.ctx || x.2.state == .empty) && s.movable c ≤ 262144 && (!c.row0 || inRow0 other)

/-- Is the region in a state in which a swap may start (R313, R420, condition 1)? -/
def State.mayPlace (s : State) (n : Nat) : Bool :=
  let r := s.region n
  r.state == .armed && !r.preempting && !s.cmds.any (fun c => c.region == n && c.kind == .cfgsw)

/-- Conditions 1, 3 to 6 and 8 of R420 for the pair of two physical tiles. -/
def State.pairFits (s : State) (n a b : Nat) : Bool :=
  let r := s.region n
  match r.logical a, r.logical b with
  | some la, some lb =>
    s.mayPlace n && s.tileMovable n a b && s.tileMovable n b a && !s.neighbourBound n la lb &&
      (s.tctx a r.ctx).dsum + (s.tctx b r.ctx).dsum ≤ 16384
  | _, _ => false

/-- Is a swap in progress on a tile, or does an SWPX wait for it? -/
def State.inSwap (s : State) (t : Nat) (waiting : Bool) : Bool :=
  s.swaps.any (fun w => (w.lo == t || w.hi == t) && (waiting || w.step != .waiting))

/-- Is a pair eligible at an instant (R420)? -/
def State.eligible (s : State) (n : Nat) (p : Nat × Nat) : Bool :=
  s.pairFits n p.1 p.2 && [p.1, p.2].all (fun t => !(s.tile t).fenced && (s.tctx t (s.region n).ctx).cooldown = 0 && !s.inSwap t true)

/-! ### The instant (R421, R422) -/

/-- The distance of two tiles on the grid. -/
def gridDist (a b : Nat) : Nat := (max (a / 32) (b / 32) - min (a / 32) (b / 32)) + (max (a % 32) (b % 32) - min (a % 32) (b % 32))

/-- The cost of a tile's traffic from a site (R421). -/
def Region.cost (r : Region) (tab : List Traffic) (partner site : Nat) : Nat :=
  ((tab.filter (fun e => e.peer != partner)).map (fun e => e.cnt * gridDist site (r.phys e.peer))).sum

/-- The gain of a pair (R421). -/
def State.swapGain (s : State) (n a b la lb : Nat) : Int :=
  let r := s.region n
  let ta := (s.tile a).traffic
  let tb := (s.tile b).traffic
  ((r.cost ta lb a + r.cost tb la b : Nat) : Int) - ((r.cost ta lb b + r.cost tb la a : Nat) : Int)

/-- The swaps that an instant chooses, with their gains. -/
def State.chosen (s : State) (n : Nat) : List (Nat × Nat × Nat × Nat × Int) :=
  let r := s.region n
  ((r.pairs r.policy.phase).filter (s.eligible n)).filterMap (fun p =>
    match r.logical p.1, r.logical p.2 with
    | some la, some lb =>
      let g := s.swapGain n p.1 p.2 la lb
      if ((max r.policy.thr 1 : Nat) : Int) ≤ g then some (p.1, p.2, la, lb, g) else none
    | _, _ => none)

/-- Begin step 1 of a swap: both tiles enter cooldown (R422, R423, R433). -/
def State.beginSwap (s : State) (n a b la lb : Nat) (g : Int) (began : Nat) (cmd : Option Nat) : State :=
  let w : Swap := { id := s.serial, region := n, lo := a, hi := b, la := la, lb := lb, step := .boundary, began := began,
                    start := s.cycle, gain := g, cmd := cmd, holds := [] }
  let cool := fun (st : State) (t : Nat) => st.modCtx t (s.region n).ctx (fun x => { x with cooldown := (s.region n).policy.cool })
  cool (cool { s.bump with swaps := s.swaps ++ [w] } a) b

/-- Halve a table: entries whose count becomes 0 are gone (R422). -/
def halveTable (tab : List Traffic) : List Traffic :=
  (tab.map (fun e => { e with cnt := e.cnt / 2 })).filter (fun e => e.cnt != 0)

/-- SWAP_INSTANT (R419 to R422): the instant's pairs are judged on the tables as they stand, the tables are halved, the region's
cooldowns count the instant, whether its contexts are active or not, and the chosen swaps begin together. -/
def execSwapInstant (region : Nat) (s : State) : Out :=
  let r := s.region region
  let p := r.policy
  if r.state == .unloaded || !p.enabled || s.cycle < p.clock + 2 ^ p.ivl then .next s
  else
    let go := s.chosen region
    let s1 := r.sites.foldl (fun st t =>
      let live := (st.tctx t r.ctx).live
      (st.modTile t (fun x => { x with traffic := if live then halveTable x.traffic else x.traffic })).modCtx t r.ctx (fun c =>
        { c with cooldown := c.cooldown - 1 })) s
    let s2 := s1.modRegion region (fun r => { r with policy :=
      { r.policy with clock := p.clock + 2 ^ p.ivl, phase := (p.phase + 1) % 4 } })
    .next (go.foldl (fun st x => st.beginSwap region x.1 x.2.1 x.2.2.1 x.2.2.2.1 x.2.2.2.2 s.cycle none) s2)

/-! ### Steps 1 to 3 (R423 to R425) -/

/-- The parties of a physical tile but for its firing slots: the slots of a context, the stream unit, the fetch unit and the
copy engine (R39). -/
def tileParties (t ctx : Nat) : List Nat := (upTo 24).map (slotParty t ctx) ++ [portParty t, fetchParty t, 5000 + t]

/-- Is a tile at a firing boundary (R424)? Sweeps, kills and edge changes are whole steps of the model. DEDUCED: log entry
38. -/
def State.atBoundary (s : State) (t : Nat) : Bool :=
  (upTo 4).all (fun j => (s.core (256 + 4 * t + j)).run == .empty) &&
    (s.tile t).ctxs.all (fun c => c.2.saved.isEmpty && c.2.gens.isEmpty && c.2.outs.isEmpty && c.2.bank.owner == .none &&
      c.2.bank.queue.isEmpty) &&
    !s.z.ops.any (fun o => o.tile == some t || (upTo 4).any (fun c => (tileParties t c).contains o.party) ||
      (256 + 4 * t ≤ o.party && o.party < 260 + 4 * t)) &&
    !s.copies.any (fun c => isActor c.core && tileOf c.core == t)

/-- Find a swap. -/
def State.swap (s : State) (id : Nat) : Option Swap := s.swaps.find? (fun w => w.id == id)
/-- Change a swap. -/
def State.modSwap (s : State) (id : Nat) (f : Swap → Swap) : State :=
  { s with swaps := s.swaps.map (fun w => if w.id == id then f w else w) }

/-- The partner of a logical tile in a direction (R433): the two physical tiles and their occupants. DEDUCED: log entry
36. -/
def Region.partner (r : Region) (l dir : Nat) : Option (Nat × Nat × Nat × Nat) :=
  let t := r.phys l
  let u : Option Nat := match dir with
    | 0 => if t % 32 = 31 then none else some (t + 1)
    | 1 => if t % 32 = 0 then none else some (t - 1)
    | 2 => some (t + 32)
    | _ => if t < 32 then none else some (t - 32)
  match u with
  | none => none
  | some u =>
    if !r.rectangle.contains u then none
    else (r.logical u).map (fun m => if t < u then (t, u, l, m) else (u, t, m, l))

/-- The SWPXs that wait begin once no swap is in progress on either of their tiles (R433); the conditions of R420 are checked again, on
the partner of that moment, as is the region's state. -/
def State.startWaiting (s : State) : State :=
  (s.swaps.filter (fun w => w.step == .waiting)).foldl (fun st w =>
    match w.cmd.bind st.cmd with
    | none => st
    | some c =>
      match c.kind with
      | .swpx l dir =>
        let s1 := { st with swaps := st.swaps.filter (fun x => x.id != w.id) }
        (match (st.region w.region).partner l dir with
          | none => State.finishCmd s1 c 0x33 0
          | some (a, b, la, lb) =>
            if st.inSwap a false || st.inSwap b false then st
            else if (st.region w.region).state != .armed then State.finishCmd s1 c 0x21 0
            else if !st.pairFits w.region a b then State.finishCmd s1 c 0x33 0
            else State.beginSwap s1 w.region a b la lb 0 w.began (some c.id))
      | _ => st) s

/-- SWAP_BOUNDARY_REACHED (R423, R424): both tiles are at a firing boundary before step 1's limit of 8,192 cycles, and the transfer
begins. -/
def execSwapBoundaryReached (swap : Nat) (s : State) : Out :=
  match s.swap swap with
  | none => .next s
  | some w =>
    if w.step == .boundary && s.cycle < w.start + 8192 && s.atBoundary w.lo && s.atBoundary w.hi then
      .next (s.modSwap swap (fun w => { w with step := .transfer }))
    else .next s

/-- SWAP_BOUNDARY_TIMEOUT (R423): after 8,192 cycles in step 1 the swap is abandoned. -/
def execSwapBoundaryTimeout (swap : Nat) (s : State) : Out :=
  match s.swap swap with
  | none => .next s
  | some w =>
    if w.step == .boundary && w.start + 8192 ≤ s.cycle then .next ((s.abandonSwap w).startWaiting) else .next s

/-- Copy bytes with their poison from one tile's local memory to another's. -/
def moveLocal (src dst : Tile) (base n : Nat) : Tile :=
  let inside := fun (l : Nat × Nat) => base ≤ 64 * l.1 && 64 * l.1 < base + n
  { dst with
    loc := Memory.writeN dst.loc base n (Memory.readN src.loc base n)
    locPoison := (src.locPoison.filter inside).foldl (fun q l => AMap.put q l.1 l.2) (dst.locPoison.filter (fun l => !inside l)) }

/-- Move what a context keeps in local memory (R425): the persistent-state areas of its colours, its sump records, and the
template, which every tile of the region holds at the same offset of the context's block. -/
def State.moveBlock (s : State) (c : TileCtx) (src dst : Tile) : Tile :=
  let r := s.region c.region
  let areas := (c.areas.filter (fun a => (r.colour a.1).state != 0)).map (fun a => (a.2, roundUp c.lsize 64))
  let sumps := (c.sumps.filter (fun a => c.sumped.any (fun e => e.colour == a.1))).map (fun a => (a.2.1, 128 * a.2.2))
  ((c.templateBase, c.lsize) :: areas ++ sumps).foldl (fun d x => moveLocal src d x.1 x.2) dst

/-- Insert a held token in arrival order. -/
def insertHeld (h : Held) : List Held → List Held
  | [] => [h]
  | x :: xs => if h.seq ≤ x.seq then h :: x :: xs else x :: insertHeld h xs

/-- The tokens that a departing occupant's buffers hold, as late flights in arrival order (R426). -/
def State.lateBuffers (s : State) (id : Nat) (c : TileCtx) : List Flight :=
  let hs := (c.buffers.flatMap Prod.snd).foldr insertHeld []
  hs.filterMap (fun h => h.src.map (fun e =>
    { region := c.region, gen := (s.region c.region).gen, src := e.1, edge := e.2, tok := h.tok, late := some id, arrived := true }))

/-- Exchange the clocks of two tiles' parties: the occupants' parties move with them (R428). -/
def swapClocks (a b : List Nat) (m : AMap Clock) : AMap Clock :=
  (a.zip b).foldl (fun q p => AMap.put (AMap.put q p.1 (AMap.get [] m p.2)) p.2 (AMap.get [] m p.1)) m

/-- The alias table with a logical tile on a physical tile. -/
def Region.place (r : Region) (l t : Nat) : Region :=
  { r with moved := if r.homeSite l = t then AMap.erase r.moved l else AMap.put r.moved l t }

/-- The logical tile to which a flight goes. -/
def State.flightDest (s : State) (f : Flight) : Nat :=
  let r := s.region f.region
  edgeDstT ((s.tctx (r.phys f.src) r.ctx).edge f.edge)

/-- The flip (R423, R425, R426): the occupants change places, their buffered tokens and those on their way become late. -/
def State.flipSwap (s : State) (w : Swap) : State :=
  let r := s.region w.region
  let k := r.ctx
  let ta := s.tile w.lo
  let tb := s.tile w.hi
  let a := s.tctx w.lo k
  let b := s.tctx w.hi k
  let occupy := fun (site from_ : Tile) (c old : TileCtx) =>
    { (s.moveBlock c from_ site) with
      ctxs := AMap.put site.ctxs k { c with buffers := [], bank := old.bank }
      traffic := from_.traffic }
  let late := fun (f : Flight) => f.region == w.region && f.late.isNone && (s.flightDest f == w.la || s.flightDest f == w.lb)
  let flights := s.lateBuffers w.id a ++ s.lateBuffers w.id b ++
    s.flights.map (fun f => if late f then { f with late := some w.id } else f)
  let s1 := (s.setTile w.hi (occupy tb ta a b)).setTile w.lo (occupy ta tb b a)
  let s2 := (({ s1 with flights := flights }).modRegion w.region (fun g => (g.place w.la w.hi).place w.lb w.lo)).logSwap w 0
  let ex := swapClocks (tileParties w.lo k) (tileParties w.hi k)
  { s2 with z := { s2.z with clocks := ex s2.z.clocks, doneClocks := ex s2.z.doneClocks } }

/-- SWAP_FLIP (R423, R425, R426): steps 2 and 3 end, and the transoms open. -/
def execSwapFlip (swap : Nat) (s : State) : Out :=
  match s.swap swap with
  | none => .next s
  | some w =>
    if w.step != .transfer then .next s
    else .next ((s.flipSwap w).modSwap swap (fun w => { w with step := .transom, holds := [w.la, w.lb] }))

/-! ### The transom (R426) -/

/-- TRANSOM_FORWARD (R426): an old site forwards a token: the oldest of those that have reached it, or one that reaches it
now, where none waits there. -/
def execTransomForward (swap src edge colour : Nat) (s : State) : Out :=
  match s.swap swap with
  | none => .next s
  | some w =>
    let mine := fun (f : Flight) => f.late == some swap && f.region == w.region && f.src == src && f.edge == edge &&
      tagColour f.tok.tag == colour
    match s.flights.find? mine with
    | none => .next s
    | some f =>
      let l := s.flightDest f
      let head := s.flights.find? (fun g => g.late == some swap && g.arrived && s.flightDest g == l)
      if w.step != .transom || !(head == none || head == some f) then .next s
      else
        let s1 := State.landToken { s with flights := dropFirst mine s.flights } f
        let as := [(w.region, src, edge, colour)]
        .next (([0, 3, 1, 2].foldl (fun st m => st.meetAll as m) s1).tick (if f.tok.wide then 2 else 1))

/-- TRANSOM_CLOSE (R426, R433): every token for a logical tile has been forwarded; its drain tokens let the direct arrivals in.
With both transoms closed the swap is over. -/
def execTransomClose (swap tile : Nat) (s : State) : Out :=
  match s.swap swap with
  | none => .next s
  | some w =>
    if w.step != .transom || !w.holds.contains tile || s.flights.any (fun f => f.late == some swap && s.flightDest f == tile) then .next s
    else
      let rest := w.holds.filter (fun l => l != tile)
      if rest.isEmpty then
        .next ((State.endSwpx { s with swaps := s.swaps.filter (fun x => x.id != swap) } w 0).startWaiting)
      else .next (s.modSwap swap (fun w => { w with holds := rest }))

/-! ### The PLACE instructions (R429 to R434) -/

/-- The fault of a record of slot data memory that PLACE or SEC uses: any address but a multiple of 64 inside it gives 0x04
(R429, R471). -/
def State.recordFault (s : State) (a : Word) (n : Nat) (read : Bool) : Option Exc :=
  if a.toNat % 64 != 0 then some (excLocal 0x04 0x02 a.toNat) else s.localFault s.cur a n 64 read

/-- An entry of TCRD's record (R430). -/
def trafficEntry (e : Traffic) : Nat := e.cnt % 2 ^ 16 + e.peer % 2 ^ 10 * 2 ^ 32 + 2 ^ 63

/-- The traffic table of a tile for a region: the table is that of the region whose context is active there (R417, R418).
DEDUCED: log entry 81. -/
def State.trafficOf (s : State) (n t : Nat) : List Traffic :=
  if (s.tctx t (s.region n).ctx).live then (s.tile t).traffic else []

/-- TCRD (R430). -/
def execTcrd (o : Operands) (s : State) : Out :=
  fabric o [o.b] false s (fun sel rd s1 =>
    match s1.recordFault (rd o.b) 64 false with
    | some e => s1.raise e
    | none =>
      let r := s1.region (selReg sel)
      if s1.foreign (selReg sel) then s1.answer o 0x20 0
      else if r.state = .unloaded then s1.answer o 0x21 0
      else if r.tileCount ≤ selTile sel then s1.answer o 0x29 0
      else
        let t := r.phys (selTile sel)
        let rec_ := ofBytes ((rankSort (s1.trafficOf (selReg sel) t)).flatMap (fun e => bytesOf 8 (trafficEntry e)))
        (s1.localWrite s1.cur (rd o.b).toNat 64 rec_ false).answer o 0
          (t + min (s1.tctx t r.ctx).cooldown 15 * 2 ^ 16 + (s1.inSwap t false).toNat * 2 ^ 20))

/-- SWPOL (R431). -/
def execSwpol (o : Operands) (s : State) : Out :=
  onRegion o [o.b] false s (fun sel rd s1 =>
    let w := (rd o.b).toNat
    let ivl := bitsAt w 4 0
    if bitsAt w 63 32 != 0 || bitsAt w 15 12 != 0 || bitsAt w 7 5 != 0 || ivl < 12 || 24 < ivl then s1.answer o 0x29 0
    else
      (s1.modRegion (selReg sel) (fun r => { r with policy :=
        { r.policy with
          thr := bitsAt w 31 16
          cool := bitsAt w 11 8
          ivl := ivl
          clock := if r.policy.enabled then s1.cycle else r.policy.clock
          phase := if r.policy.enabled then 0 else r.policy.phase } })).answer o 0 0)

/-- Clear the traffic tables of a region (R418). -/
def State.clearTraffic (s : State) (n : Nat) : State :=
  let r := s.region n
  r.sites.foldl (fun st t => if (st.tctx t r.ctx).live then st.modTile t (fun x => { x with traffic := [] }) else st) s

/-- SWPEN (R418, R432). -/
def swpenForms (o : Operands) (s : State) : Out :=
  onRegion o [] (1 < o.imm.toNat) s (fun sel _ s1 =>
    let n := selReg sel
    let on := (s1.region n).policy.enabled
    if o.imm.getLsbD 0 == on then s1.answer o 0 0
    else if on then ((s1.clearTraffic n).modRegion n (fun r => { r with policy := { r.policy with enabled := false } })).answer o 0 0
    else (s1.modRegion n (fun r => { r with policy := { r.policy with enabled := true, clock := s1.cycle, phase := 0 } })).answer o 0 0)

/-- SWPEN with en = 1 (R432). -/
def execSwpenEnable (o : Operands) (s : State) : Out := swpenForms o s
/-- SWPEN with en = 0 (R432). -/
def execSwpenDisable (o : Operands) (s : State) : Out := swpenForms o s

/-- SWPX (R433). -/
def execSwpx (o : Operands) (s : State) : Out :=
  onRegion o [o.b] false s (fun sel rd s1 =>
    let n := selReg sel
    let r := s1.region n
    let l := selTile sel
    let dir := (rd o.b).toNat
    if 3 < dir || r.tileCount ≤ l then s1.answer o 0x29 0
    else if r.state != .armed then s1.answer o 0x21 0
    else match r.partner l dir with
      | none => s1.answer o 0x33 0
      | some (a, b, la, lb) =>
        if !s1.pairFits n a b then s1.answer o 0x33 0
        else
          let id := s1.z.nextId
          let w : Swap := { id := s1.serial, region := n, lo := a, hi := b, la := la, lb := lb, step := .waiting, began := s1.cycle,
                            start := s1.cycle, gain := 0, cmd := some id, holds := [] }
          let s2 := s1.holdCmd o sel (.swpx l dir)
          .next (State.startWaiting { s2.bump with swaps := s2.swaps ++ [w] }))

/-- A record of SWPLG's block (R434). -/
def swapLogWord (x : SwapLog) : Nat :=
  x.cyc % 2 ^ 16 + x.kind % 4 * 2 ^ 16 + x.pha % 2 ^ 10 * 2 ^ 18 + x.ltb % 2 ^ 10 * 2 ^ 28 + x.lta % 2 ^ 10 * 2 ^ 38 + x.gain % 2 ^ 16 * 2 ^ 48

/-- SWPLG (R434). -/
def execSwplg (o : Operands) (s : State) : Out :=
  fabric o [o.b] false s (fun sel rd s1 =>
    match s1.recordFault (rd o.b) 64 false with
    | some e => s1.raise e
    | none =>
      let n := selReg sel
      if s1.foreign n then s1.answer o 0x20 0
      else if (s1.region n).state = .unloaded then s1.answer o 0x21 0
      else
        let g := AMap.get { recs := [], lost := 0 } s1.rings n
        let out := g.recs.take 7
        let block := ofBytes (bytesOf 8 (out.length + g.lost * 2 ^ 8) ++ out.flatMap (fun x => bytesOf 8 (swapLogWord x)))
        let s2 := s1.localWrite s1.cur (rd o.b).toNat 64 block false
        State.answer { s2 with rings := AMap.put s2.rings n { recs := g.recs.drop 7, lost := 0 } } o 0 out.length)

end Sys2Proof.Machine
end

