-- ==== Sys2Proof/Machine/Sha.lean ====
section
/-! DEFINITION. SHA-512 (FIPS 180-4) and the verification of an RSASSA-PSS signature (RFC 8017, sections 8.1.2 and 9.1.2), as
R452 names them. -/

namespace Sys2Proof.Machine

/-! ### SHA-512 -/

/-- The greatest root r of at most `bits` bits with r ^ k at most x, found bit by bit. -/
def rootBits (k x : Nat) : Nat → Nat → Nat
  | 0, r => r
  | b + 1, r => if (r + 2 ^ b) ^ k ≤ x then rootBits k x b (r + 2 ^ b) else rootBits k x b r

/-- The first 80 primes. -/
def shaPrimes : List Nat := (List.range 410).filter (fun p => 2 ≤ p && (List.range p).all (fun d => d < 2 || p % d != 0))

/-- The round constants: 64 bits of the fractions of the primes' cube roots. -/
def shaK : List Word := shaPrimes.map (fun p => BitVec.ofNat 64 (rootBits 3 (p * 2 ^ 192) 67 0))

/-- The initial hash value: 64 bits of the fractions of the first eight primes' square roots. -/
def shaStart : List Word := (shaPrimes.take 8).map (fun p => BitVec.ofNat 64 (rootBits 2 (p * 2 ^ 128) 67 0))

/-- One more word of the message schedule; the words are held newest first. -/
def shaNext (ws : List Word) : Word :=
  let at_ := fun (k : Nat) => ws.getD k 0
  let a := at_ 1
  let b := at_ 14
  (a.rotateRight 19 ^^^ a.rotateRight 61 ^^^ a >>> 6) + at_ 6 + (b.rotateRight 1 ^^^ b.rotateRight 8 ^^^ b >>> 7) + at_ 15

/-- The message schedule, newest word first. -/
def shaSchedule : Nat → List Word → List Word
  | 0, ws => ws
  | n + 1, ws => shaSchedule n (shaNext ws :: ws)

/-- One round over the eight working words. -/
def shaRound (v : List Word) (kw : Word) : List Word :=
  match v with
  | [a, b, c, d, e, f, g, h] =>
    let t1 := h + (e.rotateRight 14 ^^^ e.rotateRight 18 ^^^ e.rotateRight 41) + ((e &&& f) ^^^ (~~~e &&& g)) + kw
    let t2 := (a.rotateRight 28 ^^^ a.rotateRight 34 ^^^ a.rotateRight 39) + ((a &&& b) ^^^ (a &&& c) ^^^ (b &&& c))
    [t1 + t2, a, b, c, d + t1, e, f, g]
  | _ => v

/-- The compression of one block of 16 words. -/
def shaBlock (v block : List Word) : List Word :=
  let ws := (shaSchedule 64 block.reverse).reverse
  List.zipWith (· + ·) v ((List.zipWith (· + ·) shaK ws).foldl shaRound v)

/-- A big-endian number of bytes. -/
def beValue (bs : List Byte) : Nat := bs.foldl (fun n b => n * 256 + b.toNat) 0

/-- A number as `n` big-endian bytes. -/
def beBytes : Nat → Nat → List Byte
  | 0, _ => []
  | n + 1, v => BitVec.ofNat 8 (v / 256 ^ n) :: beBytes n v

/-- The padding of a message of `len` bytes. -/
def shaPad (len : Nat) : List Byte :=
  (0x80 : Byte) :: List.replicate ((239 - len % 128) % 128) 0 ++ beBytes 16 (8 * len)

/-- Hash a padded message, block by block. -/
def shaBlocks : Nat → List Byte → List Word → List Word
  | 0, _, v => v
  | n + 1, bs, v =>
    shaBlocks n (bs.drop 128) (shaBlock v ((List.range 16).map (fun i => BitVec.ofNat 64 (beValue ((bs.drop (8 * i)).take 8)))))

/-- SHA-512 of a message, as 64 bytes. -/
def sha512 (msg : List Byte) : List Byte :=
  let m := msg ++ shaPad msg.length
  (shaBlocks (m.length / 128) m shaStart).flatMap (fun w => beBytes 8 w.toNat)

/-! ### RSASSA-PSS with SHA-512, a 4,096-bit modulus and a 64-byte salt -/

/-- x to the power 65,537, modulo n: 16 squarings and a product. -/
def powF4 (x n : Nat) : Nat := (foldUpTo (fun y => y * y % n) 16 (x % n)) * x % n
where
  /-- Repeat a function. -/
  foldUpTo (f : Nat → Nat) : Nat → Nat → Nat
    | 0, a => a
    | k + 1, a => foldUpTo f k (f a)

/-- MGF1 with SHA-512: the first `n` bytes of the mask. -/
def mgf1 (seed : List Byte) (n : Nat) : List Byte :=
  ((List.range ((n + 63) / 64)).flatMap (fun c => sha512 (seed ++ beBytes 4 c))).take n

/-- The check of an encoded message of 512 bytes against a message's hash: its last byte, its top bit, the padding, and the
hash over the salt. -/
def pssConsistent (mHash em : List Byte) : Bool :=
  let masked := em.take 447
  let h := (em.drop 447).take 64
  let db := match List.zipWith (· ^^^ ·) masked (mgf1 h 447) with
    | [] => []
    | b :: rest => (b &&& 0x7F) :: rest
  let salt := db.drop 383
  em.getLast? == some 0xBC && (masked.headD 0).toNat < 128 && db.take 382 == List.replicate 382 0 && db.getD 382 0 == 1 &&
    sha512 (List.replicate 8 0 ++ mHash ++ salt) == h

/-- Is the signature of a message valid under a modulus? -/
def pssValid (modulus : Nat) (msg : List Byte) (signature : Nat) : Bool :=
  signature < modulus && pssConsistent (sha512 msg) (beBytes 512 (powF4 signature modulus))

/-- The number that bytes make, least significant first (R4). -/
def leValue : List Byte → Nat
  | [] => 0
  | b :: rest => b.toNat + 256 * leValue rest

/-- A field of `n` bytes at an offset of a file (R4). -/
def fileField (f : List Byte) (off n : Nat) : Nat := leValue ((f.drop off).take n)

/-- The identifier of a key (R452): the first 32 bytes of SHA-512 over its modulus. -/
def keyId (modulus : Nat) : List Byte := (sha512 (beBytes 512 modulus)).take 32

end Sys2Proof.Machine
end

