-- ==== Sys2Proof/Machine/Sreg.lean ====
section
/-! DEFINITION. The system registers (R146, R183 to R185, R317 to R319, R323, R405, R470), RDSR and WRSR, and the steps of the
registers that do more than hold a value: the fence, the network control register and the registers whose reading clears. -/

namespace Sys2Proof.Machine

/-! ### Which registers an engine reaches (R183) -/

/-- Is the number assigned, on some engine? -/
def sregAssigned (n : Nat) : Bool :=
  n < 4 || (0x100 ≤ n && n ≤ 0x107) || (0x200 ≤ n && n ≤ 0x202) || (0x210 ≤ n && n ≤ 0x213) || (0x220 ≤ n && n ≤ 0x22F)

/-- Does the number lie in the access range of an engine? -/
def sregInRange (e : Engine) (n : Nat) : Bool :=
  match e with
  | .actor => n < 0x100
  | .gallery => 0x100 ≤ n && n < 0x200
  | .root => 0x100 ≤ n && n < 0x400

/-- The fault of an access (R183): none where the engine reaches the register. -/
def sregFault (e : Engine) (n : Nat) : Option Exc :=
  if 0x3FF < n then some excOperand
  else if !sregInRange e n || (e = .gallery && n = 0x104) then some excEngine
  else if !sregAssigned n then some excOperand
  else none

/-! ### Values (R146, R184, R185, R317, R319, R323, R405) -/

/-- `FINFO` (R184). -/
def State.finfo (s : State) (p : Nat) : Nat :=
  (s.core p).firing.bnd % 8 + slotOf p * 2 ^ 8 + (s.core p).firing.ctx % 4 * 2 ^ 10 + (s.firingCtx p).ltile % 1024 * 2 ^ 16

/-- `TCAUSE` (R185). -/
def TrapRegs.cause (t : TrapRegs) : Nat := t.code.toNat + t.act.toNat * 2 ^ 8

/-- `MERRST` (R146). -/
def Root.merrst (r : Root) : Nat := r.merrHead % 256 + r.merrOvf.toNat * 2 ^ 8 + r.merrUe * 2 ^ 32 + r.merrCe * 2 ^ 48

/-- `NETCTL` (R317). -/
def Root.netctl (r : Root) : Nat := r.netWmin + r.netWmax * 2 ^ 8 + r.netThr * 2 ^ 16 + r.netMode.toNat * 2 ^ 24

/-- `SILLST` (R405). -/
def SillSt.value (k : SillSt) : Nat := k.eok.toNat + k.efail.toNat * 2 + k.efc * 2 ^ 16 + k.spec * 2 ^ 32

/-- `TFMAPj` (R319): bit i is set when tile 64j + i is fenced. -/
def State.tfmap (s : State) (j : Nat) : Nat := ((upTo 64).map (fun i => (s.tile (64 * j + i)).fenced.toNat * 2 ^ i)).sum

/-- The base in bits 51:12 of a register (R127, R146, R470). -/
def baseBits (w : Nat) : Nat := bitsAt w 51 12 * 2 ^ 12

/-- The value of a system register of a core. -/
def State.sreg (s : State) (p n : Nat) : Nat :=
  let c := s.core p
  match n with
  | 0x000 => c.firing.fflags.toNat
  | 0x001 => s.fcyc p
  | 0x002 => c.firing.tag.toNat
  | 0x003 => s.finfo p
  | 0x100 => c.trap.tvec.toNat
  | 0x101 => c.trap.tepc.toNat
  | 0x102 => c.trap.cause
  | 0x103 => c.trap.tval.toNat
  | 0x104 => c.trap.tgal.toNat
  | 0x105 => c.ldepth.toNat
  | 0x106 => c.inbox.length
  | 0x107 => (s.gal (s.galleryOf p)).sillst.value
  | 0x200 => s.root.tctxb
  | 0x201 => s.root.merrb
  | 0x202 => s.root.merrst
  | 0x210 => s.root.netctl
  | 0x212 => s.root.gdrop
  | 0x213 => s.root.bmdb
  | _ => if 0x220 ≤ n && n ≤ 0x22F then s.tfmap (n - 0x220) else 0

/-! ### Registers whose reading clears, or whose writing does more -/

/-- A read of `MERRST` clears both counts; the records so far count as read (R146). DEDUCED: log entry 40. -/
def State.readMerrst (s : State) : State := { s with root := { s.root with merrCe := 0, merrUe := 0, merrHeld := 0 } }

/-- A read of `GDROP` clears it (R319). -/
def State.readGdrop (s : State) : State := { s with root := { s.root with gdrop := 0 } }

/-- A read of a gallery's `SILLST` clears its two counts (R405). -/
def State.readSillst (s : State) (g : Nat) : State :=
  s.modGal g (fun k => { k with sillst := { k.sillst with spec := 0, efc := 0 } })

/-- The state after a read of a system register (R7). -/
def State.afterRead (s : State) (p n : Nat) : State :=
  match n with
  | 0x107 => s.readSillst (s.galleryOf p)
  | 0x202 => s.readMerrst
  | 0x212 => s.readGdrop
  | _ => s

/-- `MERRST.OVF` is cleared (R146). -/
def State.clearOvf (s : State) : State := { s with root := { s.root with merrOvf := false } }

/-- `SILLST.EFAIL` is cleared (R405). -/
def State.clearEfail (s : State) (g : Nat) : State := s.modGal g (fun k => { k with sillst := { k.sillst with efail := false } })

/-- A write of `NETCTL`, ignored as a whole if the least window is 0 or above the greatest (R317); each tile's window is brought into the
new range (R315). DEDUCED: log entry 84. -/
def State.writeNetctl (s : State) (v : Nat) : State :=
  let lo := bitsAt v 7 0
  let hi := bitsAt v 15 8
  if lo = 0 || hi < lo then s
  else { s with
    root := { s.root with netMode := v.testBit 24, netThr := bitsAt v 23 16, netWmax := hi, netWmin := lo }
    tiles := s.tiles.map (fun t => (t.1, { t.2 with win := max lo (min hi t.2.win) })) }

/-- The regions that hold a context on a tile. -/
def State.regionsOn (s : State) (t : Nat) : List Nat :=
  (s.regions.filter (fun r => r.2.state != .unloaded && r.2.sites.contains t)).map Prod.fst

/-- Fence a tile (R34, R318, R494): the regions with a context on it end, its bit of the map is set, and the host is told.
DEDUCED: log entry 41. -/
def State.fence (s : State) (t : Nat) (selfTest : Bool) : State :=
  let s1 := (s.regionsOn t).foldl (fun st n => st.unloadRegion n true true) s
  (s1.modTile t (fun x => { x with fenced := true })).postEvent 16 4 (t % 1024 + selfTest.toNat * 2 ^ 16)

/-- Write a system register of a core (R183): a write to a read-only register or field changes nothing. -/
def State.writeSreg (s : State) (p n : Nat) (w : Word) : State :=
  let v := w.toNat
  match n with
  | 0x000 => s.modCore p (fun c => { c with firing := { c.firing with fflags := BitVec.ofNat 5 v } })
  | 0x100 => s.modCore p (fun c => { c with trap := { c.trap with tvec := w, tvecSet := true } })
  | 0x101 => s.modCore p (fun c => { c with trap := { c.trap with tepc := w } })
  | 0x102 => s.modCore p (fun c => { c with trap := { c.trap with code := BitVec.ofNat 8 v, act := v.testBit 8 } })
  | 0x103 => s.modCore p (fun c => { c with trap := { c.trap with tval := w } })
  | 0x104 => s.modCore p (fun c => { c with trap := { c.trap with tgal := BitVec.ofNat 4 v } })
  | 0x105 => if 1 ≤ v % 8 && v % 8 ≤ 4 then s.modCore p (fun c => { c with ldepth := BitVec.ofNat 3 v }) else s
  | 0x107 => if v.testBit 1 then s.clearEfail (s.galleryOf p) else s
  | 0x200 => { s with root := { s.root with tctxb := baseBits v } }
  | 0x201 => { s with root := { s.root with merrb := baseBits v } }
  | 0x202 => if v.testBit 8 then s.clearOvf else s
  | 0x210 => s.writeNetctl v
  | 0x211 => s.fence (v % 1024) false
  | 0x213 => { s with root := { s.root with bmdb := baseBits v } }
  | _ => s

/-! ### RDSR and WRSR (R183) -/

/-- The register's number, `IMM16`[11:0]. -/
def sregNum (o : Operands) : Nat := o.imm.toNat % 4096

/-- RDSR (R183). -/
def execRdsr (o : Operands) (s : State) : Out :=
  let n := sregNum o
  issue { Use.none with xd := some o.d, bad := sregFault (engineOf s.cur) n } s (fun _ s1 =>
    (s1.afterRead s1.cur n).finishX o (BitVec.ofNat 64 (s1.sreg s1.cur n)))

/-- WRSR (R183). -/
def execWrsr (o : Operands) (s : State) : Out :=
  let n := sregNum o
  issue { Use.none with xs := [o.a], bad := sregFault (engineOf s.cur) n } s (fun rd s1 =>
    .next ((s1.writeSreg s1.cur n (rd o.a)).retire o.form))

/-! ### The registers' own steps, as the root firmware takes them (R146, R317 to R319, R405) -/

/-- TFENCE (R318): the root fences a tile. -/
def execTfence (tile : Nat) (s : State) : Out := .next (s.fence (tile % 1024) false)
/-- NETCTL_WRITE (R317). -/
def execNetctlWrite (value : Word) (s : State) : Out := .next (s.writeNetctl value.toNat)
/-- MERRST_READ (R146). -/
def execMerrstRead (s : State) : Out := .next s.readMerrst
/-- MERRST_OVF_CLEAR (R146). -/
def execMerrstOvfClear (s : State) : Out := .next s.clearOvf
/-- GDROP_READ (R319). -/
def execGdropRead (s : State) : Out := .next s.readGdrop
/-- SILLST_READ (R405), on a gallery's sill. -/
def execSillstRead (gallery : Nat) (s : State) : Out := .next (if gallery < 16 then s.readSillst gallery else s)
/-- SILLST_EFAIL_CLEAR (R405), on a gallery's sill. -/
def execSillstEfailClear (gallery : Nat) (s : State) : Out := .next (if gallery < 16 then s.clearEfail gallery else s)

/-! ### Entropy sources (R405, R494) -/

/-- ENTROPY_HEALTH_FAILURE (R405, R494): source 0 to 15 is that gallery's sill, 16 the root's own; test 0 repetition count, 1
adaptive proportion, 2 start-up. -/
def execEntropyHealthFailure (source test : Nat) (s : State) : Out :=
  if 16 < source || 2 < test then .next s
  else
    let s1 := s.modGal source (fun k =>
      { k with sillst := { k.sillst with efc := min (k.sillst.efc + 1) 0xFFFF, efail := true, eok := false } })
    .next (s1.postEvent source 8 (source + test * 2 ^ 8))

/-- ENTROPY_STARTUP_PASS (R405): the source has passed its start-up tests. -/
def execEntropyStartupPass (source : Nat) (s : State) : Out :=
  if 16 < source then .next s
  else .next (s.modGal source (fun k => { k with sillst := { k.sillst with eok := true } }))

end Sys2Proof.Machine
end

