-- ==== Sys2Proof/Machine/Sec.lean ====
section
/-! DEFINITION. Key slots, tenant interfaces and their reports: the SEC family (R134, R471 to R474, R479) and the interface's
way into ERROR. -/

namespace Sys2Proof.Machine

/-- Legal on the root sequencer only (R21). -/
def Use.onRoot : Use := { Use.none with actor := false, gallery := false }

/-- Issue a SEC instruction (R471). -/
def sec (o : Operands) (s : State) (k : Word → Word → State → Out) : Out :=
  issue { Use.onRoot with xs := [o.a, o.b], c := o.c, t := o.t } s (fun rd s1 => k (rd o.a) (rd o.b) s1)

/-! ### Key slots (R134, R471) -/

/-- A key slot's number that KEYLD and KEYZ accept. -/
def keySlotOk (a : Word) : Bool := a != 0 && a.toNat < 4096

/-- KEYLD (R471). -/
def execKeyld (o : Operands) (s : State) : Out :=
  sec o s (fun a b s1 =>
    match s1.recordFault b 64 true with
    | some e => s1.raise e
    | none =>
      if !keySlotOk a then s1.answer o 0x29 0
      else if AMap.has s1.root.keys a.toNat then s1.answer o 0x50 0
      else
        let k := s1.localRead s1.cur b.toNat 64
        { s1 with root := { s1.root with keys := AMap.put s1.root.keys a.toNat k } }.answer o 0 0)

/-- Does a lease name a key slot: its row word's, or one of its extents' (R134)? -/
def Lease.names (l : Lease) (slot : Nat) : Bool := l.key == slot || l.extents.any (fun e => e.2.key == slot)

/-- Revoke every lease that names a key slot (R134). -/
def State.revoke (s : State) (slot : Nat) : State :=
  { s with ls := { s.ls with leases := s.ls.leases.map (fun l => if l.names slot then { l with revoked := true } else l) } }

/-- Does an admitted instance hold a revoked lease that names the slot (R134, R471)? -/
def State.keyInUse (s : State) (slot : Nat) : Bool := s.ls.leases.any (fun l => l.revoked && l.names slot && s.leaseInUse l.num)

/-- Zeroise a key slot. -/
def State.zeroiseKey (s : State) (slot : Nat) : State := { s with root := { s.root with keys := AMap.erase s.root.keys slot } }

/-- No core: a command that the part itself carries on. -/
def noCore : Nat := 255

/-- The effect of KEYZ on a key slot, with no slot waiting for it (R473): the zeroise waits for the revoked leases'
instances, and with none it is at once. DEDUCED: log entry 43. -/
def State.keyzEffect (s : State) (slot : Nat) : State :=
  if slot = 0 || !AMap.has s.root.keys slot then s
  else
    let s1 := s.revoke slot
    if !s1.keyInUse slot then s1.zeroiseKey slot else
    let c : Cmd := { id := s1.z.nextId, core := noCore, gal := 0, pc := 0, next := 0, done := 0, region := 0, ctx := 0, colour := 0, gen := 0,
                     kind := .keyz slot }
    { s1 with z := { s1.z with nextId := s1.z.nextId + 1 }, cmds := s1.cmds ++ [c] }

/-- KEYZ (R471): the leases are revoked at once; the slot is zeroised when their instances have ended, at once where there are none. -/
def execKeyz (o : Operands) (s : State) : Out :=
  issue { Use.onRoot with xs := [o.a], c := o.c, t := o.t } s (fun rd s1 =>
    let a := rd o.a
    if !keySlotOk a then s1.answer o 0x29 0
    else if !AMap.has s1.root.keys a.toNat then s1.answer o 0 0
    else
      let s2 := s1.revoke a.toNat
      if s2.keyInUse a.toNat then .next (s2.holdCmd o 0 (.keyz a.toNat)) else (s2.zeroiseKey a.toNat).answer o 0 0)

/-- KEYZ_ZEROISE (R471): no admitted instance holds a revoked lease that names the slot; the slot becomes empty. -/
def execKeyzZeroise (cmd : Nat) (s : State) : Out :=
  match s.cmd cmd with
  | none => .next s
  | some c =>
    match c.kind with
    | .keyz slot =>
      if s.keyInUse slot then .next s else .next ((s.zeroiseKey slot).finishCmd c 0 0)
    | _ => .next s

/-! ### Interfaces (R472 to R474, R478, R479) -/

/-- An interface. -/
def State.iface (s : State) (i : Nat) : Iface := AMap.get Iface.reset s.host.ifaces i
/-- Change an interface. -/
def State.modIface (s : State) (i : Nat) (f : Iface → Iface) : State :=
  { s with host := { s.host with ifaces := AMap.put s.host.ifaces i (f (s.iface i)) } }

/-- The interface enters ERROR at a write to control-space offset `off` (R473, R478): the effect of KEYZ on its key slot, and
an event. -/
def State.ifError (s : State) (i off : Nat) : State :=
  ((s.modIface i (fun k => { k with st := 3 })).keyzEffect (ifKey (s.iface i))).postEvent 16 7 (i % 64 + off % 2 ^ 24 * 2 ^ 64)

/-- The lock nonce: 32 bytes from the root's entropy source, a free value (R473; log entry 2). -/
def State.lockNonce (s : State) : Nat × State := let (v, s1) := s.freeVec; (v.toNat % 2 ^ 256, s1)

/-- IFST operation 0 (R473, R479): its status and the state after. -/
def State.ifLock (s : State) (i : Nat) : Nat × State :=
  if (s.iface i).st != 0 then (0x51, s)
  else if !(s.gal 16).sillst.eok then (0x30, s)
  else
    let (v, s1) := s.lockNonce
    (0, s1.modIface i (fun k => { k with st := 1, nonce := v }))

/-- IFST operation 1 (R473): the bound colour is open with the frozen context and key. -/
def State.ifRun (s : State) (i : Nat) : Nat × State :=
  let k := s.iface i
  let c := (s.region (ifRegion k)).colour (ifColour k)
  if k.st != 1 then (0x51, s)
  else if c.state = 1 && c.tctx = ifTctx k && c.key = ifKey k then (0, s.modIface i (fun x => { x with st := 2 }))
  else (0x53, s)

/-- IFST operation 2 (R473): from RUN with the effect of KEYZ. -/
def State.ifStop (s : State) (i : Nat) : Nat × State :=
  let s1 := if (s.iface i).st = 2 then s.keyzEffect (ifKey (s.iface i)) else s
  (0, s1.modIface i (fun x => { x with st := 0 }))

/-- IFST (R471, R473): the interface in x[`A`], the operation in x[`B`]. -/
def ifst (o : Operands) (s : State) : Out :=
  sec o s (fun a b s1 =>
    if 63 < a.toNat || 2 < b.toNat then s1.answer o 0x29 0
    else
      let r := match b.toNat with
        | 0 => s1.ifLock a.toNat
        | 1 => s1.ifRun a.toNat
        | _ => s1.ifStop a.toNat
      r.2.answer o r.1 0)

/-- IFST with operation 0 (R473). -/
def execIfstLock (o : Operands) (s : State) : Out := ifst o s
/-- IFST with operation 1 (R473). -/
def execIfstRun (o : Operands) (s : State) : Out := ifst o s
/-- IFST with operation 2 (R473). -/
def execIfstStop (o : Operands) (s : State) : Out := ifst o s

/-- The SHA-512 digest of the running root firmware (R469, R474). -/
def State.firmwareDigest (s : State) : Nat := leValue (sha512 (Config.firmware s.root.boots))

/-- The report of an interface, 256 bytes (R474), with the firmware's digest. -/
def Iface.report (k : Iface) (i fw : Nat) : Nat :=
  1 + i % 64 * 2 ^ 16 + k.st % 4 * 2 ^ 24 + k.cb.toNat * 2 ^ 64 + k.ext.toNat * 2 ^ 128 + k.key.toNat * 2 ^ 192 + k.apb.toNat * 2 ^ 256 +
    k.nonce % 2 ^ 256 * 2 ^ 512 + fw % 2 ^ 512 * 2 ^ 768

/-- Write bytes of slot data memory line by line. DEDUCED: log entry 44. -/
def State.localLines (s : State) (p a lines v : Nat) : State :=
  foldUp (fun k st => st.localWrite p (a + 64 * k) 64 ((v >>> (512 * k)) % 2 ^ 512) false) lines s

/-- IFRPT (R471, R474, R479). -/
def execIfrpt (o : Operands) (s : State) : Out :=
  sec o s (fun a b s1 =>
    match s1.recordFault b 256 false with
    | some e => s1.raise e
    | none =>
      if 63 < a.toNat then s1.answer o 0x29 0
      else
        let k := s1.iface a.toNat
        if k.st = 0 || k.st = 3 then s1.answer o 0x52 0
        else (s1.localLines s1.cur b.toNat 4 (k.report a.toNat s1.firmwareDigest)).answer o 0 256)

end Sys2Proof.Machine
end

