-- ==== Sys2Proof/Machine/Space.lean ====
section
/-! DEFINITION. The host's control space (R459, R460, R472 to R478, R493): what a control read returns and clears, what a
control write does, and the steps of the registers that do more than hold a value; the event ring (R461). -/

namespace Sys2Proof.Machine

/-! ### Groups and their holders (R459, R460) -/

/-- The group of a control-space offset. -/
def groupOf (off : Nat) : Nat := off / 0x100000

/-- `CTLSEM.OWN` of a group: 0 free, 1 port 0, 2 port 1. -/
def State.holder (s : State) (g : Nat) : Nat := AMap.get 0 s.host.own g

/-- `CTLSEM` as it reads. -/
def State.ctlsem (s : State) : Nat := ((upTo 16).map (fun g => if g = 0 then 0 else s.holder g * 2 ^ (2 * g))).sum

/-- `VIOLADDR` as it reads. -/
def HostSide.violation (h : HostSide) : Nat :=
  h.violAddr % 2 ^ 24 + h.violCnt * 2 ^ 24 + h.violPort * 2 ^ 62 + h.violV.toNat * 2 ^ 63

/-- A write by one control port to a group that the other holds is logged (R460). -/
def State.logViolation (s : State) (port off : Nat) : State :=
  let h := s.host
  let h1 := { h with violCnt := min (h.violCnt + 1) 0xFFFF }
  { s with host := if h.violV then h1 else { h1 with violV := true, violPort := port, violAddr := off } }

/-- A write to `CTLSEM`: free groups of the mask pass to the writer, or the writer's become free (R460). -/
def State.writeCtlsem (s : State) (port v : Nat) : State :=
  let take := v.testBit 0
  let own := (upTo 16).foldl (fun (m : AMap Nat) g =>
    let h := AMap.get 0 m g
    if g = 0 || !v.testBit (16 + g) then m
    else if take && h = 0 then AMap.put m g (port + 1)
    else if !take && h = port + 1 then AMap.erase m g
    else m) s.host.own
  { s with host := { s.host with own := own, semNext := if port = 1 then s.cycle + 1 else s.host.semNext } }

/-! ### The groups' registers -/

/-- A host register's value, of the 64-bit registers of an interface (R472). -/
def Iface.reg (k : Iface) (r : Nat) : Nat :=
  match r with
  | 0 => k.cb.toNat
  | 1 => k.ext.toNat
  | 2 => k.key.toNat
  | 3 => k.apb.toNat
  | 4 => k.st % 4 + k.drop % 2 ^ 32 * 2 ^ 16
  | _ => 0

/-- The bits of a frozen register that are not reserved (R472). -/
def frozenMask (r : Nat) : Nat :=
  match r with
  | 0 => 2 ^ 23 - 1
  | 1 => 2 ^ 28 - 1
  | 2 => 2 ^ 12 - 1
  | _ => 2 ^ 44 - 2 ^ 12

/-- Set a frozen register. -/
def Iface.setReg (k : Iface) (r v : Nat) : Iface :=
  let w := BitVec.ofNat 64 (v &&& frozenMask r)
  match r with
  | 0 => { k with cb := w }
  | 1 => { k with ext := w }
  | 2 => { k with key := w }
  | _ => { k with apb := w }

/-- Half of a peer route (R464), 0 the lower. -/
def routeHalf (e : BitVec 128) (h : Nat) : Nat := (e.toNat >>> (64 * h)) % 2 ^ 64

/-- The bits of a peer route that are not reserved (R464). -/
def routeMask : Nat := 2 ^ 56 - 2 ^ 32 + (2 ^ 22 - 2 ^ 6) + 2

/-- Write half of a peer route. -/
def setRouteHalf (e : BitVec 128) (h v : Nat) : BitVec 128 :=
  BitVec.ofNat 128 ((routeHalf e (1 - h) * 2 ^ (64 * (1 - h)) + v % 2 ^ 64 * 2 ^ (64 * h)) &&& routeMask)

/-- `BOOTST` (R476). -/
def HostSide.bootst (h : HostSide) : Nat := h.bootStep % 8 + h.bootStat % 256 * 2 ^ 8

/-- Is a decoder one of those that R466 describes, in the pool's address space (R122)? -/
def hdmLegal (base size : Nat) (ports : List Nat) (granule : Nat) : Bool :=
  [1, 2, 4, 8].contains ports.length && ports.eraseDups.length = ports.length && ports.all (fun p => p < 24) && [256, 512, 1024, 2048, 4096, 8192, 16384].contains granule &&
    0x1000000000 ≤ base && base + size ≤ 2 ^ 52

/-- The decoders in their order, without those beyond the eight of a port (R466). -/
def eightPerPort (ds : List Hdm) : List Hdm :=
  ds.foldl (fun acc d => if d.ports.all (fun p => acc.countP (fun e => e.ports.contains p) < 8) then acc ++ [d] else acc) []

/-- A write to a CXL configuration register (R459, R466): the decoders and the packages that share the pool follow the
group's registers. DESIGN CHOICE: log entry 26. -/
def State.writeCxl (s : State) (off : Nat) (v : Word) : State :=
  let m := AMap.put s.host.cxl off v
  let hdm := ((Config.decoders m).filter (fun d => hdmLegal d.1 d.2.1 d.2.2.1 d.2.2.2)).map (fun d =>
    { base := d.1, size := d.2.1, ports := d.2.2.1, granule := d.2.2.2 : Hdm })
  { s with host := { s.host with cxl := m, hdm := eightPerPort hdm, peers := (Config.poolPeers m).filter (fun p => p < 8) } }

/-- A write to interface register `r` (R472, R473): `IFSTAT` keeps its value; a frozen register takes the value, sends the
interface to ERROR, or keeps its value. DEDUCED: log entry 60. -/
def State.writeIface (s : State) (i r off v : Nat) : State :=
  if 4 ≤ r then s
  else match (s.iface i).st with
    | 0 => s.modIface i (fun k => k.setReg r v)
    | 3 => s
    | _ => s.ifError i off

/-- The answer to a page fault (R463, R493). -/
def State.ackFault (s : State) (v : Nat) : State :=
  { s with ls := { s.ls with faults := s.ls.faults.map (fun f =>
    if f.num / 2 = v / 2 && f.verdict.isNone then { f with verdict := some (v.testBit 0) } else f) } }

/-! ### Control reads (R457, R460, R472, R476, R477, R493) -/

/-- What a control read returns. DESIGN CHOICE: log entry 45. -/
def State.controlValue (s : State) (off : Nat) : Nat :=
  let h := s.host
  match groupOf off with
  | 0 => if off = 0 then s.ctlsem else if off = 8 then h.violation else 0
  | 1 => if off = 0x100000 then h.bootst else 0
  | 2 => if off = 0x200000 then h.plimW + h.plimEst * 2 ^ 32 else 0
  | 3 => (AMap.get 0 h.cxl off).toNat
  | 4 =>
    if off = 0x400000 then h.evtb else if off = 0x400008 then h.evthead else if off = 0x400010 then h.evttail else 0
  | 5 => if off % 8 = 0 && off < 0x501000 then (s.iface ((off - 0x500000) / 64)).reg (off % 64 / 8) else 0
  | 6 => if off % 8 = 0 && off < 0x601000 then routeHalf (AMap.get 0 h.routes ((off - 0x600000) / 16)) (off % 16 / 8) else 0
  | _ => 0

/-- A control read returns a value and clears the fields that its reading clears (R7). -/
def State.controlRead (s : State) (port off : Nat) : State :=
  let s1 := s.send (.value port (BitVec.ofNat 64 (s.controlValue off)))
  if off = 8 then { s1 with host := { s1.host with violCnt := 0 } }
  else if groupOf off = 5 && off % 64 = 32 && off < 0x501000 then s1.modIface ((off - 0x500000) / 64) (fun k => { k with drop := 0 })
  else s1

/-! ### Control writes (R459, R460, R473, R475 to R478, R493) -/

/-- What a control write that is let through does, by its group. -/
def State.writeGroup (s : State) (port off : Nat) (v : Word) : State :=
  let n := v.toNat
  let h := s.host
  match groupOf off with
  | 0 =>
    if off = 0 then s.writeCtlsem port n
    else if off = 8 && n.testBit 63 then { s with host := { h with violV := false } }
    else s
  | 2 =>
    if off = 0x200000 && 1000 ≤ n % 2 ^ 16 && n % 2 ^ 16 ≤ 8000 then { s with host := { h with plimW := n % 2 ^ 16 } } else s
  | 3 => s.writeCxl off v
  | 4 =>
    if off = 0x400000 then { s with host := { h with evtb := bitsAt n 51 17 * 2 ^ 17 } }
    else if off = 0x400010 && h.evttail ≤ n && n ≤ h.evthead then { s with host := { h with evttail := n } }
    else if off = 0x400018 then s.ackFault n
    else s
  | 5 => if off % 8 = 0 && off < 0x501000 then s.writeIface ((off - 0x500000) / 64) (off % 64 / 8) off n else s
  | 6 =>
    if off % 8 = 0 && off < 0x601000 then
      let e := (off - 0x600000) / 16
      { s with host := { h with routes := AMap.put h.routes e (setRouteHalf (AMap.get 0 h.routes e) (off % 16 / 8) n) } }
    else s
  | _ => s

/-- May the port write at the offset: a group that the other port does not hold, a group that exists, a register other than
`BOOTST` (R459, R460, R476)? -/
def writeAllowed (off : Nat) : Bool := groupOf off < 7 && off != 0x100000

/-- Does the other control port hold the offset's group (R460)? -/
def State.heldByOther (s : State) (port off : Nat) : Bool := groupOf off != 0 && s.holder (groupOf off) = 2 - port

/-- Has control port 1 written `CTLSEM` in this cycle, so that a write of it by port 0 is one of a later cycle (R460)? -/
def State.semTaken (s : State) (port off : Nat) : Bool := port = 0 && off = 0 && s.host.semNext = s.cycle + 1

/-- A control write (R459, R460, R475, R476): its response and its effect. Of two writes of `CTLSEM` in one cycle port 0's is first:
after port 1's, port 0's waits for the next cycle. -/
def State.controlWrite (s : State) (port off : Nat) (v : Word) : State :=
  if s.semTaken port off then s
  else if s.host.bootStep < 5 then s.send (.ack port false)
  else if s.heldByOther port off then (s.logViolation port off).send (.ack port false)
  else if !writeAllowed off then s.send (.ack port false)
  else (s.writeGroup port off v).send (.ack port true)

/-- A message of a control port that exists, once what came before on it has been issued (R458). -/
def onPort (port : Nat) (s : State) (f : State → State) : Out :=
  .next (if port < 2 && s.portIssued port s.z.nextId then f s else s)

/-- CONTROL_READ (R457, R459). -/
def execControlRead (port off : Nat) (s : State) : Out := onPort port s (fun s => s.controlRead port (off % 2 ^ 24))
/-- CONTROL_WRITE (R457 to R460, R478). -/
def execControlWrite (port off : Nat) (value : Word) (s : State) : Out :=
  onPort port s (fun s => s.controlWrite port (off % 2 ^ 24) value)
/-- CTLSEM_ACQUIRE (R460): bit g - 1 of the mask stands for group g. -/
def execCtlsemAcquire (port mask : Nat) (s : State) : Out :=
  onPort port s (fun s => s.controlWrite port 0 (BitVec.ofNat 64 (mask % 2 ^ 15 * 2 ^ 17 + 1)))
/-- CTLSEM_RELEASE (R460). -/
def execCtlsemRelease (port mask : Nat) (s : State) : Out :=
  onPort port s (fun s => s.controlWrite port 0 (BitVec.ofNat 64 (mask % 2 ^ 15 * 2 ^ 17)))
/-- VIOLADDR_CLEAR (R460). -/
def execVioladdrClear (port : Nat) (s : State) : Out :=
  onPort port s (fun s => s.controlWrite port 8 (BitVec.ofNat 64 (2 ^ 63)))
/-- VIOLADDR_READ (R460). -/
def execVioladdrRead (port : Nat) (s : State) : Out := onPort port s (fun s => s.controlRead port 8)
/-- IFSTAT_READ (R472), of one interface. -/
def execIfstatRead (port i : Nat) (s : State) : Out :=
  onPort port s (fun s => s.controlRead port (0x500000 + 64 * (i % 64) + 32))
/-- FROZEN_REGISTER_WRITE (R472, R473): register 0 to 3 of an interface. -/
def execFrozenRegisterWrite (port i r : Nat) (value : Word) (s : State) : Out :=
  onPort port s (fun s => s.controlWrite port (0x500000 + 64 * (i % 64) + 8 * (r % 4)) value)
/-- EVTB_WRITE (R461, R493). -/
def execEvtbWrite (port : Nat) (value : Word) (s : State) : Out := onPort port s (fun s => s.controlWrite port 0x400000 value)
/-- EVTTAIL_WRITE (R493). -/
def execEvttailWrite (port : Nat) (value : Word) (s : State) : Out := onPort port s (fun s => s.controlWrite port 0x400010 value)
/-- EVTACK (R463, R493). -/
def execEvtack (port : Nat) (value : Word) (s : State) : Out := onPort port s (fun s => s.controlWrite port 0x400018 value)

/-! ### The event ring (R461, R493) -/

/-- Is there a ring, and has it room? -/
def HostSide.ringReady (h : HostSide) : Bool := h.evtb != 0 && h.evthead - h.evttail < 4096

/-- An event record's 32 bytes (R461). -/
def EventRec.bytes (e : EventRec) : Nat :=
  e.num % 2 ^ 64 + e.kind % 2 ^ 16 * 2 ^ 64 + e.src % 2 ^ 8 * 2 ^ 80 + e.data % 2 ^ 128 * 2 ^ 128

/-- EVENT_RECORD_WRITE (R461): the oldest record that a source holds goes into the ring, once there is room. -/
def execEventRecordWrite (source : Nat) (s : State) : Out :=
  let h := s.host
  if !h.ringReady then .next s
  else match h.events.find? (fun e => e.src == source) with
    | none => .next s
    | some e =>
      .next { s with host := { h with
        mem := Memory.writeN h.mem (h.evtb + 32 * (h.evthead % 4096)) 32 e.bytes
        evthead := h.evthead + 1
        events := dropFirst (fun x => x.src == source) h.events } }

/-! ### Power (R477) -/

/-- OPERATING_POINT_CHANGE (R477): the package power of a window has been estimated; firmware moves an island one point.
Only gallery islands are lowered. DESIGN CHOICE: log entry 30. -/
def execOperatingPointChange (est island : Nat) (s : State) : Out :=
  let k := AMap.get 0 s.host.points island
  let k1 :=
    if s.host.plimW < est then (if island < 16 then min (k + 1) 7 else k)
    else if est * 100 < 95 * s.host.plimW then k - 1
    else k
  let h := { s.host with plimEst := est % 2 ^ 16 }
  .next { s with host := if island < 20 then { h with points := AMap.put h.points island k1 } else h }

end Sys2Proof.Machine
end

