-- ==== Sys2Proof/Machine/Link.lean ====
section
/-! DEFINITION. The links' messages (R457, R458, R464, R465, R469, R478): host tokens and memory accesses, peer tokens and memory
requests, acknowledgements (R59), flit resends (R246); and reset with bring-up (R475). -/

namespace Sys2Proof.Machine

/-! ### Request tokens (R324, R457, R458, R473) -/

/-- Have the links trained (R475)? Before step 4 of bring-up the host's control ports carry control reads only, and no other link
carries anything. -/
def State.linksUp (s : State) : Bool := 4 ≤ s.host.bootStep

/-- Does a control port hold back its messages: an earlier memory write of it has not completed (R458)? -/
def State.portBusy (s : State) (port : Nat) : Bool := s.z.ops.any (fun o => o.hostPort == some port)

/-- Count a discard in a link's error counter (R457, R465): link p for peer port p, 8 for the host port. -/
def State.countLink (s : State) (link : Nat) : State :=
  { s with host := { s.host with linkErr := AMap.modify 0 s.host.linkErr link (· + 1) } }

/-- Put a token into a slot's inbox (R324): an arrival ends an IDLE (R182). None: the inbox is full. -/
def State.inboxPut (s : State) (p : Nat) (tok : Token) : Option State :=
  if 64 ≤ (s.core p).inbox.length then none
  else some (s.modCore p (fun k =>
    { k with
      inbox := k.inbox ++ [tok]
      run := match k.run with
        | .idle a n next _ => .idle a n next true
        | r => r }))

/-- The core of a destination and a slot, if there is one (R457). -/
def slotCore (dest slot : Nat) : Option Nat :=
  if dest < 16 && slot < 8 then some (8 * dest + slot) else if dest = 16 && slot < 4 then some (128 + slot) else none

/-- A request token reaches a slot: discarded and counted where the slot is not loaded, held by the port where the inbox is full
(R324, R457). -/
def State.deliverToken (s : State) (dest slot : Nat) (tok : Token) : State :=
  match slotCore dest slot with
  | none => s.countLink 8
  | some p => if (s.core p).run = .empty then s.countLink 8 else (s.inboxPut p tok).getD s

/-- Count a dropped token of an interface (R472, R473); the count after its greatest value is a free value (log entry 2). -/
def State.dropToken (s : State) (i : Nat) : State :=
  let d := (s.iface i).drop
  if d + 1 < 2 ^ 32 then s.modIface i (fun k => { k with drop := d + 1 })
  else
    let (v, s1) := s.freeWord
    s1.modIface i (fun k => { k with drop := v.toNat % 2 ^ 32 })

/-- `IFCB.SLOT` and `IFCB.GAL`. DEDUCED: log entry 46. -/
def Iface.target (k : Iface) : Nat × Nat := (bitsAt k.cb.toNat 22 20, bitsAt k.cb.toNat 19 16)

/-- A request token that names an interface (R473): from its own page and in RUN it goes to the bound slot, with the bound
colour; any other is dropped. -/
def State.ifaceToken (s : State) (i page : Nat) (tag payload : Word) (clock : Clock) : State :=
  let k := s.iface i
  if k.st = 2 && page % 2 ^ 32 = bitsAt k.apb.toNat 43 12 then
    s.deliverToken k.target.2 k.target.1 (narrow (mkTag (ifColour k) (tagCtx tag) (tagNest tag)) 0 payload clock)
  else s.dropToken i

/-- REQUEST_TOKEN (R457, R458, R473, R478): on control port `port`, from host page `page`, to a destination and slot or to an
interface; 0x7F names no interface. -/
def execRequestToken (port page dest slot iface : Nat) (tag payload : Word) (s : State) : Out :=
  if 2 ≤ port || !s.linksUp || s.portBusy port then .next s
  else
    let clock := s.doneClock hostParty
    if iface = 0x7F then .next (s.deliverToken dest slot (narrow tag 0 payload clock))
    else if iface < 64 then .next (s.ifaceToken iface page tag payload clock)
    else .next (s.countLink 8)

/-- UNKNOWN_MESSAGE (R457): discarded and counted. -/
def execUnknownMessage (s : State) : Out := .next (if s.linksUp then s.countLink 8 else s)

/-! ### Memory accesses of the host (R59, R78, R141, R457, R458) -/

/-- A line of a range that lies in no memory (R122). -/
def State.missing (s : State) (pa n : Nat) : Option Nat :=
  ((upTo (n / 64)).find? (fun k => !s.paExists (pa + 64 * k))).map (fun k => pa + 64 * k)

/-- Is the range one that a memory message may carry? -/
def hostRange (pa n : Nat) : Bool := pa % 64 = 0 && n % 64 = 0 && 64 ≤ n && n ≤ 4096 && pa + n ≤ 2 ^ 52

/-- MEMORY_WRITE (R138, R457): whole lines, in plaintext, at system scope; their descriptors stay. -/
def execMemoryWrite (port pa : Nat) (bytes : List Byte) (s : State) : Out :=
  let n := bytes.length
  if 2 ≤ port || !s.linksUp || !hostRange pa n then .next s
  else match s.missing pa n with
    | some a => .fault (.noMemory a)
    | none =>
      let v := leValue bytes
      let reqs := (upTo (n / 8)).map (fun i =>
        { Req.make .write 0 (s.redirect (pa + 8 * i)) 8 ((v >>> (64 * i)) % 2 ^ 64) 0 with whole := true })
      let barred := reqs.any (fun r => s.host.reads.any (fun m => meets m.pa m.size r.pa r.size))
      .next (s.addOp { MemOp.empty hostParty none with
        reqs := reqs, scope := .system, hostPort := some port, barred := barred } hostParty)

/-- Has the host party a write of the range that has not completed (R44, Same location)? -/
def State.hostWriting (s : State) (pa n : Nat) : Bool :=
  s.z.ops.any (fun o => o.party == hostParty && o.reqs.any (fun r => r.writes && r.pa < pa + n && pa < r.pa + r.size))

/-- The host has read lines of a view (R55): the clocks of their last writes merge into the host party's; or, where `State.unseen` is not
0, the read is no arc source in the run being made. DEDUCED: log entry 9. -/
def State.hostReturned (s : State) (lines : List Nat) : State :=
  let v := s.view (domainOf hostParty)
  let c := lines.foldl (fun c a => clockMerge c (v.clockOf a 64)) []
  let s1 := if clockLe c (s.clock hostParty) then s
    else if s.unseen = 0 then s.mergeClock hostParty c
    else { s with host := { s.host with
      reads := lines.map (fun a => { pa := a, size := 64, writes := false }) ++ s.host.reads } }
  s1.mergeDone hostParty (s1.clock hostParty)

/-- MEMORY_READ (R138, R457, R458): the stored bytes, as the view of domain 16 holds them, once what came before on the control port has
been issued and the host's own earlier writes of them have completed. DEDUCED: log entry 47. -/
def execMemoryRead (port pa n : Nat) (s : State) : Out :=
  if 2 ≤ port || !s.linksUp || !hostRange pa n || !s.portIssued port s.z.nextId then .next s
  else match s.missing pa n with
    | some a => .fault (.noMemory a)
    | none =>
      let lines := (upTo (n / 64)).map (fun k => s.redirect (pa + 64 * k))
      if lines.any (fun a => s.hostWriting a 64) then .next s
      else
        let v := s.view (domainOf hostParty)
        .next ((s.hostReturned lines).send (.lines port (lines.flatMap (fun a => leBytes 64 (View.line s.root.keys v 0 (a / 64))))))

/-! ### Acknowledgements (R59) -/

/-- SYSTEM_SCOPE_ACKNOWLEDGE (R59): a peer, by its port, or the host, number 8, acknowledges a write or a fence. -/
def execSystemScopeAcknowledge (id who : Nat) (s : State) : Out :=
  .next ({ s with z := { s.z with
    writes := s.z.writes.map (fun (w : WriteRec) => if w.id == id then { w with acks := w.acks.filter (fun a => a != who) } else w)
    ops := s.z.ops.map (fun (o : MemOp) => if o.id == id then { o with acks := o.acks.filter (fun a => a != who) } else o) } }.dropFinished)

/-! ### Peer ports (R59, R464, R465) -/

/-- A valid incoming route of a peer port for a region and a colour (R464, R465). -/
def State.incoming (s : State) (port region colour : Nat) : Bool :=
  s.host.routes.any (fun r =>
    let e := r.2
    e.getLsbD 1 && !e.getLsbD 32 && bitsAt e.toNat 35 33 == port && bitsAt e.toNat 11 6 == region && bitsAt e.toNat 21 12 == colour)

/-- Has a colour an entry casement: its region is loaded and the colour is open, closing or killed (R334)? -/
def State.hasCasement (s : State) (region colour : Nat) : Bool :=
  (s.region region).state != .unloaded && ((s.region region).colour colour).state != 0

/-- PEER_TOKEN_ARRIVAL (R241, R465): a token that a peer sent for a region and the colour in its tag is injected as INJ would
inject it; without a route, with a reserved control byte or where INJ would refuse it, it is dropped and counted. A reserved control
byte is counted at the colour's entry casement too, where it has one. DEDUCED: log entry 48. -/
def execPeerTokenArrival (port region : Nat) (tag : Word) (ctl : Byte) (wide : Bool) (payload : Vec) (clock : List Nat) (s : State) :
    Out :=
  let colour := tagColour tag
  if 8 ≤ port || !s.linksUp then .next s
  else let s := s.heard port
  if !s.incoming port region colour then .next (s.countLink port)
  else if ctlKind ctl = 3 || ctlMact ctl = 3 then
    let s1 := s.countLink port
    .next (if s.hasCasement region colour then s1.modCasement region colour false (fun g => { g with bad := sat32 (g.bad + 1) }) else s1)
  else if ((s.region region).colour colour).state != 1 then .next (s.countLink port)
  else
    let tok := { injToken colour (s.region region).ctx (ctlMact ctl) wide tag payload.toNat clock with ctl := ctl }
    match s.injection region colour tok with
    | .mismatch => .next (s.countLink port)
    | .full => .next s
    | .ready t ctx e => .next (s.sendOn t ctx e tok)

/-- PEER_MEMORY_REQUEST (R59, R137, R138): a write, or the atomic of function `fn` - 1, on `size` bytes of one aligned 8-byte unit, at
the location's home; the arriving clock merges into the port party's, and the port answers once the request is complete. -/
def execPeerMemoryRequest (port fn pa size data cmp : Nat) (clock : List Nat) (s : State) : Out :=
  if 8 ≤ port || !s.linksUp || size = 0 || 8 < pa % 8 + size || 12 < fn then .next s
  else if !s.paExists pa then .fault (.noMemory pa)
  else
    let s := s.heard port
    let p := peerParty port
    let kind := if fn = 0 then ReqKind.write else ReqKind.atomic
    let s1 := s.mergeClock p clock
    let op := { MemOp.empty p none with
      reqs := [Req.make kind 0 (s1.redirect pa) size (data % 2 ^ (8 * size)) 0], amo := fn - 1, cmp := cmp, sink := .peer port }
    .next ((s1.addOp op p).issueReq s1.z.nextId 0 false)

/-! ### Flit resends (R246) -/

/-- A link's bad flit is counted: its resends in a row, and the link's in all. -/
def HostSide.countResend (h : HostSide) (link num : Nat) : HostSide :=
  let again := match AMap.find h.resends link with
    | some (n, k) => if n = num then k + 1 else 1
    | none => 1
  { h with resends := AMap.put h.resends link (num, again), retries := AMap.modify 0 h.retries link (· + 1) }

/-- CRC_MISMATCH (R246): a bad flit is discarded with every later one from its link, and its resend requested and counted. On a link of
the fabric the sender then sends them again in their order (`State.landOldest`). -/
def execCrcMismatch (link num : Nat) (s : State) : Out :=
  let s1 := { s with host := s.host.countResend link num }
  if link < 64 then .next (s1.send (.resend link num))
  else if s.hasFlit link num then .next { s1 with flights := discardFrom link num s.flights false }
  else .next s

/-- The event source of a link: its peer port, the host port, or the root for a CXL port (R461). DEDUCED: log entry 42. -/
def linkSource (link : Nat) : Nat := if link < 8 then 19 + link else if link = 8 then 27 else 16

/-- A failed link is reported with its resend count, which saturates (R494); a link of the fabric, to which R494 gives no number, as 63.
DESIGN CHOICE: log entry 78. -/
def State.reportLink (s : State) (link : Nat) : State :=
  s.postEvent (linkSource link) 3 (min link 63 + min (AMap.get 0 s.host.retries link) 0xFFFFFFFF * 2 ^ 32)

/-- LINK_FAILED (R246): 64 resends of one flit in a row. -/
def execLinkFailed (link : Nat) (s : State) : Out :=
  match AMap.find s.host.resends link with
  | none => .next s
  | some (_, k) =>
    if k < 64 then .next s
    else .next ({ s with host := { s.host with resends := AMap.erase s.host.resends link } }.reportLink link)

/-! ### Attestation (R469) -/

/-- The value of a measurement (R469). -/
def State.measurement (s : State) (index : Nat) : Nat :=
  match index with
  | 1 => Config.bootRomDigest % 2 ^ 512
  | 2 => s.firmwareDigest
  | _ => ((upTo 4).map (fun k => if s.root.revokedKeys.contains k then 0 else Config.signingKeys.getD k 0 * 2 ^ (4096 * k))).sum

/-- The version and the algorithms that R469 fixes, as SPDM 1.2 codes them: RSASSA-PSS 4096, SHA-512, FFDHE4096, AES-256-GCM. PRESUMED: log
entry 49. -/
def spdmAlgorithms : Nat := 2 ^ 6 + 2 ^ 2 * 2 ^ 32 + 2 ^ 2 * 2 ^ 64 + 2 ^ 1 * 2 ^ 80

/-- The answer to an SPDM message (R469): what the rules give no value for, signatures and key exchange, is the part's own. -/
def State.spdmAnswer (s : State) (message body : Nat) : Nat :=
  match message with
  | 0 => 0x1200
  | 2 => spdmAlgorithms
  | 3 => leValue (sha512 Config.identityChain)
  | 4 => leValue Config.identityChain
  | 6 => if 1 ≤ body && body ≤ 3 then s.measurement body else Config.spdmAnswer message body
  | 9 => (s.iface body).report body s.firmwareDigest
  | _ => Config.spdmAnswer message body

/-- May the interface's report leave (R469, R474): inside a secure session, and of an interface that has one? -/
def State.reportOpen (s : State) (i : Nat) : Bool :=
  s.host.session = 2 && i < 64 && ((s.iface i).st = 1 || (s.iface i).st = 2)

/-- SPDM_REQUEST (R469): message 0 GET_VERSION, 1 GET_CAPABILITIES, 2 NEGOTIATE_ALGORITHMS, 3 GET_DIGESTS, 4 GET_CERTIFICATE, 5 CHALLENGE, 6
GET_MEASUREMENTS (the body is the index), 7 KEY_EXCHANGE, 8 FINISH; 9 asks for an interface's report (the body is its number), which
travels only inside a secure session. PRESUMED: log entry 49. -/
def execSpdmRequest (message body : Nat) (s : State) : Out :=
  let session := if message = 7 then 1 else if message = 8 && s.host.session = 1 then 2 else s.host.session
  if 9 < message || (message = 9 && !s.reportOpen body) then .next s
  else .next ({ s with host := { s.host with session := session } }.send (.spdm message (s.spdmAnswer message body)))

/-! ### Keys and signatures (R452, R468) -/

/-- The image-signing key that an identifier names, if the root holds it (R452, R468). -/
def State.keyNamed (s : State) (id : List Byte) : Option Nat :=
  ((upTo (min 4 Config.signingKeys.length)).find? (fun k =>
    !s.root.revokedKeys.contains k && keyId (Config.signingKeys.getD k 0) == id)).map (fun k => Config.signingKeys.getD k 0)

/-- The identifier that a signature block at `sig` gives (R452). -/
def blockKey (f : List Byte) (sig : Nat) : List Byte := (f.drop (sig + 32)).take 32

/-- Is the block at `sig` of a known version and algorithm (R452)? -/
def blockKnown (f : List Byte) (sig : Nat) : Bool := sig + 640 = f.length && fileField f sig 2 = 1 && fileField f (sig + 2) 2 = 1

/-- The check of a file by the signature block that ends it: 0x43 for an invalid signature, 0x44 for an unknown key (R452, R453, R475). -/
def State.blockStatus (s : State) (f : List Byte) (sig : Nat) : Nat :=
  if !blockKnown f sig then 0x43
  else match s.keyNamed (blockKey f sig) with
    | none => 0x44
    | some n => if pssValid n (f.take sig) (beValue ((f.drop (sig + 64)).take 512)) then 0 else 0x43

/-- The ROM's check of the root firmware (R468, R475). -/
def State.firmwareStatus (s : State) : Nat :=
  let f := Config.firmware s.root.boots
  s.blockStatus f (f.length - 640)

/-! ### Reset and bring-up (R475, R476) -/

/-- The part right after reset, with what reset does not reach: the outside world, the installed keys' revocations, the identity key pair,
which the first power-on generates, and the model's own fields. -/
def State.hardReset (s : State) : State :=
  { State.reset with
    sched := s.sched
    freeCount := s.freeCount
    root := { Root.reset with
      revokedKeys := s.root.revokedKeys, boots := s.root.boots + 1, identity := some (s.root.identity.getD Config.identityKey) }
    host := { HostSide.reset with mem := s.host.mem, sent := s.host.sent } }

/-- Bring-up shows a step and a status (R476). -/
def State.bootAt (s : State) (step status : Nat) : State :=
  { s with host := { s.host with bootStep := step, bootStat := status } }

/-- The end of a step of bring-up (R475): the ROM has measured itself, verified the firmware, which may revoke image-signing keys (R468);
the galleries have tested themselves, the links have trained. -/
def State.bringUp (s : State) (status : Nat) (tiles links revoked : List Nat) : State :=
  match s.host.bootStep with
  | 1 => if status = 0x01 then s.bootAt 1 0x01 else s.bootAt 2 0
  | 2 =>
    if s.firmwareStatus != 0 then s.bootAt 2 s.firmwareStatus
    else { s with root := { s.root with revokedKeys := s.root.revokedKeys ++ revoked } }.bootAt 3 0
  | 3 => (tiles.foldl (fun st t => if t < 1024 then st.fence t true else st) s).bootAt 4 0
  | _ =>
    let s1 := links.foldl (fun st l => if l < 9 || (16 ≤ l && l < 40) then st.reportLink l else st) s
    { s1 with root := { s1.root with netMode := false } }.bootAt 5 0

/-- RESET (R475, R476): while bring-up proceeds the step that it has reached ends, with what it has found: the ROM's failure (0x01), the
failing tiles and links, the keys that the verified firmware revokes; otherwise, or with a status from 0x100 on, the part is reset, and
step 1 begins. DESIGN CHOICE: log entry 50. -/
def execResetPart (status : Nat) (tiles links revoked : List Nat) (s : State) : Out :=
  if status < 0x100 && 1 ≤ s.host.bootStep && s.host.bootStep ≤ 4 && s.host.bootStat = 0 then .next (s.bringUp status tiles links revoked)
  else .next (s.hardReset.bootAt 1 0)

end Sys2Proof.Machine
end

