-- ==== Sys2Proof/Machine/Loader.lean ====
section
/-! DEFINITION. The loader service (R321, R439 to R442, R448, R452 to R454): the checks of a Skeov file in their order, the copy
of its sections, and the loading of its sequencer slots. -/

namespace Sys2Proof.Machine

/-! ### The file (R439 to R442, R448) -/

/-- A section entry (R440). -/
structure SkvSec where
  flags : Nat
  kind : Nat
  link : Nat
  off : Nat
  size : Nat
  vaddr : Nat
  deriving DecidableEq, Repr

/-- Read section entry k. -/
def readSec (f : List Byte) (k : Nat) : SkvSec :=
  let o := fileField f 16 8 + 32 * k
  { kind := fileField f (o + 4) 1, flags := fileField f (o + 5) 1, link := fileField f (o + 6) 2, off := fileField f (o + 8) 8,
    size := fileField f (o + 16) 8, vaddr := fileField f (o + 24) 8 }

/-- The section entries. -/
def skvSecs (f : List Byte) : List SkvSec := (upTo (fileField f 8 2)).map (readSec f)

/-- Is the section loadable (R441)? -/
def SkvSec.loadable (x : SkvSec) : Bool := 1 ≤ x.kind && x.kind ≤ 6
/-- Is it zero-filled, with no file bytes? -/
def SkvSec.zeroed (x : SkvSec) : Bool := x.flags.testBit 2
/-- Its file bytes. -/
def SkvSec.bytes (f : List Byte) (x : SkvSec) : List Byte := if x.zeroed then [] else (f.drop x.off).take x.size

/-- A sequencer program record (R448). -/
structure SeqRec where
  entry : Nat
  code : Nat
  csize : Nat
  gal : Nat
  slot : Nat
  deriving DecidableEq, Repr

/-- The sequencer records of a file. -/
def seqRecs (f : List Byte) : List SeqRec :=
  ((skvSecs f).filter (fun x => x.kind = 7)).flatMap (fun x => (upTo (x.size / 32)).map (fun k =>
    let o := x.off + 32 * k
    { entry := fileField f o 8, code := fileField f (o + 8) 8, csize := fileField f (o + 16) 4, gal := fileField f (o + 20) 1,
      slot := fileField f (o + 21) 1 }))

/-- A descriptor run (R442): its section, first line, count, format and scale. -/
structure DescRun where
  sec : Nat
  first : Nat
  cnt : Nat
  fmt : Nat
  scale : Nat
  deriving DecidableEq, Repr

/-- The descriptor runs of one section of runs, in file order. -/
def descRuns (f : List Byte) (x : SkvSec) : List DescRun :=
  (upTo (x.size / 8)).map (fun k =>
    let w := fileField f (x.off + 8 * k) 8
    { sec := x.link, first := bitsAt w 31 0, cnt := bitsAt w 47 32, fmt := bitsAt w 55 48, scale := bitsAt w 63 56 })

/-- All descriptor runs of a file. -/
def allRuns (f : List Byte) : List DescRun := ((skvSecs f).filter (fun x => x.kind = 11)).flatMap (descRuns f)

/-! ### The checks of R453, in order -/

/-- Do two ranges share no byte? -/
def apart (a n b m : Nat) : Bool := n = 0 || m = 0 || a + n ≤ b || b + m ≤ a

/-- Does no pair of a list of ranges overlap? -/
def allApart : List (Nat × Nat) → Bool
  | [] => true
  | r :: rest => rest.all (fun x => apart r.1 r.2 x.1 x.2) && allApart rest

/-- Check 1: the header agrees with the file. -/
def skvHeaderOk (f : List Byte) : Bool :=
  128 ≤ f.length && fileField f 0 4 = 0x00564B53 && fileField f 4 2 = 1 && fileField f 10 2 = 128 && fileField f 24 8 = f.length

/-- Check 2: an image, not an object. -/
def skvImage (f : List Byte) : Bool := !(fileField f 6 2).testBit 0 && (skvSecs f).all (fun x => x.kind != 10)

/-- Is the file signed? -/
def skvSigned (f : List Byte) : Bool := (fileField f 6 2).testBit 1

/-- Are a section entry's flags, its place in the file and its address what R440 allows? -/
def secPlaced (f : List Byte) (x : SkvSec) : Bool :=
  x.flags < 8 && (if x.zeroed then x.off = 0 else x.off % 64 = 0 && x.off + x.size ≤ f.length) &&
    (if x.loadable then x.vaddr % 64 = 0 else x.vaddr = 0)

/-- Check 3: the section table and the sections; entry 0 alone is of kind 0 (R440, R441). -/
def skvLayoutOk (f : List Byte) : Bool :=
  let secs := skvSecs f
  let table := fileField f 16 8
  let sig := fileField f 32 8
  let held := (secs.filter (fun x => !x.zeroed)).map (fun x => (x.off, x.size))
  1 ≤ secs.length && secs.length ≤ 4096 && table % 64 = 0 && table + 32 * secs.length ≤ f.length && fileField f 6 2 < 4 &&
    fileField f 12 4 = 0 && (f.take 128).drop 48 == List.replicate 80 0 && secs.all (secPlaced f) &&
    (secs.take 1).all (fun x => x.kind = 0) && (secs.drop 1).all (fun x => 1 ≤ x.kind && x.kind ≤ 11) &&
    allApart ([(0, 128), (table, 32 * secs.length)] ++ (if skvSigned f then [(sig, 640)] else []) ++ held)

/-- Checks 4 and 5: 0x43 for the block or the signature, 0x44 for a key that the root does not hold. Of an image from root firmware's own
store check 4 asks nothing, and check 5 what a signed one's block names. DEDUCED: log entry 51. -/
def State.skvSignature (s : State) (f : List Byte) (own : Bool) : Nat :=
  let sig := fileField f 32 8
  if own then (if skvSigned f && (s.keyNamed (blockKey f sig)).isNone then 0x44 else 0)
  else if !(skvSigned f && sig % 64 = 0) then 0x43
  else s.blockStatus f sig

/-- Check 6: the loadable sections' virtual addresses. -/
def skvAddrOk (f : List Byte) : Bool :=
  let l := (skvSecs f).filter SkvSec.loadable
  let base := fileField f 40 8
  allApart (l.map (fun x => (x.vaddr, x.size))) && l.all (fun x => base ≤ x.vaddr) && (l.isEmpty || l.any (fun x => x.vaddr = base))

/-- Do runs ascend without overlap? -/
def runsAscend : List DescRun → Bool
  | a :: b :: rest => a.first + a.cnt ≤ b.first && runsAscend (b :: rest)
  | _ => true

/-- Check 7: the descriptor runs. -/
def skvRunsOk (f : List Byte) : Bool :=
  let secs := skvSecs f
  (secs.filter (fun x => x.kind = 11)).all (fun x =>
    runsAscend (descRuns f x) && (descRuns f x).all (fun r =>
      1 ≤ r.cnt && lineFormat r.fmt != .reserved && (secs[r.sec]?).any (fun t => 64 * (r.first + r.cnt) ≤ roundUp t.size 64)))

/-- The file's place of a virtual address, in a section whose bytes the file holds. -/
def skvPlace (f : List Byte) (va n : Nat) : Option Nat :=
  ((skvSecs f).find? (fun x => x.loadable && !x.zeroed && x.vaddr ≤ va && va + n ≤ x.vaddr + x.size)).map (fun x => x.off + (va - x.vaddr))

/-- Has a bind record's shape record, where the file holds it, a type that is not reserved (R61, R205)? DESIGN CHOICE: log entry 76. -/
def shapeTypeOk (f : List Byte) (va : Nat) : Bool := (skvPlace f va 64).all (fun o => fileField f (o + 8) 1 ≤ 15)

/-- Check 8: the region headers, and the types of the shape records that their bind records name (R61). -/
def skvRegionsOk (f : List Byte) : Bool :=
  ((skvSecs f).filter (fun x => x.kind = 6)).all (fun x =>
    let img : Img := fun o n => fileField f (x.off + o) n
    let h := readHeader img
    headerOk img h && h.size ≤ x.size && (readBinds img h).all (fun b => shapeTypeOk f b.2.2.2))

/-- Check 9 for one record: its gallery and slot, its entry, its code area. `own`: root firmware loads the image. -/
def seqRecOk (f : List Byte) (own : Bool) (r : SeqRec) : Bool :=
  (if r.gal = 0xFF then own && r.slot < 4 else r.gal < 16 && r.slot < 8) && r.csize % 4 = 0 && r.code ≤ r.entry &&
    r.entry < r.code + r.csize && (skvSecs f).any (fun x => x.kind = 2 && x.vaddr ≤ r.code && r.code + r.csize ≤ x.vaddr + x.size)

/-- The core that a record loads. -/
def SeqRec.core (r : SeqRec) : Nat := if r.gal = 0xFF then 128 + r.slot else 8 * r.gal + r.slot

/-- The status of a load request (R453). -/
def State.skvStatus (s : State) (f : List Byte) (own : Bool) : Nat :=
  if !skvHeaderOk f then 0x40
  else if !skvImage f then 0x41
  else if !skvLayoutOk f then 0x42
  else if s.skvSignature f own != 0 then s.skvSignature f own
  else if !skvAddrOk f then 0x45
  else if !skvRunsOk f then 0x46
  else if !skvRegionsOk f then 0x47
  else if !(seqRecs f).all (seqRecOk f own) then 0x48
  else if !(seqRecs f).all (fun r => (s.core r.core).run == .empty) then 0x49
  else 0

/-! ### Loading (R321, R454) -/

/-- The descriptor of line k of section `sec`: the run's that covers it, its scale byte as given (log entry 88), or 0x00, 0x7F (R442). -/
def lineDesc (runs : List DescRun) (sec k : Nat) : Nat × Nat :=
  match runs.find? (fun r => r.sec = sec && r.first ≤ k && k < r.first + r.cnt) with
  | some r => (r.fmt, r.scale)
  | none => (0, 0x7F)

/-- A zero-filled section's line is zero-marked (R140), with its descriptor. -/
def State.zeroLine (s : State) (pa : Nat) (desc : Nat × Nat) : State :=
  s.mapViews (fun v => (v.scrub pa 64).setDescriptor (pa / 64) desc)

/-- The writes of section `k`, whose range begins at physical address `pa` (R442, R454): each aligned unit, with the line's descriptor in the
line's first. -/
def sectionReqs (f : List Byte) (k : Nat) (x : SkvSec) (pa key : Nat) : List Req :=
  (unitPieces pa x.size).map (fun p =>
    { Req.make .write (x.vaddr + p.1) (pa + p.1) p.2 (leValue (((f.drop x.off).drop p.1).take p.2)) key with
      desc := if p.1 % 64 = 0 then some (lineDesc (allRuns f) k (p.1 / 64)) else none
      whole := roundUp (p.1 + 1) 64 ≤ x.size })

/-- The range of a loadable section. -/
def SkvSec.place (x : SkvSec) (img : Extent) : Nat := img.pbase + (x.vaddr - img.vbase)

/-- All writes of step 1 (R454). -/
def loadReqs (f : List Byte) (img : Extent) : List Req :=
  (upTo (skvSecs f).length).flatMap (fun k => ((skvSecs f)[k]?).elim [] (fun x =>
    if x.loadable && !x.zeroed then sectionReqs f k x (x.place img) img.key else []))

/-- The zero-marked lines of step 1 (R454). -/
def State.zeroSections (s : State) (f : List Byte) (img : Extent) : State :=
  foldUp (fun k st => ((skvSecs f)[k]?).elim st (fun x =>
    if x.loadable && x.zeroed then
      foldUp (fun i st => st.zeroLine (x.place img + 64 * i) (lineDesc (allRuns f) k i)) (roundUp x.size 64 / 64) st
    else st)) (skvSecs f).length s

/-- The range from `SKV.BASE` to the end of the highest loadable section (R467). -/
def skvRange (f : List Byte) : Nat × Nat :=
  let l := (skvSecs f).filter SkvSec.loadable
  let base := fileField f 40 8
  (base, (l.map (fun x => roundUp (x.vaddr + x.size) 64 - base)).foldl max 0)

/-- Load a slot (R321, R454, step 2): its registers and data memory are zero, its extent table is empty, its clock is zero. -/
def State.loadSlot (s : State) (img : Extent) (r : SeqRec) : State :=
  (s.setCore r.core { Core.reset with
    run := .running, pc := BitVec.ofNat 64 r.entry, codeBase := r.code, codeSize := r.csize, codeExtent := img
    image := some img }).zeroClock r.core

/-- Where a file's range lies: the frames that the load context maps it to. None while they are not mapped as one range. -/
def State.loadTarget (s : State) (tctx : Nat) (f : List Byte) : Option Extent :=
  let (base, n) := skvRange f
  if n = 0 then some { Extent.none with valid := true }
  else match s.resolvePages tctx (base + n) 0 (n / 65536 + 2) base none with
    | .granted r => some { Extent.none with vbase := base, size := n, pbase := r.base, key := r.key, rd := true, tier := r.tier, valid := true }
    | _ => none

/-- Step 1 of a load begins (R454): the zero-filled sections' lines are marked, and the lease service's writes of the others are issued,
after what its frames hold. DEDUCED: log entry 51. -/
def State.beginSections (s : State) (l : Load) (img : Extent) : State :=
  let reqs := loadReqs l.got img
  let past := reqs.foldl (fun c r => clockMerge c ((s.view 16).clockOf r.pa r.size)) []
  let s1 := (s.zeroSections l.got img).mergeClock leaseParty past
  let id := s1.z.nextId
  let s2 := s1.addOp { MemOp.empty leaseParty none with reqs := reqs } leaseParty
  let s3 := foldUp (fun i st => st.issueReq id i false) reqs.length s2
  { s3 with root := { s3.root with load := some { l with img := some img, op := id } } }

/-- Steps 2 and 3 of a load (R454): each record's slot is loaded. -/
def State.loadSlots (s : State) (f : List Byte) (img : Extent) : State := (seqRecs f).foldl (fun st r => st.loadSlot img r) s

/-- The service replies to the load request, and serves the next. -/
def State.endLoadRequest (s : State) (status : Nat) : State := { s with root := { s.root with load := none } }.send (.loaded status)

/-- The service copies the next aligned 8-byte unit of the file into its own memory (R43, R453). -/
def State.copyFile (s : State) (l : Load) : State :=
  let a := l.pa + l.got.length
  let n := min (8 - a % 8) (l.size - l.got.length)
  let s1 := s.mergeClock leaseParty ((s.view 16).clockOf (s.redirect a) n)
  { s1 with root := { s1.root with load := some { l with got := l.got ++ leBytes n (s.lsRead a n) } } }

/-- The turn of the load request that the service serves (R453, R454): it copies the file; checks its copy; writes the sections; and, once
every write is complete, loads the slots and replies. A load waits while a write to its frames is in flight. DEDUCED: log entry 51. -/
def State.loadTurn (s : State) (l : Load) : State :=
  match l.img with
  | some img => if (s.op l.op).isSome then s else (s.loadSlots l.got img).endLoadRequest 0
  | none =>
    if l.got.length < l.size then s.copyFile l
    else if s.skvStatus l.got l.own != 0 then s.endLoadRequest (s.skvStatus l.got l.own)
    else match s.loadTarget l.tctx l.got with
      | none => s
      | some img => if s.inFlight img.pbase img.size then s else s.beginSections l img

/-- LOADER_SERVICE_LOAD (R321, R453, R454): a load request for the `size` bytes at `pa`, in a translation context, comes to the loader service
of the root firmware, which runs from step 3 of bring-up on (R475), or has its turn; `own` is root firmware's own, from its own store.
Requests are served one after the other. -/
def execLoaderServiceLoad (pa size tctx : Nat) (own : Bool) (s : State) : Out :=
  if s.host.bootStep < 3 then .next s
  else match s.root.load with
    | none => .next { s with root := { s.root with
        load := some { pa := pa, size := size, tctx := tctx, own := own, got := [], img := none, op := 0 } } }
    | some l => .next (if l.pa = pa && l.size = size && l.tctx = tctx && l.own == own then s.loadTurn l else s)

end Sys2Proof.Machine
end

