-- ==== Sys2Proof/Machine/Sfu.lean ====
section
/-! DEFINITION. The special-function unit and the CORDIC unit (R197 to R199). Their results are not fixed to the last
bit: where the spec gives an error bound, the model computes the exact result far beyond that bound and takes one of the
values within it, which one by an unspecified constant of the part (log entry 20). -/

namespace Sys2Proof.Machine

/-- floor(ln 2 * 2^128). -/
def ln2Fix : Nat := 0xb17217f7d1cf79abc9e3b39803f2f6af
/-- floor(pi * 2^400). -/
def piFix : Nat := 0x3243f6a8885a308d313198a2e03707344a4093822299f31d0082efa98ec4e6c89452821e638d01377be5466cf34e90c6cc0ac

/-- e^x for x >= 0, with 128 fraction bits, by its series: n more terms from term number k on. -/
def expSeries (x : Nat) : Nat → Nat → Nat → Nat → Nat
  | 0, _, _, acc => acc
  | n + 1, k, term, acc => let t := term * x / 2 ^ 128 / k; expSeries x n (k + 1) t (acc + t)

/-- e^x with 128 fraction bits, for 0 <= x < 4. -/
def expFix (x : Nat) : Nat := expSeries x 60 1 (2 ^ 128) (2 ^ 128)

/-- The fraction bits of log2 m, for m in [1, 2) with 160 fraction bits, n bits from the top. -/
def log2Bits : Nat → Nat → Nat → Nat
  | 0, _, acc => acc
  | n + 1, m, acc =>
    let q := m * m / 2 ^ 160
    if 2 ^ 161 ≤ q then log2Bits n (q / 2) (2 * acc + 1) else log2Bits n q (2 * acc)

/-- The result of a unit's function `fn` on operand key `key`: a value of the type within `bound` of man * 2^exp, where
the bound is counted in units of 2^exp. The patterns from the least such value to the greatest stand in the order of their
images (R82). Lanes that hold the same operand take the same one of them. DESIGN CHOICE: log entry 20. -/
def within_ (t : ElemType) (fn key : Nat) (man : Int) (exp : Int) (bound : Nat) : FRes :=
  let f := floatFmt t
  let end_ := fun (m : Rnd) (v : Int) => image t false (roundExact t m (v < 0) v.natAbs exp false).bits
  let lo := end_ .rup (man - bound)
  let hi := end_ .rdn (man + bound)
  let i := lo + Config.sfuChoice fn key % max (hi + 1 - lo) 1
  let top := 2 ^ signBit f
  let bits := if top ≤ i then i - top else 2 * top - 1 - i
  ⟨bits, if bits % top < 2 ^ f.fracW then flagUF ||| flagNX else flagNX⟩

/-- A result of the special-function unit: within the bound; a subnormal result or an overflow rounds to nearest even
(R197). -/
def sfuResult (t : ElemType) (fn key : Nat) (man : Int) (exp : Int) (bound : Nat) : FRes :=
  let r := roundExact t .rne (man < 0) man.natAbs exp true
  let small := (Nat.log2 man.natAbs : Int) + exp < 1 - (floatFmt t).bias
  if man = 0 || small || r.flags &&& flagOF != 0 then ⟨r.bits, r.flags ||| flagNX⟩
  else within_ t fn key man exp bound

/-- One unit in the last place of man * 2^exp, in units of 2^exp. -/
def ulpOf (t : ElemType) (man : Nat) (exp : Int) : Nat :=
  let f := floatFmt t
  2 ^ (max ((Nat.log2 man : Int) + exp) (1 - f.bias) - f.fracW - exp).toNat

/-- Is the significand a power of two? -/
def isPow2 (man : Nat) : Bool := man != 0 && man == 2 ^ Nat.log2 man

/-- The overflow and the vanishing thresholds of VEXP2F (R198): FP32's hold for BF16. -/
def exp2Limits (t : ElemType) : Int × Int := if t = .fp16 then (16, -25) else (128, -150)

/-- The greatest integer at most, and the fraction above it with 128 bits, of (-1)^neg * man * 2^exp; a magnitude that has
more bits is rounded up. -/
def splitFix (neg : Bool) (man : Nat) (exp : Int) : Int × Nat :=
  let d := (-(exp + 128)).toNat
  let v : Int := if 0 ≤ exp + 128 then (man <<< (exp + 128).toNat : Nat) else ((man + (2 ^ d - 1)) >>> d : Nat)
  let w : Int := if neg then -v else v
  (w / 2 ^ 128, (w % 2 ^ 128).toNat)

/-- VEXP2F of a lane (R197, R198). -/
def exp2Lane (t : ElemType) (a : Nat) : FRes :=
  let f := floatFmt t
  match decodeFloat f a with
  | .nan n fr s => ⟨quietNan f n fr, if s then flagNV else 0⟩
  | .inf n => ⟨if n then 0 else infBits f, 0⟩
  | .fin n man exp =>
    let (top, low) := exp2Limits t
    let (k, frac) := splitFix n man (min exp 200)
    if top ≤ k then ⟨infBits f, flagOF ||| flagNX⟩
    else if k < low || (k = low && frac = 0) then ⟨0, flagUF ||| flagNX⟩
    else if man = 0 then ⟨(roundExact t .rne false 1 0 false).bits, 0⟩
    else if frac = 0 then roundExact t .rne false 1 k false
    else
      let r := max (expFix (frac * ln2Fix / 2 ^ 128)) (2 ^ 128 + 1)
      let wide := t = .fp32 && (1 < k || k < -1 || (k = 1 && frac != 0))
      sfuResult t 0 a r (k - 128) ((if wide then 2 else 1) * ulpOf t r (k - 128) - 2 ^ 16)

/-- VLOG2F of a lane (R197, R198). -/
def log2Lane (t : ElemType) (a : Nat) : FRes :=
  let f := floatFmt t
  match decodeFloat f a with
  | .nan n fr s => ⟨quietNan f n fr, if s then flagNV else 0⟩
  | .inf n => if n then invalid t else ⟨infBits f, 0⟩
  | .fin n man exp =>
    if man = 0 then ⟨withSign f true (infBits f), flagDZ⟩
    else if n then invalid t
    else
      let e := (Nat.log2 man : Int) + exp
      if isPow2 man then roundExact t .rne (e < 0) e.natAbs 0 false
      else
        let frac := log2Bits 128 (man <<< (160 - Nat.log2 man)) 0
        let v : Int := e * 2 ^ 128 + frac
        let nearOne := t = .fp32 && (e = -1 || e = 0)
        sfuResult t 1 a v (-128)
          (if nearOne then 2 ^ 106 else (if t = .fp32 then 2 else 1) * ulpOf t v.natAbs (-128))

/-- VRCP of a lane (R197, R198). -/
def rcpLane (t : ElemType) (a : Nat) : FRes :=
  let f := floatFmt t
  match decodeFloat f a with
  | .nan n fr s => ⟨quietNan f n fr, if s then flagNV else 0⟩
  | .inf n => ⟨withSign f n 0, 0⟩
  | .fin n man exp =>
    if man = 0 then ⟨withSign f n (infBits f), flagDZ⟩
    else if isPow2 man then roundExact t .rne n 1 (-(exp + Nat.log2 man)) false
    else
      let r : Nat := 2 ^ 192 / man
      sfuResult t 2 a (if n then -(r : Int) else r) (-exp - 192) (ulpOf t r (-exp - 192))

/-- VRSQ of a lane (R197, R198). -/
def rsqLane (t : ElemType) (a : Nat) : FRes :=
  let f := floatFmt t
  match decodeFloat f a with
  | .nan n fr s => ⟨quietNan f n fr, if s then flagNV else 0⟩
  | .inf n => if n then invalid t else ⟨0, 0⟩
  | .fin n man exp =>
    if man = 0 then ⟨withSign f n (infBits f), flagDZ⟩
    else if n then invalid t
    else
      let e := exp + Nat.log2 man
      if isPow2 man && e % 2 = 0 then roundExact t .rne false 1 (-(e / 2)) false
      else
        let (m, x) := if exp % 2 = 0 then (man, exp) else (2 * man, exp - 1)
        let r : Nat := isqrt (2 ^ 240 / m)
        sfuResult t 3 a r (-(x / 2) - 120) ((if t = .fp32 then 2 else 1) * ulpOf t r (-(x / 2) - 120))

/-- VEXP2F (R197, R198). -/
def execVexp2f (o : Operands) (s : State) : Out := vectorOp1 okF (fun _ t a => exp2Lane t a) o s
/-- VLOG2F (R197, R198). -/
def execVlog2f (o : Operands) (s : State) : Out := vectorOp1 okF (fun _ t a => log2Lane t a) o s
/-- VRCP (R197, R198). -/
def execVrcp (o : Operands) (s : State) : Out := vectorOp1 okF (fun _ t a => rcpLane t a) o s
/-- VRSQ (R197, R198). -/
def execVrsq (o : Operands) (s : State) : Out := vectorOp1 okF (fun _ t a => rsqLane t a) o s

/-! ### CORD (R199) -/

/-- An alternating odd or even power series in x with 400 fraction bits: n more terms, from the term whose next divisors
are k and k + 1. -/
def trigSeries (x2 : Nat) : Nat → Nat → Nat → Int → Int → Int
  | 0, _, _, _, acc => acc
  | n + 1, k, term, sign, acc =>
    let t := term * x2 / 2 ^ 400 / (k * (k + 1))
    trigSeries x2 n (k + 2) t (-sign) (acc + sign * t)

/-- sin or cos of x, with 400 fraction bits, for 0 <= x < 2 pi. -/
def trigFix (cos : Bool) (x : Nat) : Int :=
  let x2 := x * x / 2 ^ 400
  if cos then trigSeries x2 70 1 (2 ^ 400) (-1) (2 ^ 400) else trigSeries x2 70 2 x (-1) x

/-- The argument (-1)^neg * man * 2^exp reduced modulo 2 pi, with 400 fraction bits (R199); exp >= -149. -/
def reduceAngle (neg : Bool) (man : Nat) (exp : Int) : Nat :=
  let a := man <<< (exp + 400).toNat
  let r := a % (2 * piFix)
  if neg && r != 0 then 2 * piFix - r else r

/-- atan t with 120 fraction bits, for 0 <= t <= 1: two halvings of the angle, then the series. -/
def atanFix (t : Nat) : Nat :=
  let halve := fun t => t * 2 ^ 120 / (2 ^ 120 + isqrt (2 ^ 240 + t * t))
  let u := halve (halve t)
  let u2 := u * u / 2 ^ 120
  4 * ((upTo 40).foldl (fun (p : Int × Nat) i =>
    (p.1 + (if i % 2 = 0 then (1 : Int) else -1) * (p.2 / (2 * i + 1) : Nat), p.2 * u2 / 2 ^ 120)) (0, u)).1.toNat

/-- The bound of a CORD result (R199): 2^(1-n) and one unit in the last place, in units of 2^exp. -/
def cordBound (n man : Nat) (exp : Int) : Nat := 2 ^ (1 - (n : Int) - exp).toNat + ulpOf .fp32 man exp

/-- SIN or COS of a lane (R199). -/
def cordTrig (cos : Bool) (n a : Nat) : FRes :=
  match decodeFloat (floatFmt .fp32) a with
  | .nan neg fr s => ⟨quietNan (floatFmt .fp32) neg fr, if s then flagNV else 0⟩
  | .inf _ => invalid .fp32
  | .fin neg man exp =>
    if man = 0 then (if cos then ⟨0x3F800000, 0⟩ else ⟨a, 0⟩)
    else
      let v := trigFix cos (reduceAngle neg man exp)
      within_ .fp32 (if cos then 5 else 4) (a + 2 ^ 32 * n) v (-400) (cordBound n v.natAbs (-400))

/-- HYP of a lane (R199): tanh a for |a| <= 1. -/
def cordHyp (n a : Nat) : FRes :=
  match decodeFloat (floatFmt .fp32) a with
  | .nan neg fr s => ⟨quietNan (floatFmt .fp32) neg fr, if s then flagNV else 0⟩
  | .inf _ => invalid .fp32
  | .fin neg man exp =>
    if man = 0 then ⟨a, 0⟩
    else
      let x := (splitFix false man exp)
      if 1 < x.1 || (x.1 = 1 && x.2 != 0) then invalid .fp32
      else
        let e := expFix (2 * (x.1.toNat * 2 ^ 128 + x.2))
        let r : Nat := (e - 2 ^ 128) * 2 ^ 128 / (e + 2 ^ 128)
        within_ .fp32 7 (a + 2 ^ 32 * n) (if neg then -(r : Int) else r) (-128) (cordBound n r (-128))

/-- An angle of k eighths of pi as a CORD result (R199). -/
def cordAngle (n key : Nat) (neg : Bool) (k : Nat) : FRes :=
  let r : Nat := k * piFix / 2 ^ 280 / 8
  within_ .fp32 6 key (if neg then -(r : Int) else r) (-120) (cordBound n r (-120))

/-- ATN of a lane (R199): y is a, x is b; the special operands are those of atan2 in IEEE 754. -/
def cordAtan (n a b : Nat) : FRes :=
  let f := floatFmt .fp32
  let key := a + 2 ^ 32 * b + 2 ^ 64 * n
  let (y, x) := (decodeFloat f a, decodeFloat f b)
  (propagateNan .fp32 [y, x]).getD
    (match y, x with
      | .inf ny, .inf nx => cordAngle n key ny (if nx then 6 else 2)
      | .inf ny, _ => cordAngle n key ny 4
      | _, .inf nx =>
        if nx then cordAngle n key y.isNeg 8 else ⟨withSign f y.isNeg 0, if y.isZero then 0 else flagNX⟩
      | .fin ny my ey, .fin nx mx ex =>
        if my = 0 then (if nx then cordAngle n key ny 8 else ⟨withSign f ny 0, 0⟩)
        else if mx = 0 then cordAngle n key ny 4
        else
          let e := min ey ex
          let u := my <<< (ey - e).toNat
          let v := mx <<< (ex - e).toNat
          let t : Nat := if u ≤ v then atanFix (u * 2 ^ 120 / v) else piFix / 2 ^ 281 - atanFix (v * 2 ^ 120 / u)
          let r : Nat := if nx then piFix / 2 ^ 280 - t else t
          within_ .fp32 6 key (if ny then -(r : Int) else r) (-120) (cordBound n r (-120))
      | _, _ => invalid .fp32)

/-- A CORD instruction (R199): row 0 only, the count n from 1 to 40, the unit not pipelined. -/
def cordOp (two : Bool) (f : Nat → Nat → Nat → FRes) (o : Operands) (s : State) : Out :=
  let n := o.imm.toNat
  let t := tileOf s.cur
  let bad := badIf (n < 1 || 40 < n)
  let hold : Bool := s.cycle < (s.tile t).cordFree
  issue { Use.onActor with actor := inRow0 t, vs := vreg o.a :: (if two then [vreg o.b] else []), vd := [vreg o.d], hold := hold, bad := bad } s
    (fun _ s1 =>
      let c := s1.me
      let rs := (upTo 16).map (fun i => f n (laneAt .fp32 (c.rv (vreg o.a)) i) (laneAt .fp32 (c.rv (vreg o.b)) i))
      let v := packLanes .fp32 (fun i => (rs.getD i ⟨0, 0⟩).bits)
      let s2 := (s1.accrue (joinFlags rs)).modCore s1.cur (fun k => k.wv (vreg o.d) v)
      .next ((s2.modTile t (fun x => { x with cordFree := s1.cycle + n + 4 })).retire o.form))

/-- CORD.SIN (R199). -/
def execCordSin (o : Operands) (s : State) : Out := cordOp false (fun n a _ => cordTrig false n a) o s
/-- CORD.COS (R199). -/
def execCordCos (o : Operands) (s : State) : Out := cordOp false (fun n a _ => cordTrig true n a) o s
/-- CORD.ATN (R199). -/
def execCordAtn (o : Operands) (s : State) : Out := cordOp true cordAtan o s
/-- CORD.HYP (R199). -/
def execCordHyp (o : Operands) (s : State) : Out := cordOp false (fun n a _ => cordHyp n a) o s

end Sys2Proof.Machine
end

