-- ==== Sys2Proof/Machine/Dispatch.lean ====
section
/-! DEFINITION. The dispatch: one arm for each constructor of Instr, each a direct call of its meaning. -/

namespace Sys2Proof.Machine

def exec (i : Instr) (s : State) : Host.Outcome State Fault Refusal :=
  match i with
  | .add o => Sys2Proof.Machine.execAdd o s
  | .sub o => Sys2Proof.Machine.execSub o s
  | .and o => Sys2Proof.Machine.execAnd o s
  | .or o => Sys2Proof.Machine.execOr o s
  | .xor o => Sys2Proof.Machine.execXor o s
  | .andn o => Sys2Proof.Machine.execAndn o s
  | .shl o => Sys2Proof.Machine.execShl o s
  | .shr o => Sys2Proof.Machine.execShr o s
  | .sha o => Sys2Proof.Machine.execSha o s
  | .rot o => Sys2Proof.Machine.execRot o s
  | .min o => Sys2Proof.Machine.execMin o s
  | .max o => Sys2Proof.Machine.execMax o s
  | .minz o => Sys2Proof.Machine.execMinz o s
  | .maxz o => Sys2Proof.Machine.execMaxz o s
  | .slt o => Sys2Proof.Machine.execSlt o s
  | .sltz o => Sys2Proof.Machine.execSltz o s
  | .seq o => Sys2Proof.Machine.execSeq o s
  | .sne o => Sys2Proof.Machine.execSne o s
  | .addW o => Sys2Proof.Machine.execAddW o s
  | .subW o => Sys2Proof.Machine.execSubW o s
  | .andW o => Sys2Proof.Machine.execAndW o s
  | .orW o => Sys2Proof.Machine.execOrW o s
  | .xorW o => Sys2Proof.Machine.execXorW o s
  | .andnW o => Sys2Proof.Machine.execAndnW o s
  | .shlW o => Sys2Proof.Machine.execShlW o s
  | .shrW o => Sys2Proof.Machine.execShrW o s
  | .shaW o => Sys2Proof.Machine.execShaW o s
  | .rotW o => Sys2Proof.Machine.execRotW o s
  | .minW o => Sys2Proof.Machine.execMinW o s
  | .maxW o => Sys2Proof.Machine.execMaxW o s
  | .minzW o => Sys2Proof.Machine.execMinzW o s
  | .maxzW o => Sys2Proof.Machine.execMaxzW o s
  | .sltW o => Sys2Proof.Machine.execSltW o s
  | .sltzW o => Sys2Proof.Machine.execSltzW o s
  | .seqW o => Sys2Proof.Machine.execSeqW o s
  | .sneW o => Sys2Proof.Machine.execSneW o s
  | .mul o => Sys2Proof.Machine.execMul o s
  | .mulh o => Sys2Proof.Machine.execMulh o s
  | .mulhz o => Sys2Proof.Machine.execMulhz o s
  | .div o => Sys2Proof.Machine.execDiv o s
  | .divz o => Sys2Proof.Machine.execDivz o s
  | .rem o => Sys2Proof.Machine.execRem o s
  | .remz o => Sys2Proof.Machine.execRemz o s
  | .clz o => Sys2Proof.Machine.execClz o s
  | .ctz o => Sys2Proof.Machine.execCtz o s
  | .pop o => Sys2Proof.Machine.execPop o s
  | .brev o => Sys2Proof.Machine.execBrev o s
  | .bswap o => Sys2Proof.Machine.execBswap o s
  | .ext o => Sys2Proof.Machine.execExt o s
  | .dep o => Sys2Proof.Machine.execDep o s
  | .mov o => Sys2Proof.Machine.execMov o s
  | .li o => Sys2Proof.Machine.execLi o s
  | .sel o => Sys2Proof.Machine.execSel o s
  | .selz o => Sys2Proof.Machine.execSelz o s
  | .fadd o => Sys2Proof.Machine.execFadd o s
  | .fsub o => Sys2Proof.Machine.execFsub o s
  | .fmul o => Sys2Proof.Machine.execFmul o s
  | .fma o => Sys2Proof.Machine.execFma o s
  | .fms o => Sys2Proof.Machine.execFms o s
  | .fdiv o => Sys2Proof.Machine.execFdiv o s
  | .fsqrt o => Sys2Proof.Machine.execFsqrt o s
  | .fmin o => Sys2Proof.Machine.execFmin o s
  | .fmax o => Sys2Proof.Machine.execFmax o s
  | .fabs o => Sys2Proof.Machine.execFabs o s
  | .fneg o => Sys2Proof.Machine.execFneg o s
  | .feq o => Sys2Proof.Machine.execFeq o s
  | .flt o => Sys2Proof.Machine.execFlt o s
  | .fle o => Sys2Proof.Machine.execFle o s
  | .funord o => Sys2Proof.Machine.execFunord o s
  | .fclass o => Sys2Proof.Machine.execFclass o s
  | .cvt o => Sys2Proof.Machine.execCvt o s
  | .frnd o => Sys2Proof.Machine.execFrnd o s
  | .beq o => Sys2Proof.Machine.execBeq o s
  | .bne o => Sys2Proof.Machine.execBne o s
  | .blt o => Sys2Proof.Machine.execBlt o s
  | .bge o => Sys2Proof.Machine.execBge o s
  | .bltz o => Sys2Proof.Machine.execBltz o s
  | .bgez o => Sys2Proof.Machine.execBgez o s
  | .jmp o => Sys2Proof.Machine.execJmp o s
  | .jal o => Sys2Proof.Machine.execJal o s
  | .jr o => Sys2Proof.Machine.execJr o s
  | .loop o => Sys2Proof.Machine.execLoop o s
  | .waitt o => Sys2Proof.Machine.execWaitt o s
  | .waitq o => Sys2Proof.Machine.execWaitq o s
  | .endFiring o => Sys2Proof.Machine.execEndFiring o s
  | .halt o => Sys2Proof.Machine.execHalt o s
  | .ldB o => Sys2Proof.Machine.execLdB o s
  | .ldH o => Sys2Proof.Machine.execLdH o s
  | .ldW o => Sys2Proof.Machine.execLdW o s
  | .ldD o => Sys2Proof.Machine.execLdD o s
  | .ldBz o => Sys2Proof.Machine.execLdBz o s
  | .ldHz o => Sys2Proof.Machine.execLdHz o s
  | .ldWz o => Sys2Proof.Machine.execLdWz o s
  | .ldRob o => Sys2Proof.Machine.execLdRob o s
  | .ldRoh o => Sys2Proof.Machine.execLdRoh o s
  | .ldRow o => Sys2Proof.Machine.execLdRow o s
  | .ldRod o => Sys2Proof.Machine.execLdRod o s
  | .stB o => Sys2Proof.Machine.execStB o s
  | .stH o => Sys2Proof.Machine.execStH o s
  | .stW o => Sys2Proof.Machine.execStW o s
  | .stD o => Sys2Proof.Machine.execStD o s
  | .ldlB o => Sys2Proof.Machine.execLdlB o s
  | .ldlH o => Sys2Proof.Machine.execLdlH o s
  | .ldlW o => Sys2Proof.Machine.execLdlW o s
  | .ldlD o => Sys2Proof.Machine.execLdlD o s
  | .stlB o => Sys2Proof.Machine.execStlB o s
  | .stlH o => Sys2Proof.Machine.execStlH o s
  | .stlW o => Sys2Proof.Machine.execStlW o s
  | .stlD o => Sys2Proof.Machine.execStlD o s
  | .amoadd o => Sys2Proof.Machine.execAmoadd o s
  | .amofadd o => Sys2Proof.Machine.execAmofadd o s
  | .amomin o => Sys2Proof.Machine.execAmomin o s
  | .amomax o => Sys2Proof.Machine.execAmomax o s
  | .amominz o => Sys2Proof.Machine.execAmominz o s
  | .amomaxz o => Sys2Proof.Machine.execAmomaxz o s
  | .amoand o => Sys2Proof.Machine.execAmoand o s
  | .amoor o => Sys2Proof.Machine.execAmoor o s
  | .amoxor o => Sys2Proof.Machine.execAmoxor o s
  | .amoswp o => Sys2Proof.Machine.execAmoswp o s
  | .amocas o => Sys2Proof.Machine.execAmocas o s
  | .amoinc o => Sys2Proof.Machine.execAmoinc o s
  | .fence o => Sys2Proof.Machine.execFence o s
  | .invro o => Sys2Proof.Machine.execInvro o s
  | .pref o => Sys2Proof.Machine.execPref o s
  | .waitv o => Sys2Proof.Machine.execWaitv o s
  | .cpy o => Sys2Proof.Machine.execCpy o s
  | .cpys o => Sys2Proof.Machine.execCpys o s
  | .cpyf o => Sys2Proof.Machine.execCpyf o s
  | .cpyqPush o => Sys2Proof.Machine.execCpyqPush o s
  | .cpyqPop o => Sys2Proof.Machine.execCpyqPop o s
  | .emit o => Sys2Proof.Machine.execEmit o s
  | .emitp o => Sys2Proof.Machine.execEmitp o s
  | .peek o => Sys2Proof.Machine.execPeek o s
  | .tagrd o => Sys2Proof.Machine.execTagrd o s
  | .tagmk o => Sys2Proof.Machine.execTagmk o s
  | .vadd o => Sys2Proof.Machine.execVadd o s
  | .vsub o => Sys2Proof.Machine.execVsub o s
  | .vmul o => Sys2Proof.Machine.execVmul o s
  | .vfma o => Sys2Proof.Machine.execVfma o s
  | .vfms o => Sys2Proof.Machine.execVfms o s
  | .vmin o => Sys2Proof.Machine.execVmin o s
  | .vmax o => Sys2Proof.Machine.execVmax o s
  | .vabs o => Sys2Proof.Machine.execVabs o s
  | .vneg o => Sys2Proof.Machine.execVneg o s
  | .vand o => Sys2Proof.Machine.execVand o s
  | .vor o => Sys2Proof.Machine.execVor o s
  | .vxor o => Sys2Proof.Machine.execVxor o s
  | .vshl o => Sys2Proof.Machine.execVshl o s
  | .vshr o => Sys2Proof.Machine.execVshr o s
  | .vsha o => Sys2Proof.Machine.execVsha o s
  | .veq o => Sys2Proof.Machine.execVeq o s
  | .vlt o => Sys2Proof.Machine.execVlt o s
  | .vle o => Sys2Proof.Machine.execVle o s
  | .vun o => Sys2Proof.Machine.execVun o s
  | .vcvt o => Sys2Proof.Machine.execVcvt o s
  | .vrnd o => Sys2Proof.Machine.execVrnd o s
  | .vscl o => Sys2Proof.Machine.execVscl o s
  | .vexp o => Sys2Proof.Machine.execVexp o s
  | .vmov o => Sys2Proof.Machine.execVmov o s
  | .vbc o => Sys2Proof.Machine.execVbc o s
  | .vsel o => Sys2Proof.Machine.execVsel o s
  | .vperm o => Sys2Proof.Machine.execVperm o s
  | .vslide o => Sys2Proof.Machine.execVslide o s
  | .viota o => Sys2Proof.Machine.execViota o s
  | .vins o => Sys2Proof.Machine.execVins o s
  | .vxtr o => Sys2Proof.Machine.execVxtr o s
  | .vrsum o => Sys2Proof.Machine.execVrsum o s
  | .vrmax o => Sys2Proof.Machine.execVrmax o s
  | .vrmin o => Sys2Proof.Machine.execVrmin o s
  | .vldl o => Sys2Proof.Machine.execVldl o s
  | .vstl o => Sys2Proof.Machine.execVstl o s
  | .vldg o => Sys2Proof.Machine.execVldg o s
  | .vsts o => Sys2Proof.Machine.execVsts o s
  | .vld o => Sys2Proof.Machine.execVld o s
  | .vst o => Sys2Proof.Machine.execVst o s
  | .vqrd o => Sys2Proof.Machine.execVqrd o s
  | .vowr o => Sys2Proof.Machine.execVowr o s
  | .vexp2f o => Sys2Proof.Machine.execVexp2f o s
  | .vlog2f o => Sys2Proof.Machine.execVlog2f o s
  | .vrcp o => Sys2Proof.Machine.execVrcp o s
  | .vrsq o => Sys2Proof.Machine.execVrsq o s
  | .cordSin o => Sys2Proof.Machine.execCordSin o s
  | .cordCos o => Sys2Proof.Machine.execCordCos o s
  | .cordAtn o => Sys2Proof.Machine.execCordAtn o s
  | .cordHyp o => Sys2Proof.Machine.execCordHyp o s
  | .mand o => Sys2Proof.Machine.execMand o s
  | .mor o => Sys2Proof.Machine.execMor o s
  | .mxor o => Sys2Proof.Machine.execMxor o s
  | .mandn o => Sys2Proof.Machine.execMandn o s
  | .mnot o => Sys2Proof.Machine.execMnot o s
  | .mpop o => Sys2Proof.Machine.execMpop o s
  | .mfst o => Sys2Proof.Machine.execMfst o s
  | .mmov o => Sys2Proof.Machine.execMmov o s
  | .mset o => Sys2Proof.Machine.execMset o s
  | .shld o => Sys2Proof.Machine.execShld o s
  | .shst o => Sys2Proof.Machine.execShst o s
  | .shbq o => Sys2Proof.Machine.execShbq o s
  | .smap o => Sys2Proof.Machine.execSmap o s
  | .sred o => Sys2Proof.Machine.execSred o s
  | .scvt o => Sys2Proof.Machine.execScvt o s
  | .scpy o => Sys2Proof.Machine.execScpy o s
  | .mxcfg o => Sys2Proof.Machine.execMxcfg o s
  | .mxzero o => Sys2Proof.Machine.execMxzero o s
  | .mxmul o => Sys2Proof.Machine.execMxmul o s
  | .mxdrnMemory o => Sys2Proof.Machine.execMxdrnMemory o s
  | .mxdrnQueue o => Sys2Proof.Machine.execMxdrnQueue o s
  | .mxdrnRegisters o => Sys2Proof.Machine.execMxdrnRegisters o s
  | .mxmsk o => Sys2Proof.Machine.execMxmsk o s
  | .mxmpb o => Sys2Proof.Machine.execMxmpb o s
  | .mxwait o => Sys2Proof.Machine.execMxwait o s
  | .qscfg o => Sys2Proof.Machine.execQscfg o s
  | .qsstep o => Sys2Proof.Machine.execQsstep o s
  | .qsrun o => Sys2Proof.Machine.execQsrun o s
  | .qsrd o => Sys2Proof.Machine.execQsrd o s
  | .qssav o => Sys2Proof.Machine.execQssav o s
  | .qsrst o => Sys2Proof.Machine.execQsrst o s
  | .qsmskAnd o => Sys2Proof.Machine.execQsmskAnd o s
  | .qsmskCandidates o => Sys2Proof.Machine.execQsmskCandidates o s
  | .qsmskBeyond o => Sys2Proof.Machine.execQsmskBeyond o s
  | .samp o => Sys2Proof.Machine.execSamp o s
  | .acpt o => Sys2Proof.Machine.execAcpt o s
  | .cmit o => Sys2Proof.Machine.execCmit o s
  | .seedFresh o => Sys2Proof.Machine.execSeedFresh o s
  | .seedExplicit o => Sys2Proof.Machine.execSeedExplicit o s
  | .seedReplay o => Sys2Proof.Machine.execSeedReplay o s
  | .seedClear o => Sys2Proof.Machine.execSeedClear o s
  | .cfgldLoad o => Sys2Proof.Machine.execCfgldLoad o s
  | .cfgldUnload o => Sys2Proof.Machine.execCfgldUnload o s
  | .cfgsw o => Sys2Proof.Machine.execCfgsw o s
  | .cfgck o => Sys2Proof.Machine.execCfgck o s
  | .cfged o => Sys2Proof.Machine.execCfged o s
  | .bind o => Sys2Proof.Machine.execBind o s
  | .unbind o => Sys2Proof.Machine.execUnbind o s
  | .portwGatcnt o => Sys2Proof.Machine.execPortwGatcnt o s
  | .portwCompletions o => Sys2Proof.Machine.execPortwCompletions o s
  | .portwDiscards o => Sys2Proof.Machine.execPortwDiscards o s
  | .portwReply o => Sys2Proof.Machine.execPortwReply o s
  | .arm o => Sys2Proof.Machine.execArm o s
  | .inj o => Sys2Proof.Machine.execInj o s
  | .awaitCompletion o => Sys2Proof.Machine.execAwaitCompletion o s
  | .awaitInbox o => Sys2Proof.Machine.execAwaitInbox o s
  | .awaitEither o => Sys2Proof.Machine.execAwaitEither o s
  | .barr o => Sys2Proof.Machine.execBarr o s
  | .copen o => Sys2Proof.Machine.execCopen o s
  | .cclose o => Sys2Proof.Machine.execCclose o s
  | .cquota o => Sys2Proof.Machine.execCquota o s
  | .ckill o => Sys2Proof.Machine.execCkill o s
  | .lease o => Sys2Proof.Machine.execLease o s
  | .unlease o => Sys2Proof.Machine.execUnlease o s
  | .lnchW o => Sys2Proof.Machine.execLnchW o s
  | .lnchN o => Sys2Proof.Machine.execLnchN o s
  | .qset o => Sys2Proof.Machine.execQset o s
  | .qyld o => Sys2Proof.Machine.execQyld o s
  | .tcrd o => Sys2Proof.Machine.execTcrd o s
  | .swpol o => Sys2Proof.Machine.execSwpol o s
  | .swpenEnable o => Sys2Proof.Machine.execSwpenEnable o s
  | .swpenDisable o => Sys2Proof.Machine.execSwpenDisable o s
  | .swpx o => Sys2Proof.Machine.execSwpx o s
  | .swplg o => Sys2Proof.Machine.execSwplg o s
  | .trap o => Sys2Proof.Machine.execTrap o s
  | .brk o => Sys2Proof.Machine.execBrk o s
  | .syscImageExtent o => Sys2Proof.Machine.execSyscImageExtent o s
  | .syscSlotEvent o => Sys2Proof.Machine.execSyscSlotEvent o s
  | .syscTimestamp o => Sys2Proof.Machine.execSyscTimestamp o s
  | .eret o => Sys2Proof.Machine.execEret o s
  | .idle o => Sys2Proof.Machine.execIdle o s
  | .rdsr o => Sys2Proof.Machine.execRdsr o s
  | .wrsr o => Sys2Proof.Machine.execWrsr o s
  | .keyld o => Sys2Proof.Machine.execKeyld o s
  | .keyz o => Sys2Proof.Machine.execKeyz o s
  | .ifstLock o => Sys2Proof.Machine.execIfstLock o s
  | .ifstRun o => Sys2Proof.Machine.execIfstRun o s
  | .ifstStop o => Sys2Proof.Machine.execIfstStop o s
  | .ifrpt o => Sys2Proof.Machine.execIfrpt o s
  | .nop bits => Sys2Proof.Machine.execNop bits s
  | .hintRegion o => Sys2Proof.Machine.execHintRegion o s
  | .faultEntry fetch => Sys2Proof.Machine.execFaultEntry fetch s
  | .resetPart status tiles links revoked => Sys2Proof.Machine.execResetPart status tiles links revoked s
  | .requestToken port page dest slot iface tag payload => Sys2Proof.Machine.execRequestToken port page dest slot iface tag payload s
  | .controlRead port off => Sys2Proof.Machine.execControlRead port off s
  | .controlWrite port off value => Sys2Proof.Machine.execControlWrite port off value s
  | .memoryWrite port pa bytes => Sys2Proof.Machine.execMemoryWrite port pa bytes s
  | .memoryRead port pa n => Sys2Proof.Machine.execMemoryRead port pa n s
  | .unknownMessage => Sys2Proof.Machine.execUnknownMessage s
  | .ctlsemAcquire port mask => Sys2Proof.Machine.execCtlsemAcquire port mask s
  | .ctlsemRelease port mask => Sys2Proof.Machine.execCtlsemRelease port mask s
  | .violaddrClear port => Sys2Proof.Machine.execVioladdrClear port s
  | .violaddrRead port => Sys2Proof.Machine.execVioladdrRead port s
  | .ifstatRead port iface => Sys2Proof.Machine.execIfstatRead port iface s
  | .frozenRegisterWrite port iface reg value => Sys2Proof.Machine.execFrozenRegisterWrite port iface reg value s
  | .evtbWrite port value => Sys2Proof.Machine.execEvtbWrite port value s
  | .evttailWrite port value => Sys2Proof.Machine.execEvttailWrite port value s
  | .evtack port value => Sys2Proof.Machine.execEvtack port value s
  | .eventRecordWrite source => Sys2Proof.Machine.execEventRecordWrite source s
  | .tfence tile => Sys2Proof.Machine.execTfence tile s
  | .netctlWrite value => Sys2Proof.Machine.execNetctlWrite value s
  | .merrstRead => Sys2Proof.Machine.execMerrstRead s
  | .merrstOvfClear => Sys2Proof.Machine.execMerrstOvfClear s
  | .gdropRead => Sys2Proof.Machine.execGdropRead s
  | .sillstRead gallery => Sys2Proof.Machine.execSillstRead gallery s
  | .sillstEfailClear gallery => Sys2Proof.Machine.execSillstEfailClear gallery s
  | .operatingPointChange est island => Sys2Proof.Machine.execOperatingPointChange est island s
  | .entropyHealthFailure source test => Sys2Proof.Machine.execEntropyHealthFailure source test s
  | .entropyStartupPass source => Sys2Proof.Machine.execEntropyStartupPass source s
  | .peerTokenArrival port region tag ctl wide payload clock => Sys2Proof.Machine.execPeerTokenArrival port region tag ctl wide payload clock s
  | .systemScopeAcknowledge id who => Sys2Proof.Machine.execSystemScopeAcknowledge id who s
  | .crcMismatch link num => Sys2Proof.Machine.execCrcMismatch link num s
  | .linkFailed link => Sys2Proof.Machine.execLinkFailed link s
  | .tokenArrival arrivals => Sys2Proof.Machine.execTokenArrival arrivals s
  | .mapFiring tile slot colour => Sys2Proof.Machine.execMapFiring tile slot colour s
  | .redFiring tile slot colour => Sys2Proof.Machine.execRedFiring tile slot colour s
  | .nrmFiring tile slot colour => Sys2Proof.Machine.execNrmFiring tile slot colour s
  | .lutFiring tile slot colour => Sys2Proof.Machine.execLutFiring tile slot colour s
  | .steFiring tile slot colour => Sys2Proof.Machine.execSteFiring tile slot colour s
  | .mrgFiring tile slot colour => Sys2Proof.Machine.execMrgFiring tile slot colour s
  | .jonComparison tile slot tag => Sys2Proof.Machine.execJonComparison tile slot tag s
  | .genTrigger tile slot colour => Sys2Proof.Machine.execGenTrigger tile slot colour s
  | .genEmit tile slot => Sys2Proof.Machine.execGenEmit tile slot s
  | .tagFiring tile slot colour => Sys2Proof.Machine.execTagFiring tile slot colour s
  | .ldmFiring tile slot colour => Sys2Proof.Machine.execLdmFiring tile slot colour s
  | .ldmResult op => Sys2Proof.Machine.execLdmResult op s
  | .stmFiring tile slot colour => Sys2Proof.Machine.execStmFiring tile slot colour s
  | .stmCompletion op => Sys2Proof.Machine.execStmCompletion op s
  | .gatEntryFiring tile slot colour => Sys2Proof.Machine.execGatEntryFiring tile slot colour s
  | .louvreAdmit region colour => Sys2Proof.Machine.execLouvreAdmit region colour s
  | .exitResultForward tile slot colour => Sys2Proof.Machine.execExitResultForward tile slot colour s
  | .exitDoneFiring tile slot colour => Sys2Proof.Machine.execExitDoneFiring tile slot colour s
  | .sweepAcknowledge region colour f0 tile => Sys2Proof.Machine.execSweepAcknowledge region colour f0 tile s
  | .completionEmit region colour f0 => Sys2Proof.Machine.execCompletionEmit region colour f0 s
  | .stallSpill tile ctx colour write => Sys2Proof.Machine.execStallSpill tile ctx colour write s
  | .sumpRefill tile ctx buf colour => Sys2Proof.Machine.execSumpRefill tile ctx buf colour s
  | .streamPortRead region colour f0 port => Sys2Proof.Machine.execStreamPortRead region colour f0 port s
  | .streamPortWrite region colour f0 port => Sys2Proof.Machine.execStreamPortWrite region colour f0 port s
  | .actorFiringIssue tile slot binding colour => Sys2Proof.Machine.execActorFiringIssue tile slot binding colour s
  | .firingBudgetSuspend core => Sys2Proof.Machine.execFiringBudgetSuspend core s
  | .watchdogExpiry core => Sys2Proof.Machine.execWatchdogExpiry core s
  | .quantumExpiry region => Sys2Proof.Machine.execQuantumExpiry region s
  | .blockSchedulerActivate region => Sys2Proof.Machine.execBlockSchedulerActivate region s
  | .idleEnd core => Sys2Proof.Machine.execIdleEnd core s
  | .doneCompletion op => Sys2Proof.Machine.execDoneCompletion op s
  | .awaitTake cmd => Sys2Proof.Machine.execAwaitTake cmd s
  | .pendingLaunchProcess cmd => Sys2Proof.Machine.execPendingLaunchProcess cmd s
  | .memoryReply op index marked => Sys2Proof.Machine.execMemoryReply op index marked s
  | .zaluloIssue op index merge => Sys2Proof.Machine.execZaluloIssue op index merge s
  | .zaluloDeliver write view => Sys2Proof.Machine.execZaluloDeliver write view s
  | .roCacheFill gallery colour unit key => Sys2Proof.Machine.execRoCacheFill gallery colour unit key s
  | .roCacheDrop gallery colour unit => Sys2Proof.Machine.execRoCacheDrop gallery colour unit s
  | .zaluloAtomic op index merge => Sys2Proof.Machine.execZaluloAtomic op index merge s
  | .fenceComplete op => Sys2Proof.Machine.execFenceComplete op s
  | .copyEngineTransfer op index write => Sys2Proof.Machine.execCopyEngineTransfer op index write s
  | .migrationStart tctx va frame tier => Sys2Proof.Machine.execMigrationStart tctx va frame tier s
  | .migrationRound id => Sys2Proof.Machine.execMigrationRound id s
  | .migrationCommit id => Sys2Proof.Machine.execMigrationCommit id s
  | .migrationAbandon id => Sys2Proof.Machine.execMigrationAbandon id s
  | .oldFrameRelease frame => Sys2Proof.Machine.execOldFrameRelease frame s
  | .frameScrub frame => Sys2Proof.Machine.execFrameScrub frame s
  | .correctedError => Sys2Proof.Machine.execCorrectedError s
  | .uncorrectableError level views addr => Sys2Proof.Machine.execUncorrectableError level views addr s
  | .cxlPoisonReport addr => Sys2Proof.Machine.execCxlPoisonReport addr s
  | .leaseComplete cmd => Sys2Proof.Machine.execLeaseComplete cmd s
  | .cfgldComplete cmd => Sys2Proof.Machine.execCfgldComplete cmd s
  | .cfgswFlip cmd => Sys2Proof.Machine.execCfgswFlip cmd s
  | .cfgedApply cmd => Sys2Proof.Machine.execCfgedApply cmd s
  | .ccloseFinish cmd => Sys2Proof.Machine.execCcloseFinish cmd s
  | .ckillFinish cmd => Sys2Proof.Machine.execCkillFinish cmd s
  | .barrReopen cmd => Sys2Proof.Machine.execBarrReopen cmd s
  | .unleaseEnd cmd => Sys2Proof.Machine.execUnleaseEnd cmd s
  | .unbindComplete cmd => Sys2Proof.Machine.execUnbindComplete cmd s
  | .keyzZeroise cmd => Sys2Proof.Machine.execKeyzZeroise cmd s
  | .loaderServiceLoad pa size tctx own => Sys2Proof.Machine.execLoaderServiceLoad pa size tctx own s
  | .mxBankAcquire core => Sys2Proof.Machine.execMxBankAcquire core s
  | .mxPass tile ctx => Sys2Proof.Machine.execMxPass tile ctx s
  | .mxQueueOperation tile ctx => Sys2Proof.Machine.execMxQueueOperation tile ctx s
  | .mxDrainRun tile ctx => Sys2Proof.Machine.execMxDrainRun tile ctx s
  | .chainStart tile ctx colour => Sys2Proof.Machine.execChainStart tile ctx colour s
  | .chainPass tile ctx => Sys2Proof.Machine.execChainPass tile ctx s
  | .chainDrain tile ctx => Sys2Proof.Machine.execChainDrain tile ctx s
  | .qsChannelAcquire core => Sys2Proof.Machine.execQsChannelAcquire core s
  | .qsTransposeChunk gallery channel => Sys2Proof.Machine.execQsTransposeChunk gallery channel s
  | .qsPlaneStep gallery channel => Sys2Proof.Machine.execQsPlaneStep gallery channel s
  | .swapInstant region => Sys2Proof.Machine.execSwapInstant region s
  | .swapBoundaryReached swap => Sys2Proof.Machine.execSwapBoundaryReached swap s
  | .swapBoundaryTimeout swap => Sys2Proof.Machine.execSwapBoundaryTimeout swap s
  | .swapFlip swap => Sys2Proof.Machine.execSwapFlip swap s
  | .transomForward swap src edge colour => Sys2Proof.Machine.execTransomForward swap src edge colour s
  | .transomClose swap tile => Sys2Proof.Machine.execTransomClose swap tile s
  | .peerMemoryRequest port fn pa size data cmp clock => Sys2Proof.Machine.execPeerMemoryRequest port fn pa size data cmp clock s
  | .streamUnitTransfer op merge => Sys2Proof.Machine.execStreamUnitTransfer op merge s
  | .spdmRequest message body => Sys2Proof.Machine.execSpdmRequest message body s

end Sys2Proof.Machine
end

