-- ==== Sys2Proof/Machine/Run.lean ====
section
/-! DEFINITION. Running the bytes of an instruction: decoded and executed (R103, R104); and the same as a function that Lean can
compile, which no term of `Instr` with a constructor number above 244 passes through, with the proof that the two agree. -/

namespace Sys2Proof.Machine

/-- The bytes of an instruction run: decoded and executed, or the fault of bytes that are no instruction (R103, R104). -/
noncomputable def runBytes (bytes : List Byte) (s : State) : Out :=
  match decode bytes with
  | .error _ => execFaultEntry none s
  | .ok (i, _) => exec i s

/-! ### The same, compiled -/

/-- What an instruction comes to: the lengths that it accepts, and its meaning. -/
abbrev Made := List Form × (State → Out)

/-- A family's functions, each with the lengths and the meaning of its instruction. -/
abbrev FastFamily := Nat → Option (Operands → Made)

/-- A family of the decoder's, as lengths and meanings. -/
def made (fam : Nat → Option (Operands → Instr)) : FastFamily := fun fn =>
  (fam fn).map (fun make o => ((make o).forms, exec (make o)))

/-- COL, as lengths and meanings. -/
def fastCol : FastFamily := fun fn =>
  match fn with
  | 0 => some (fun o => ([.w32, .w64], execCopen o))
  | 1 => some (fun o => ([.w32, .w64], execCclose o))
  | 2 => some (fun o => ([.w32, .w64], execCquota o))
  | 3 => some (fun o => ([.w32, .w64], execCkill o))
  | _ => none

/-- LEASE, as lengths and meanings. -/
def fastLease : FastFamily := fun fn =>
  match fn with
  | 0 => some (fun o => ([.w32, .w64], execLease o))
  | 1 => some (fun o => ([.w32, .w64], execUnlease o))
  | _ => none

/-- LAUNCH, as lengths and meanings. -/
def fastLaunch : FastFamily := fun fn =>
  match fn with
  | 0 => some (fun o => ([.w32, .w64], execLnchW o))
  | 1 => some (fun o => ([.w32, .w64], execLnchN o))
  | _ => none

/-- QUANT, as lengths and meanings. -/
def fastQuant : FastFamily := fun fn =>
  match fn with
  | 0 => some (fun o => ([.w32, .w64], execQset o))
  | 1 => some (fun o => ([.w32, .w64], execQyld o))
  | _ => none

/-- PLACE, as lengths and meanings. -/
def fastPlace : FastFamily := fun fn =>
  match fn with
  | 0 => some (fun o => ([.w32, .w64], execTcrd o))
  | 1 => some (fun o => ([.w32, .w64], execSwpol o))
  | 2 => some (fun o => ([.w32, .w64], match o.imm.getLsbD 0 with
    | true => execSwpenEnable o
    | _ => execSwpenDisable o))
  | 3 => some (fun o => ([.w32, .w64], execSwpx o))
  | 4 => some (fun o => ([.w32, .w64], execSwplg o))
  | _ => none

/-- SYS, as lengths and meanings. -/
def fastSys : FastFamily := fun fn =>
  match fn with
  | 0 => some (fun o => ([.w32, .w64, .w96], execTrap o))
  | 1 => some (fun o => ([.w32, .w64, .w96], execBrk o))
  | 2 => some (fun o => ([.w32, .w64, .w96], match o.imm.toNat with
    | 2 => execSyscSlotEvent o
    | 3 => execSyscTimestamp o
    | _ => execSyscImageExtent o))
  | 3 => some (fun o => ([.w32, .w64, .w96], execEret o))
  | 4 => some (fun o => ([.w32, .w64, .w96], execIdle o))
  | _ => none

/-- SREG, as lengths and meanings. -/
def fastSreg : FastFamily := fun fn =>
  match fn with
  | 0 => some (fun o => ([.w64], execRdsr o))
  | 1 => some (fun o => ([.w64], execWrsr o))
  | _ => none

/-- SEC, as lengths and meanings. -/
def fastSec : FastFamily := fun fn =>
  match fn with
  | 0 => some (fun o => ([.w32, .w64], execKeyld o))
  | 1 => some (fun o => ([.w32, .w64], execKeyz o))
  | 2 => some (fun o => ([.w32, .w64], execIfstLock o))
  | 3 => some (fun o => ([.w32, .w64], execIfrpt o))
  | _ => none

/-- The families (R101), as lengths and meanings. -/
def fastFamilyOf (op : Nat) : Option FastFamily :=
  match op with
  | 0x00 => some (made famIalu)
  | 0x01 => some (made famIaluW)
  | 0x02 => some (made famImul)
  | 0x03 => some (made famIbit)
  | 0x04 => some (made famImov)
  | 0x10 => some (made famFalu)
  | 0x11 => some (made famFcmp)
  | 0x12 => some (made famFcvt)
  | 0x18 => some (made famBr)
  | 0x19 => some (made famJmp)
  | 0x1A => some (made famLoop)
  | 0x1B => some (made famWait)
  | 0x1C => some (made famEnd)
  | 0x20 => some (made famLd)
  | 0x21 => some (made famSt)
  | 0x22 => some (made famLoc)
  | 0x23 => some (made famAmo)
  | 0x24 => some (made famOrd)
  | 0x28 => some (made famCpy)
  | 0x29 => some (made famEmit)
  | 0x30 => some (made famValu)
  | 0x31 => some (made famVcmp)
  | 0x32 => some (made famVcvt)
  | 0x33 => some (made famVmov)
  | 0x34 => some (made famVred)
  | 0x35 => some (made famVmem)
  | 0x36 => some (made famVsfu)
  | 0x37 => some (made famCord)
  | 0x50 => some (made famMsk)
  | 0x52 => some (made famShp)
  | 0x53 => some (made famStrm)
  | 0x5C => some (made famMx)
  | 0x64 => some (made famQs)
  | 0x65 => some (made famSill)
  | 0x6C => some (made famCfg)
  | 0x6D => some (made famPort)
  | 0x6E => some (made famInst)
  | 0x6F => some fastCol
  | 0x70 => some fastLease
  | 0x71 => some fastLaunch
  | 0x72 => some fastQuant
  | 0x73 => some fastPlace
  | 0x78 => some fastSys
  | 0x79 => some fastSreg
  | 0x7A => some fastSec
  | _ => none

/-- Parcels that run (R85, R103); only those of the instruction's own length are read. -/
def fastParcels (p0 p1 p2 : Parcel) (s : State) : Out :=
  if lenField p0 = 3 then execNop (p0.extractLsb' 2 30) s
  else
    let o := fieldsOf (formOfLen (lenField p0)) p0 p1 p2
    let op := (opField p0).toNat
    if 0x7C ≤ op then execHintRegion { op := (opField p0).extractLsb' 0 2, fn := fnField p0, rest := o } s
    else
      match fastFamilyOf op with
      | none => execFaultEntry none s
      | some family =>
        match family (fnField p0).toNat with
        | none => execFaultEntry none s
        | some make => if (make o).1.contains o.form then (make o).2 s else execFaultEntry none s

/-- `runBytes`, compiled. -/
def runBytesFast (bytes : List Byte) (s : State) : Out :=
  match takeParcel bytes with
  | none => execFaultEntry none s
  | some (p0, r0) =>
    match formOfLen (lenField p0) with
    | .w32 => fastParcels p0 0 0 s
    | .w64 =>
      match takeParcel r0 with
      | none => execFaultEntry none s
      | some (p1, _) => fastParcels p0 p1 0 s
    | .w96 =>
      match takeParcel r0 with
      | none => execFaultEntry none s
      | some (p1, r1) =>
        match takeParcel r1 with
        | none => execFaultEntry none s
        | some (p2, _) => fastParcels p0 p1 p2 s

theorem fastCol_eq : fastCol = made famCol := funext fun fn =>
  match fn with
  | 0 => rfl | 1 => rfl | 2 => rfl | 3 => rfl | _ + 4 => rfl

theorem fastLease_eq : fastLease = made famLease := funext fun fn =>
  match fn with
  | 0 => rfl | 1 => rfl | _ + 2 => rfl

theorem fastLaunch_eq : fastLaunch = made famLaunch := funext fun fn =>
  match fn with
  | 0 => rfl | 1 => rfl | _ + 2 => rfl

theorem fastQuant_eq : fastQuant = made famQuant := funext fun fn =>
  match fn with
  | 0 => rfl | 1 => rfl | _ + 2 => rfl

theorem fastSreg_eq : fastSreg = made famSreg := funext fun fn =>
  match fn with
  | 0 => rfl | 1 => rfl | _ + 2 => rfl

theorem fastSec_eq : fastSec = made famSec := funext fun fn =>
  match fn with
  | 0 => rfl | 1 => rfl | 2 => rfl | 3 => rfl | _ + 4 => rfl

theorem fastPlace_eq : fastPlace = made famPlace := funext fun fn =>
  match fn with
  | 0 | 1 | 3 | 4 | _ + 5 => rfl
  | 2 => congrArg some (funext fun o => by
    show _ = ((swpenForm o).forms, exec (swpenForm o))
    unfold swpenForm
    cases o.imm.getLsbD 0 <;> rfl)

theorem fastSys_eq : fastSys = made famSys := funext fun fn =>
  match fn with
  | 0 | 1 | 3 | 4 | _ + 5 => rfl
  | 2 => congrArg some (funext fun o => by
    show _ = ((syscForm o).forms, exec (syscForm o))
    unfold syscForm
    generalize o.imm.toNat = n
    match n with
    | 0 | 1 | 2 | 3 | _ + 4 => rfl)

/-- The compiled families are the decoder's. -/
theorem fastFamilyOf_eq (op : Nat) : fastFamilyOf op = (familyOf op).map made := by
  unfold fastFamilyOf familyOf
  simp only [fastCol_eq, fastLease_eq, fastLaunch_eq, fastQuant_eq, fastPlace_eq, fastSys_eq, fastSreg_eq, fastSec_eq]
  split
  case h_46 => first | exact (Option.map_none (f := made)).symm | (split <;> first | contradiction | rfl | simp_all)
  all_goals rfl

/-- The compiled parcels run as the decoded instruction does. -/
theorem fastParcels_eq (p0 p1 p2 : Parcel) (s : State) :
    fastParcels p0 p1 p2 s = (match decodeParcels p0 p1 p2 with
      | .error _ => execFaultEntry none s
      | .ok i => exec i s) := by
  unfold fastParcels decodeParcels
  simp only [fastFamilyOf_eq]
  split
  · rfl
  · split
    · rfl
    · cases familyOf (opField p0).toNat with
      | none => rfl
      | some fam =>
        simp only [Option.map_some, made]
        cases fam (fnField p0).toNat with
        | none => rfl
        | some make =>
          simp only [Option.map_some]
          split <;> rfl

/-- The compiled run is the model's. -/
@[csimp] theorem runBytes_eq_fast : @runBytes = @runBytesFast := by
  funext bytes s
  unfold runBytes runBytesFast decode
  simp only [fastParcels_eq]
  repeat' (first | rfl | split)
  all_goals simp_all [Except.map]

end Sys2Proof.Machine
end

