-- ==== Sys2Proof/Machine/Turn.lean ====
section
/-! DEFINITION. An engine's turn: what its current slot does, and which firing slot of an actor core that is (R30, R31, R90, R149,
R154). -/

namespace Sys2Proof.Machine

/-- A firing that has reached a limit (R30, R31, R154): at 2^24 cycles it takes the watchdog fault; at 2,048 under pre-emption it is
suspended at its boundary, once nothing keeps it. None for a firing that goes on. -/
def State.atLimit (s : State) : Option State :=
  if !isActor s.cur || s.fcyc s.cur < 2048 then none
  else if 2 ^ 24 ≤ s.fcyc s.cur then some (s.actorFault s.cur (exc 0x07 0x00) s.me.pc)
  else if (s.region s.me.firing.region).preempting then some (if s.suspendable s.cur then s.suspendFiring s.cur else s.tick 1)
  else none

/-- The current engine's turn: a running slot fetches, decodes and executes; an idle one waits until its IDLE ends; an empty or held
one lets the time pass; a slot that has ended leaves once what it issued has completed. -/
def runCore (s : State) : Out :=
  if s.barred s.cur then .next (s.tick 1)
  else match s.me.run with
  | .running =>
    match s.atLimit with
    | some t => .next t
    | none =>
      match s.fetch with
      | .error a => execFaultEntry (some (BitVec.ofNat 64 a)) s
      | .ok bytes => runBytes bytes s
  | .held _ => .next (s.atLimit.getD (s.tick 1))
  | .idle .. =>
    match s.atLimit with
    | some t => .next t
    | none => execIdleEnd s.cur (s.tick 1)
  | .ending => .next ((s.reap s.cur).tick 1)
  | .empty => .next (s.tick 1)

/-! ### Round robin among a core's firing slots (R149) -/

/-- The running firing slots of a slot's tile, from the one after the slot that issued last. -/
def State.rotation (s : State) (p : Nat) : List Nat :=
  let last := AMap.get 3 s.lastIssue (tileOf p)
  ((upTo 4).map (fun i => p - slotOf p + (last + 1 + i) % 4)).filter (fun q => (s.core q).run == .running)

/-- Has a slot changed: did it issue, or end? -/
def issued (s t : State) (p : Nat) : Bool := t.core p != s.core p

/-- Would a slot's next instruction issue now? -/
def State.ready (s : State) (p : Nat) : Bool :=
  match runCore { s with cur := p } with
  | .next t => issued s t p
  | _ => true

/-- The slot that an engine's turn goes to: on an actor core the first that is ready, round robin (R149); with none that is ready,
or with no other that runs, the slot named. -/
def State.pick (s : State) (p : Nat) : Nat :=
  if !isActor p || (s.rotation p).all (fun q => q == p) then p else ((s.rotation p).find? s.ready).getD p

/-- The arbiter of the current slot's core remembers the slot that issued. -/
def State.noteIssue (s t : State) : State :=
  if isActor s.cur && issued s t s.cur then { t with lastIssue := AMap.put t.lastIssue (tileOf s.cur) (slotOf s.cur) } else t

/-- What follows a next state; a fault and a refusal stay. -/
def andThen (f : State → State) : Out → Out
  | .next t => .next (f t)
  | .fault a => .fault a
  | .refused r => .refused r

/-- An engine's turn. -/
def State.turn (s : State) (p : Nat) : Out :=
  let s1 := { s with cur := s.pick p }
  andThen s1.noteIssue (runCore s1)

end Sys2Proof.Machine
end

