-- ==== Sys2Proof/Machine/Step.lean ====
section
/-! DEFINITION. One step of the part: a programmable engine issues its next instruction, an event comes, or time passes;
and how a word is placed where the next step fetches it. -/

namespace Sys2Proof.Machine

/-- One step: the first choice of the schedule, or the current engine's turn; and then what the cycle that it leads to brings (R252,
R352). DESIGN CHOICE: log entry 1. -/
def step (s : State) : Out :=
  andThen State.newCycle (match s.sched with
    | [] => s.turn s.cur
    | .engine p :: rest => State.turn { s with sched := rest } p
    | .event i :: rest => if i.isEvent then exec i { s with sched := rest } else .next { s with sched := rest }
    | .tick n :: rest => .next ({ s with sched := rest }.tick n)
    | .unseen n :: rest => .next { s with sched := rest, unseen := n })

/-- A code area of twelve bytes at the pc, mapped in plaintext to the same physical address. -/
def Core.withCode (c : Core) : Core :=
  { c with
    run := .running
    codeBase := c.pc.toNat
    codeSize := 12
    codeExtent := { Extent.none with vbase := c.pc.toNat, pbase := c.pc.toNat, size := 12, rd := true, valid := true } }

/-- Write bytes to a view, in plaintext. -/
def View.plant (v : View) (a : Nat) (bs : List Byte) : View :=
  foldUp (fun i x => x.lay (a + i) 1 (bs.getD i 0).toNat 0) bs.length v

/-- The state whose very next step fetches the word: the current slot runs a code area of twelve bytes at its pc, which
hold the word. DESIGN CHOICE: log entry 5. -/
def State.withFetchWord (s : State) (nbits w : Nat) : State :=
  let s1 := { s.modCore s.cur Core.withCode with sched := [] }
  let d := domainOf s.cur
  s1.setView d ((s1.view d).plant s1.me.pc.toNat (leBytes 12 (w % 2 ^ nbits)))

end Sys2Proof.Machine
end

