-- ==== Sys2Proof/Safety.lean ====
section
/-! DEFINITION. The terms that claims use: what counts as a safe step and a safe run, when an instruction issues and with
which values, what a step leaves alone, and which memories a state holds. -/

namespace Sys2Proof

open Machine

/-! ### Steps and runs -/

/-- The step goes on: it neither stops with a fault nor is refused. -/
def goesOn (o : Out) : Prop := ∃ t, o = .next t

/-- A run of `k` steps from `s` goes on to its end. -/
def safeRun (k : Nat) (s : State) : Prop := ∃ t, core.run k s = .next t

/-- The states from which a run of any length goes on. -/
def safe (s : State) : Prop := ∀ k, safeRun k s

/-- A property that every step keeps: where it holds and the step goes on, it holds after. -/
def keptByStep (p : State → Prop) : Prop := ∀ s t, p s → step s = .next t → p t

/-! ### When an instruction issues, and with which values (R93 to R98, R104) -/

namespace Machine

/-- The pops of a use at issue: fields with their popped values, whether a popped token was poisoned, the state after. -/
def Use.pops (u : Use) (s : State) : List (RegField × Word) × Bool × State :=
  popFields s.cur u.xs [] false (s.begins u)

/-- The state in which the instruction has its operands. -/
def Use.after (u : Use) (s : State) : State := (u.pops s).2.2

/-- The values that its scalar fields yield. -/
def Use.value (u : Use) (s : State) : Regs := fieldValue (u.pops s).1 (u.after s).me

/-- Nothing stands against the instruction: it is legal on the engine, its operands are legal, it need not wait, no token
that it pops is poisoned, and its result may go where it is to go. -/
def Use.issues (u : Use) (s : State) : Prop :=
  s.legalOn u = true ∧ u.bad = Option.none ∧ u.clash = false ∧ s.queueMisuse u = false ∧ s.waits u = false ∧
    (u.pops s).2.1 = false ∧ (u.after s).pushFault u = Option.none

/-- In every state in which nothing stands against the instruction, it answers the state that `next` makes of its operands'
values and of the state in which it has them. -/
def completes (i : Instr) (u : Use) (next : Regs → State → State) : Prop :=
  ∀ s, u.issues s → exec i s = .next (next (u.value s) (u.after s))

/-- The same where a guard on the operands' values and the state holds as well. -/
def completesIf (i : Instr) (u : Use) (guard : Regs → State → Prop) (next : Regs → State → State) : Prop :=
  ∀ s, u.issues s → guard (u.value s) (u.after s) → exec i s = .next (next (u.value s) (u.after s))

/-! ### What a step leaves alone -/

/-- Everything but the cores and the time is as it was, and every core but one. -/
def State.onlyCore (s t : State) (p : Nat) : Prop :=
  t = { s with cores := t.cores, cycle := t.cycle } ∧ ∀ q, q ≠ p → t.core q = s.core q

/-- Everything but the cores, the operations under way, a party's clock and the time is as it was, and every core but one; the
party of the other cores have their clocks. -/
def State.onlyCoreAndOps (s t : State) (p : Nat) : Prop :=
  t = { s with
      cores := t.cores, cycle := t.cycle, z := { s.z with ops := t.z.ops, nextId := t.z.nextId, clocks := t.z.clocks } } ∧
    ∀ q, q ≠ p → t.core q = s.core q ∧ t.clock q = s.clock q

/-! ### The memories of a state -/

/-- Every byte memory of the state: the views, the tiles' local memories, the slots' data memories, the LUTs of the
contexts, and host memory. -/
def State.memories (s : State) : List Memory :=
  s.z.views.map (fun v => v.2.mem) ++ s.tiles.map (fun t => t.2.loc) ++ s.cores.map (fun c => c.2.data) ++
    s.tiles.flatMap (fun t => t.2.ctxs.flatMap (fun c => c.2.luts.map (fun l => l.2))) ++ [s.host.mem]

/-- Every memory is in its canonical form. -/
def State.canonical (s : State) : Prop := ∀ m ∈ s.memories, Memory.wf m = true

end Machine
end Sys2Proof
end

