-- ==== Sys2Proof/Certificates/Slice0/Obligations.lean ====
section
/-! DEFINITION. The statements about the model, and the tables and relations that they are written with. Where a statement
rests on a choice of the model's, its docstring names the log entry. -/

open Sys2Proof Sys2Proof.Machine

namespace Sys2Proof.Claims

/-! ### Operands of the scalar forms (R88, R159) -/

/-- Sources A and the second source, destination D. -/
def use2 (o : Operands) : Use := { Use.none with xs := o.a :: secondField o, xd := some o.d }
/-- Source A, destination D. -/
def use1 (o : Operands) : Use := { Use.none with xs := [o.a], xd := some o.d }
/-- Sources D, A and the second source, destination D. -/
def use3 (o : Operands) : Use := { Use.none with xs := o.d :: o.a :: secondField o, xd := some o.d }

/-! ### The integer functions of R160 to R163, by arithmetic on the operands' values -/

/-- A function of words of any width. -/
abbrev WordFn := (w : Nat) → BitVec w → BitVec w → BitVec w

/-- The rows of R160 and R161: the instruction on 64 bits, the one on 32 bits, and the function of both. -/
def integerRows : List ((Operands → Instr) × (Operands → Instr) × WordFn) :=
  [ (.add, .addW, fun w a b => BitVec.ofNat w (a.toNat + b.toNat)),
    (.sub, .subW, fun w a b => BitVec.ofInt w (a.toInt - b.toInt)),
    (.and, .andW, fun w a b => BitVec.ofNat w (a.toNat &&& b.toNat)),
    (.or, .orW, fun w a b => BitVec.ofNat w (a.toNat ||| b.toNat)),
    (.xor, .xorW, fun w a b => BitVec.ofNat w (a.toNat ^^^ b.toNat)),
    (.andn, .andnW, fun w a b => BitVec.ofNat w (a.toNat &&& (2 ^ w - 1 - b.toNat))),
    (.shl, .shlW, fun w a b => BitVec.ofNat w (a.toNat * 2 ^ (b.toNat % w))),
    (.shr, .shrW, fun w a b => BitVec.ofNat w (a.toNat / 2 ^ (b.toNat % w))),
    (.sha, .shaW, fun w a b => BitVec.ofInt w (a.toInt / 2 ^ (b.toNat % w))),
    (.rot, .rotW, fun w a b => a.rotateRight (b.toNat % w)),
    (.min, .minW, fun w a b => BitVec.ofInt w (min a.toInt b.toInt)),
    (.max, .maxW, fun w a b => BitVec.ofInt w (max a.toInt b.toInt)),
    (.minz, .minzW, fun w a b => BitVec.ofNat w (min a.toNat b.toNat)),
    (.maxz, .maxzW, fun w a b => BitVec.ofNat w (max a.toNat b.toNat)),
    (.slt, .sltW, fun w a b => BitVec.ofNat w (if a.toInt < b.toInt then 1 else 0)),
    (.sltz, .sltzW, fun w a b => BitVec.ofNat w (if a.toNat < b.toNat then 1 else 0)),
    (.seq, .seqW, fun w a b => BitVec.ofNat w (if a.toNat = b.toNat then 1 else 0)),
    (.sne, .sneW, fun w a b => BitVec.ofNat w (if a.toNat = b.toNat then 0 else 1)) ]

/-- The rows of R162. -/
def mulRows (o : Operands) : List (Instr × (Word → Word → Word)) :=
  [ (.mul o, fun a b => BitVec.ofInt 64 (a.toInt * b.toInt)),
    (.mulh o, fun a b => BitVec.ofInt 64 (a.toInt * b.toInt / 2 ^ 64)),
    (.mulhz o, fun a b => BitVec.ofNat 64 (a.toNat * b.toNat / 2 ^ 64)),
    (.div o, fun a b => if b.toNat = 0 then 0xFFFFFFFFFFFFFFFF else BitVec.ofInt 64 (a.toInt.tdiv b.toInt)),
    (.divz o, fun a b => if b.toNat = 0 then 0xFFFFFFFFFFFFFFFF else BitVec.ofNat 64 (a.toNat / b.toNat)),
    (.rem o, fun a b => if b.toNat = 0 then a else BitVec.ofInt 64 (a.toInt - a.toInt.tdiv b.toInt * b.toInt)),
    (.remz o, fun a b => if b.toNat = 0 then a else BitVec.ofNat 64 (a.toNat - a.toNat / b.toNat * b.toNat)) ]

/-- What R163 says of the result `v` of one of the instructions that read only A. -/
def bitResult (i : Instr) (a v : Word) : Prop :=
  match i with
  | .clz _ => v.toNat ≤ 64 ∧ (∀ k, k < v.toNat → a.getLsbD (63 - k) = false) ∧
      (v.toNat < 64 → a.getLsbD (63 - v.toNat) = true)
  | .ctz _ => v.toNat ≤ 64 ∧ (∀ k, k < v.toNat → a.getLsbD k = false) ∧ (v.toNat < 64 → a.getLsbD v.toNat = true)
  | .pop _ => v.toNat = ((List.range 64).filter (fun k => a.getLsbD k)).length
  | .brev _ => ∀ k, k < 64 → v.getLsbD k = a.getLsbD (63 - k)
  | .bswap _ => ∀ k j, k < 8 → j < 8 → v.getLsbD (8 * k + j) = a.getLsbD (8 * (7 - k) + j)
  | _ => False

/-- EXT's result (R163): the field of width w at p, zero-filled, or sign-filled where the flag is set and the field lies
inside the word. -/
def extracts (a b v : Word) : Prop :=
  let p := (b.extractLsb' 0 6).toNat
  let w := (b.extractLsb' 6 7).toNat
  ∀ k, k < 64 → v.getLsbD k =
    (if k < w then p + k < 64 && a.getLsbD (p + k)
    else b.getLsbD 13 && decide (0 < w ∧ w ≤ 64 - p) && a.getLsbD (p + w - 1))

/-- DEP's result (R163): the field of width w at p is replaced by the low bits of a. -/
def deposits (d a b v : Word) : Prop :=
  let p := (b.extractLsb' 0 6).toNat
  let w := (b.extractLsb' 6 7).toNat
  ∀ k, k < 64 → v.getLsbD k = (if p ≤ k ∧ k < p + w then a.getLsbD (k - p) else d.getLsbD k)

/-- The instructions of the integer families. -/
def integerInstrs (o : Operands) : List Instr :=
  integerRows.map (fun r => r.1 o) ++ integerRows.map (fun r => r.2.1 o) ++ (mulRows o).map (fun r => r.1) ++
    [.clz o, .ctz o, .pop o, .brev o, .bswap o, .ext o, .dep o, .mov o, .li o, .sel o, .selz o]

/-! ### The scalar floating-point functions of R166 to R168 -/

/-- The operand fault of a scalar typed form (R68, R165): a type other than FP32, a mask, a reserved rounding mode. -/
def typedFault (o : Operands) : Option Exc :=
  if o.imm.toNat % 32 = 0 ∧ o.imm.getLsbD 5 = false ∧ o.imm.toNat / 2 ^ 10 % 8 < 5 then none else some (exc 0x01 0x01)

/-- A typed form's use, with its sources and the operand fault. -/
def typedUse (xs : List RegField) (d : RegField) (bad : Option Exc) : Use :=
  { Use.none with gallery := false, root := false, xs := xs, xd := some d, bad := bad }

/-- The rounding mode that a form names (R68). -/
def roundingOf (o : Operands) : Rnd := rndOf (o.imm.toNat / 2 ^ 10 % 8)

/-- FP32 functions of two operands (R166, R167). -/
def floatRows2 (o : Operands) : List (Instr × (Nat → Nat → FRes)) :=
  [ (.fadd o, fAdd .fp32 (roundingOf o)), (.fsub o, fSub .fp32 (roundingOf o)), (.fmul o, fMul .fp32 (roundingOf o)),
    (.fdiv o, fDiv .fp32 (roundingOf o)), (.fmin o, fMinMax .fp32 false), (.fmax o, fMinMax .fp32 true),
    (.feq o, fEq .fp32), (.flt o, fLt .fp32), (.fle o, fLe .fp32), (.funord o, fUn .fp32) ]

/-- FP32 functions of one operand (R166 to R168). -/
def floatRows1 (o : Operands) : List (Instr × (Nat → FRes)) :=
  [ (.fsqrt o, fSqrt .fp32 (roundingOf o)), (.fabs o, fun a => ⟨a % 2 ^ 31, 0⟩), (.fneg o, fun a => ⟨a ^^^ 2 ^ 31, 0⟩),
    (.fclass o, fun a => ⟨fClass .fp32 a, 0⟩), (.frnd o, fRound .fp32 (roundingOf o)) ]

/-- The low 32 bits of a source. -/
def low (w : Word) : Nat := w.toNat % 2 ^ 32

/-- The state after a scalar floating-point result: the flags accrue, the register takes the bits, zeros above. -/
def floatDone (o : Operands) (s1 : State) (r : FRes) : State :=
  ((s1.accrue r.flags).putX o.d (BitVec.ofNat 64 r.bits)).retire o.form

/-- The second source of a scalar typed form (R89, R166). -/
def typedB (o : Operands) (rd : Regs) : Word := if o.form = .w96 then o.lit.setWidth 64 else rd o.b

/-- The relations of the branches (R169). -/
def branchRows (o : Operands) : List (Instr × (Word → Word → Prop)) :=
  [ (.beq o, fun a b => a.toNat = b.toNat), (.bne o, fun a b => a.toNat ≠ b.toNat), (.blt o, fun a b => a.toInt < b.toInt),
    (.bge o, fun a b => a.toInt ≥ b.toInt), (.bltz o, fun a b => a.toNat < b.toNat), (.bgez o, fun a b => a.toNat ≥ b.toNat) ]

/-- The target of a branch or jump (R90): the instruction's own address plus an offset, with bits 1:0 cleared. -/
def target (pc offset : Word) : Word := BitVec.ofNat 64 ((pc.toNat + offset.toNat) % 2 ^ 64 / 4 * 4)

/-- The offset of a branch (R88): IMM16, or LIT32 in the 96-bit form, sign-extended. -/
def offsetOf (o : Operands) : Word := if o.form = .w96 then o.lit.signExtend 64 else o.imm.signExtend 64

/-- The bytes of a form (R85). -/
def bytesOfForm : Form → Nat
  | .w32 => 4
  | .w64 => 8
  | .w96 => 12

/-- The core with its pc at a place. -/
def atPc (c : Core) (a : Word) : Core := { c with pc := a }

/-! ### Memory forms (R42, R88, R213 to R224) -/

/-- The use of a memory form: its sources, its destination, and its token fields. -/
def memUse (o : Operands) (xs : List RegField) (d : Option RegField) : Use :=
  { Use.none with xs := xs, xd := d, c := o.c, t := o.t }

/-- The loads (R214, R215): bytes, sign extension, whether the read-only path is asked for. -/
def loadRows (o : Operands) : List (Instr × Nat × Bool × Bool) :=
  [ (.ldB o, 1, true, false), (.ldH o, 2, true, false), (.ldW o, 4, true, false), (.ldD o, 8, true, false),
    (.ldBz o, 1, false, false), (.ldHz o, 2, false, false), (.ldWz o, 4, false, false), (.ldRob o, 1, true, true),
    (.ldRoh o, 2, true, true), (.ldRow o, 4, true, true), (.ldRod o, 8, true, true) ]

/-- The stores (R216) and their bytes. -/
def storeRows (o : Operands) : List (Instr × Nat) := [(.stB o, 1), (.stH o, 2), (.stW o, 4), (.stD o, 8)]

/-- The atomics (R219): function number and bytes. AMOCAS, function 10, also reads x[D]. -/
def atomicRows (o : Operands) : List (Instr × Nat × Nat) :=
  [ (.amoadd o, 0, 8), (.amofadd o, 1, 4), (.amomin o, 2, 8), (.amomax o, 3, 8), (.amominz o, 4, 8), (.amomaxz o, 5, 8),
    (.amoand o, 6, 8), (.amoor o, 7, 8), (.amoxor o, 8, 8), (.amoswp o, 9, 8), (.amocas o, 10, 8), (.amoinc o, 11, 8) ]

/-- What every memory operation of an instruction is when it issues: it takes the next number, it is the issuing core's, it has
the given requests and done register, and the core goes on past the instruction with the registers pending that it is to
write; nothing else changes (R96, R212). -/
def madeOp (o : Operands) (s1 t : State) (op : MemOp) (reqs : List Req) (d : RegField) : Prop :=
  t.z.ops = s1.z.ops ++ [op] ∧ t.z.nextId = s1.z.nextId + 1 ∧ op.id = s1.z.nextId ∧ op.party = s1.cur ∧
    op.core = some s1.cur ∧ op.own = none ∧ op.reqs = reqs ∧ op.done = o.t ∧ op.pc = s1.me.pc ∧
    State.onlyCoreAndOps s1 t s1.cur ∧ t.cycle = s1.cycle + 1 ∧
    (t.core s1.cur).pc = s1.me.pc + BitVec.ofNat 64 (bytesOfForm o.form) ∧
    (d ≠ 0 → (t.core s1.cur).pendingX d = true) ∧ (o.t ≠ 0 → (t.core s1.cur).pendingX o.t = true) ∧
    (t.core s1.cur).x = s1.me.x

/-- The access checks of R132, R211 and R232 pass: natural alignment, an extent that permits the kind, no failed range. -/
def deviceOk (s1 : State) (va n : Nat) (k : ReqKind) (pa key : Nat) (stb : Bool) : Prop :=
  va % n = 0 ∧ s1.translate (s1.extentsOf s1.cur) va n k = some (pa, key, stb) ∧
    (k = .write ∨ s1.copyFault s1.cur true va n = none)

/-- The scope of a form (R42, R213): MOD[1:0], and device in a 32-bit form. -/
def scopeIs (o : Operands) (sc : Scope) : Prop :=
  sc = if o.form = .w32 then .device else match o.md.toNat % 4 with
    | 0 => .tile
    | 1 => .gallery
    | 2 => .device
    | _ => .system

/-- A copy of `n` has been put in flight (R225, R226): its operation's party is the copy engine, its clock starts as the issuer's,
and the done register is pending. -/
def copyStarted (o : Operands) (s1 t : State) (n : Nat) : Prop :=
  ∃ op c, t.z.ops = s1.z.ops ++ [op] ∧ t.copies = s1.copies ++ [c] ∧ op.id = s1.z.nextId ∧ c.op = s1.z.nextId ∧
    c.core = s1.cur ∧ c.len = n ∧ op.party = copyParty s1.cur ∧ op.own = some (t.clock s1.cur) ∧ op.done = o.t ∧
    (t.core s1.cur).pendingX o.t = true ∧ t.z.views = s1.z.views ∧
    (t.core s1.cur).pc = s1.me.pc + BitVec.ofNat 64 (bytesOfForm o.form)

/-- TAGMK's tag (R177) for a field at `lo` of width `w`: above the field x[A]'s nest, the field from x[B], zeros below, and the
firing's colour and context. -/
def builtTag (lo w : Nat) (a b firing : Word) : Word :=
  BitVec.ofNat 64 (firing.toNat / 2 ^ 52 * 2 ^ 52 + a.toNat % 2 ^ 52 / 2 ^ (lo + w) * 2 ^ (lo + w) + b.toNat % 2 ^ w * 2 ^ lo)

/-! ### Vector forms (R187 to R196) -/

/-- Is lane i active (R188)? Every lane without a mask; with one, by the mask's bit i, or i/2 for a 4-bit type. -/
def active (o : Operands) (t : ElemType) (s1 : State) (i : Nat) : Bool :=
  !o.imm.getLsbD 5 || (s1.me.rm (o.imm.extractLsb' 6 4)).getLsbD (if elemBits t = 4 then i / 2 else i)

/-- Lane i of a register (R187): its bits, w wide. -/
def laneOf (t : ElemType) (v : Vec) (i : Nat) : Nat := v.toNat / 2 ^ (laneBits t * i) % 2 ^ laneBits t

/-- The element in lane i (R61). -/
def elem (t : ElemType) (v : Vec) (i : Nat) : Nat := laneOf t v i % 2 ^ elemBits t

/-- The second source of lane i (R89): the element of v[B], or the literal's low bits. -/
def elem2 (o : Operands) (t : ElemType) (s1 : State) (i : Nat) : Nat :=
  if o.form = .w96 then o.lit.toNat % 2 ^ elemBits t else elem t (s1.me.rv (o.b.extractLsb' 0 5)) i

/-- The use of a vector form: its registers and mask, and the operand fault where the type is not accepted or the rounding
mode is reserved (R68, R190). -/
def vecUse (o : Operands) (ok : Nat → Bool) (xs : List RegField) (vs : List RegField) (vd : List RegField) : Use :=
  { Use.none with
    gallery := false
    root := false
    xs := xs
    vs := vs.map (fun r => r.extractLsb' 0 5)
    vd := vd.map (fun r => r.extractLsb' 0 5)
    ms := if o.imm.getLsbD 5 then [o.imm.extractLsb' 6 4] else []
    bad := if ok (o.imm.toNat % 32) && decide (o.imm.toNat / 2 ^ 10 % 8 < 5) then none else some (exc 0x01 0x01) }

/-- The vector second source's field, where the form reads it. -/
def vecB (o : Operands) : List RegField := if o.form = .w96 then [] else [o.b]

/-- What a vector instruction does to its core (R70, R189): each active lane of v[D] takes its result, every other lane keeps its
value; the flags of the active lanes accrue; the pc moves on; every other register and the rest of the part are as they
were. -/
def lanesDone (o : Operands) (t : ElemType) (s1 : State) (res : Nat → FRes) (s2 : State) : Prop :=
  let d := o.d.extractLsb' 0 5
  State.onlyCore s1 s2 s1.cur ∧ s2.cycle = s1.cycle + 1 ∧
    (∀ i, i < laneCount t →
      laneOf t ((s2.core s1.cur).rv d) i =
        if active o t s1 i then (res i).bits % 2 ^ laneBits t else laneOf t (s1.me.rv d) i) ∧
    (∀ r, r ≠ d → (s2.core s1.cur).rv r = s1.me.rv r) ∧
    (∀ k, (s2.core s1.cur).firing.fflags.getLsbD k =
      (s1.me.firing.fflags.getLsbD k ||
        (List.range (laneCount t)).any (fun i => active o t s1 i && (res i).flags.getLsbD k))) ∧
    s2.core s1.cur = { s1.me with
      pc := s1.me.pc + BitVec.ofNat 64 (bytesOfForm o.form)
      v := (s2.core s1.cur).v
      firing := { s1.me.firing with fflags := (s2.core s1.cur).firing.fflags } }

/-- A lane function of two elements and the old one. -/
abbrev LaneFn := Rnd → ElemType → Nat → Nat → Nat → FRes

/-- The float function on a float type; on an integer type the integer function of the values, modulo 2^w, with no flag. -/
def byType (ff : LaneFn) (fi : Int → Int → Int → Int) : LaneFn := fun m t a b d =>
  if isFloatType t then ff m t a b d
  else ⟨(fi (intValue t a) (intValue t b) (intValue t d) % (2 ^ elemBits t : Nat)).toNat, 0⟩

/-- The element types that are accepted (R190): F, I, F and I, all. -/
def typesF (c : Nat) : Bool := decide (c < 3)
/-- I. -/
def typesI (c : Nat) : Bool := decide (8 ≤ c) && decide (c < 16)
/-- F and I. -/
def typesFI (c : Nat) : Bool := typesF c || typesI c
/-- All. -/
def typesAll (c : Nat) : Bool := decide (c < 16)

/-- The rows of R191 and R194 with two sources: the instruction, its types, its lane function. -/
def vecRows2 (o : Operands) : List (Instr × (Nat → Bool) × LaneFn) :=
  [ (.vadd o, typesFI, byType (fun m t a b _ => fAdd t m a b) (fun a b _ => a + b)),
    (.vsub o, typesFI, byType (fun m t a b _ => fSub t m a b) (fun a b _ => a - b)),
    (.vmul o, typesFI, byType (fun m t a b _ => fMul t m a b) (fun a b _ => a * b)),
    (.vfma o, typesFI, byType (fun m t a b d => fFma t m false a b d) (fun a b d => a * b + d)),
    (.vfms o, typesFI, byType (fun m t a b d => fFma t m true a b d) (fun a b d => a * b - d)),
    (.vmin o, typesFI, byType (fun _ t a b _ => fMinMax t false a b) (fun a b _ => min a b)),
    (.vmax o, typesFI, byType (fun _ t a b _ => fMinMax t true a b) (fun a b _ => max a b)),
    (.vand o, typesAll, fun _ _ a b _ => ⟨a &&& b, 0⟩),
    (.vor o, typesAll, fun _ _ a b _ => ⟨a ||| b, 0⟩),
    (.vxor o, typesAll, fun _ _ a b _ => ⟨a ^^^ b, 0⟩),
    (.vshl o, typesI, fun _ t a b _ => ⟨a * 2 ^ (b % elemBits t) % 2 ^ elemBits t, 0⟩),
    (.vshr o, typesI, fun _ t a b _ => ⟨a / 2 ^ (b % elemBits t), 0⟩),
    (.vsha o, typesI, fun _ t a b _ =>
      ⟨((BitVec.ofNat (elemBits t) a).sshiftRight (b % elemBits t)).toNat, 0⟩),
    (.vscl o, typesF, fun m t a b _ => scaleLane m t a (BitVec.ofNat (elemBits t) b).toInt) ]

/-- The rows of R191, R194, R195 and R197 with one source. Which of the results that R197's bounds admit VEXP2F to VRSQ give is
the part's own choice (log entry 20). -/
def vecRows1 (o : Operands) : List (Instr × (Nat → Bool) × (Rnd → ElemType → Nat → FRes)) :=
  [ (.vabs o, typesFI, fun m t a =>
      byType (fun _ t a _ _ => ⟨a % 2 ^ (elemBits t - 1), 0⟩) (fun a _ _ => a.natAbs) m t a a a),
    (.vneg o, typesFI, fun m t a =>
      byType (fun _ t a _ _ => ⟨a ^^^ 2 ^ (elemBits t - 1), 0⟩) (fun a _ _ => -a) m t a a a),
    (.vrnd o, typesF, fun m t a => fRound t m a), (.vexp o, typesF, fun _ t a => exponentLane t a),
    (.vmov o, typesAll, fun _ _ a => ⟨a, 0⟩), (.vexp2f o, typesF, fun _ t a => exp2Lane t a),
    (.vlog2f o, typesF, fun _ t a => log2Lane t a), (.vrcp o, typesF, fun _ t a => rcpLane t a),
    (.vrsq o, typesF, fun _ t a => rsqLane t a) ]

/-- What a comparison writes to a mask register (R192): for each covered bit that is active the relation, of both lanes of a pair
on a 4-bit type; the old bit where it is inactive; zeros above. -/
def maskDone (o : Operands) (t : ElemType) (s1 : State) (rel : Nat → Bool) (m : Word) : Prop :=
  let n := if elemBits t = 4 then laneCount t / 2 else laneCount t
  ∀ j, j < 64 → m.getLsbD j =
    if n ≤ j then false
    else if !o.imm.getLsbD 5 || (s1.me.rm (o.imm.extractLsb' 6 4)).getLsbD j then
      (if elemBits t = 4 then rel (2 * j) && rel (2 * j + 1) else rel j)
    else (s1.me.rm (o.d.extractLsb' 0 4)).getLsbD j

/-- The relations of R192: on floats and on integers. -/
def compareRows (o : Operands) : List (Instr × (ElemType → Nat → Nat → FRes) × (Int → Int → Bool)) :=
  [ (.veq o, fEq, fun a b => decide (a = b)), (.vlt o, fLt, fun a b => decide (a < b)),
    (.vle o, fLe, fun a b => decide (a ≤ b)), (.vun o, fUn, fun _ _ => false) ]

/-- A comparison's result on elements of a type. -/
def compareRes (ff : ElemType → Nat → Nat → FRes) (fi : Int → Int → Bool) (t : ElemType) (a b : Nat) : FRes :=
  if isFloatType t then ff t a b else ⟨if fi (intValue t a) (intValue t b) then 1 else 0, 0⟩

/-- The fixed pairwise tree of R196 over 2^k places: neighbours are joined, and an absent one passes the other on. -/
def tree {α : Type} (node : α → α → α) : (k : Nat) → (Nat → Option α) → Option α
  | 0, p => p 0
  | k + 1, p => tree node k (fun j => match p (2 * j), p (2 * j + 1) with
    | none, y => y
    | x, none => x
    | some a, some b => some (node a b))

/-- A node of the tree: the function of the two values, and the flags of all (R196). -/
def treeNode (f : Nat → Nat → FRes) (a b : FRes) : FRes :=
  let r := f a.bits b.bits
  ⟨r.bits, a.flags ||| b.flags ||| r.flags⟩

/-! ### Which engine may execute what (R21, R22, R178) -/

/-- Legal on actor cores only. -/
def actorOnly (o : Operands) : List Instr :=
  [ .fadd o, .fsub o, .fmul o, .fma o, .fms o, .fdiv o, .fsqrt o, .fmin o, .fmax o, .fabs o, .fneg o, .feq o, .flt o, .fle o,
    .funord o, .fclass o, .cvt o, .frnd o, .endFiring o, .emit o, .emitp o, .peek o, .tagrd o, .tagmk o, .vadd o, .vsub o,
    .vmul o, .vfma o, .vfms o, .vmin o, .vmax o, .vabs o, .vneg o, .vand o, .vor o, .vxor o, .vshl o, .vshr o, .vsha o,
    .veq o, .vlt o, .vle o, .vun o, .vcvt o, .vrnd o, .vscl o, .vexp o, .vmov o, .vbc o, .vsel o, .vperm o, .vslide o,
    .viota o, .vins o, .vxtr o, .vrsum o, .vrmax o, .vrmin o, .vldl o, .vstl o, .vldg o, .vsts o, .vld o, .vst o, .vqrd o,
    .vowr o, .vexp2f o, .vlog2f o, .vrcp o, .vrsq o, .cordSin o, .cordCos o, .cordAtn o, .cordHyp o, .mand o, .mor o,
    .mxor o, .mandn o, .mnot o, .mpop o, .mfst o, .mmov o, .mset o, .shld o, .shst o, .shbq o, .smap o, .sred o, .scvt o,
    .scpy o, .mxcfg o, .mxzero o, .mxmul o, .mxdrnMemory o, .mxdrnQueue o, .mxdrnRegisters o, .mxmsk o, .mxmpb o, .mxwait o ]

/-- Legal on both kinds of sequencer, and not on an actor core. -/
noncomputable def sequencerOnly (o : Operands) : List Instr :=
  [ .halt o, .samp o, .acpt o, .cmit o, .seedFresh o, .seedExplicit o, .seedReplay o, .seedClear o, .cfgldLoad o,
    .cfgldUnload o, .cfgsw o, .cfgck o, .cfged o, .bind o, .unbind o, .portwGatcnt o, .portwCompletions o, .portwDiscards o,
    .portwReply o, .arm o, .inj o, .awaitCompletion o, .awaitInbox o, .awaitEither o, .barr o, .copen o, .cclose o,
    .cquota o, .ckill o, .lease o, .unlease o, .lnchW o, .lnchN o, .qset o, .qyld o, .tcrd o, .swpol o, .swpenEnable o,
    .swpenDisable o, .swpx o, .swplg o, .syscImageExtent o, .syscSlotEvent o, .syscTimestamp o, .eret o ]

/-- Legal on the root sequencer only. -/
noncomputable def rootOnly (o : Operands) : List Instr := [ .keyld o, .keyz o, .ifstLock o, .ifstRun o, .ifstStop o, .ifrpt o ]

end Sys2Proof.Claims


namespace Sys2Proof.Claims

/-! ### Completions and commands (R96, R97, R326) -/

/-- The done register, where one is named, holds the completion at once: bit 0 set, the status, the result. -/
def doneAtIssue (o : Operands) (s1 t : State) (status result : Nat) : Prop :=
  o.t ≠ 0 → ((t.core s1.cur).rx o.t).toNat = result % 2 ^ 48 * 2 ^ 16 + status % 256 * 2 ^ 8 + 1 ∧
    (t.core s1.cur).pendingX o.t = false

/-- The done register, where one is named, is pending. -/
def doneLater (o : Operands) (s1 t : State) : Prop := o.t ≠ 0 → (t.core s1.cur).pendingX o.t = true

/-- The issuing core has gone on past the instruction. -/
def goneOn (o : Operands) (s1 t : State) : Prop :=
  (t.core s1.cur).pc = s1.me.pc + BitVec.ofNat 64 (bytesOfForm o.form) ∧ t.cycle = s1.cycle + 1

/-- A command completes at its issue (R326): the done register takes the status and the result; a synchronous one goes on where
the status is 0, and otherwise traps with code 0x13, to return to the next instruction. -/
def answered (o : Operands) (s1 : State) (status result : Nat) : State :=
  if o.t ≠ 0 then (s1.complete s1.cur o.t status result).retire o.form
  else if status = 0 then s1.retire o.form
  else (s1.trapTo s1.cur 0x13 (result % 2 ^ 48 * 2 ^ 16 + status % 256 * 2 ^ 8 + 1) (s1.me.nextPc o.form)).tick 1

/-- A command waits under the next number (R326): its done register is pending, or the slot is held until it completes. -/
def commandWaits (o : Operands) (s1 t : State) (sel : Word) (k : CmdKind) : Prop :=
  ∃ c : Cmd, t.cmds = s1.cmds ++ [c] ∧ c.id = s1.z.nextId ∧ c.core = s1.cur ∧ c.done = o.t ∧ c.kind = k ∧
    c.region = selReg sel ∧ c.ctx = selCtx sel ∧ c.colour = selCol sel ∧ c.gen = (s1.region (selReg sel)).gen ∧
    doneLater o s1 t ∧ goneOn o s1 t ∧ (o.t = 0 → (t.core s1.cur).run = .held s1.z.nextId)

/-! ### Vector memory (R73, R200 to R203) -/

/-- The element type is one of the 6-bit types. -/
def isSix (t : ElemType) : Prop := elemBits t = 6

/-- The bytes of an access (R200): 64, or 48 of a 6-bit type. -/
def accessSize (t : ElemType) : Nat := if elemBits t = 6 then 48 else 64

/-- The alignment of an access (R200, R201). -/
def accessAligned (t : ElemType) (a : Nat) : Prop := if elemBits t = 6 then a % 64 % 3 = 0 ∧ a % 64 ≤ 15 else a % 64 = 0

/-- Bit j of the bytes that a register is stored as (R73): the elements lie packed, at their own width. -/
def storedBit (t : ElemType) (v : Vec) (j : Nat) : Bool := v.getLsbD (laneBits t * (j / elemBits t) + j % elemBits t)

/-- The use of a vector memory form: a register read or written, the address's fields, the tokens. -/
def vmemUse (o : Operands) (vs vd : List RegField) : Use :=
  { vecUse o typesAll (o.a :: vecB o) vs vd with c := o.c, t := o.t }

/-- The address of a vector memory form (R88). -/
def vmemAt (o : Operands) (rd : Regs) : Word := rd o.a + (if o.form = .w96 then o.lit.signExtend 64 else rd o.b)

/-- The address of lane i of a gather or a scatter (R202): the index is the lane of v[B], signed, times the element's bytes. -/
def laneAddress (o : Operands) (t : ElemType) (s1 : State) (rd : Regs) (i : Nat) : Word :=
  rd o.a + BitVec.ofInt 64
    ((BitVec.ofNat (laneBits t) (laneOf t (s1.me.rv (o.b.extractLsb' 0 5)) i)).toInt * (laneBits t / 8 : Nat))

/-- The lanes that are active, in ascending order. -/
def lanesActive (o : Operands) (t : ElemType) (s1 : State) : List Nat := (List.range (laneCount t)).filter (active o t s1)

/-- The types of a gather and a scatter (R202): those of 8, 16 and 32 bits. -/
def typesGather (c : Nat) : Bool := decide (c < 5) || decide (8 ≤ c ∧ c < 14)

/-! ### The matrix node (R356, R365) -/

/-- The bank of the issuing firing's context. -/
def bankOf (s : State) (p : Nat) : Bank := (s.tctx (tileOf p) (s.core p).firing.ctx).bank

/-- The firing owns the bank of a context that is not free-running, and its node queue has room. -/
def mayQueue (s : State) : Prop :=
  isActor s.cur = true ∧ (s.firingCtx s.cur).mxs = none ∧ s.myBank.owner = .core s.cur ∧ s.myBank.leaving = false ∧
    s.myBank.queue.length < 4

/-- The operation is at the end of the node queue; the done register is pending and the core has gone on; no other core and no
view has changed. -/
def queued (o : Operands) (s1 t : State) (before : List MxQueued) (op : MxOp) (memOp : Option Nat) : Prop :=
  (t.tctx (tileOf s1.cur) s1.me.firing.ctx).bank.queue =
      before ++ [{ core := s1.cur, op := op, done := o.t, memOp := memOp, pc := s1.me.pc, before := s1.localBefore o.c }] ∧
    doneLater o s1 t ∧ goneOn o s1 t ∧ t.z.views = s1.z.views ∧ ∀ q, q ≠ s1.cur → t.core q = s1.core q

/-- The machine operation of a pass or a drain (R373): its party is the tile's fetch unit, its clock starts as the firing's. -/
def nodeOperation (o : Operands) (s1 t : State) : Prop :=
  ∃ op, t.z.ops = s1.z.ops ++ [op] ∧ op.id = s1.z.nextId ∧ op.party = fetchParty (tileOf s1.cur) ∧
    op.own = some (t.clock s1.cur) ∧ op.pending = true ∧ op.done = o.t

/-! ### Stream operations (R208, R209) -/

/-- The records of a STRM form pass the checks of R206 and R208. -/
def recordsOk (s1 : State) (hs : List RegField) : Prop :=
  ∀ r ∈ hs, recordBad (s1.me.rh (r.extractLsb' 0 3)) = false ∧ recordMisaligned (s1.me.rh (r.extractLsb' 0 3)) = false

/-- The record that a field names. -/
def record (s1 : State) (r : RegField) : Vec := s1.me.rh (r.extractLsb' 0 3)

/-- A stream operation is in flight (R208): the firing goes on with its done register pending, or is held; nothing has been read
or written yet. -/
def streamStarted (o : Operands) (s1 t : State) (fn : Nat) : Prop :=
  ∃ op j, t.z.ops = s1.z.ops ++ [op] ∧ t.streams = s1.streams ++ [j] ∧ op.id = s1.z.nextId ∧ j.op = s1.z.nextId ∧
    j.core = s1.cur ∧ j.fn = fn ∧ j.f = o.imm.toNat % 32 ∧ j.ha = record s1 o.a ∧ j.hb = record s1 o.b ∧ j.hd = record s1 o.d ∧
    j.next = 0 ∧ j.acc = none ∧ op.pending = true ∧ op.done = o.t ∧ t.z.views = s1.z.views ∧ t.tiles = s1.tiles ∧
    doneLater o s1 t ∧ goneOn o s1 t ∧ (o.t = 0 → (t.core s1.cur).run = .held s1.z.nextId)

/-! ### Long operations, the sill (R395, R406) -/

/-- The sum of the first n weights. -/
def sumTo (weight : Nat → Nat) (n : Nat) : Nat := ((List.range n).map weight).sum

/-- A long operation of a channel has started (R395): its operation is of the channel's party; the channel is at work unless its
condition holds already; the core goes on with its done register pending, or is held. -/
def longStarted (o : Operands) (s1 t : State) (c : Nat) (what : QsLong) (met : Bool) : Prop :=
  (∃ op ∈ t.z.ops, op.id = s1.z.nextId ∧ op.party = chanParty (s1.galleryOf s1.cur) c ∧ op.done = o.t ∧
    op.core = some s1.cur) ∧
    (t.channel (s1.galleryOf s1.cur) c).job = (if met then none else some { what := what, op := s1.z.nextId }) ∧
    doneLater o s1 t ∧ goneOn o s1 t ∧ (o.t = 0 → (t.core s1.cur).run = .held s1.z.nextId)

/-- A command waits for a unit of the sill (R406): the command, and an operation of the unit's party. -/
def sillWaits (o : Operands) (s1 t : State) (k : CmdKind) : Prop :=
  commandWaits o s1 t 0 k ∧ ∃ op, t.z.ops = s1.z.ops ++ [op] ∧ op.id = s1.z.nextId ∧
    op.party = sillParty (s1.galleryOf s1.cur) k.sillUnit ∧ op.own = some (t.clock s1.cur) ∧ op.pending = true

/-- A valid sequence entry of a sequence, a colour, a position, a step and a key (R403). -/
def seqEntryOf (seq col pos step key : Nat) : SeqEntry :=
  { valid := true, seq := seq, col := col, pos := pos, step := step, key := key, replay := false }

/-- Nothing changes but the galleries and the count of free values. -/
def onlySill (s1 s2 : State) : Prop := s2 = { s1 with gals := s2.gals, freeCount := s2.freeCount }

/-! ### Fabric commands (R322, R326, R342, R344) -/

/-- The region is loaded, and the slot's gallery commands it (R322). -/
def commands (s : State) (n : Nat) : Prop := (s.region n).state ≠ .unloaded ∧ (s.region n).home = s.galleryOf s.cur

/-- The commands that R322's checks come first for, with the register fields that they read beside the selector. -/
noncomputable def regionRows (o : Operands) : List (Instr × List RegField) :=
  [ (.cfgck o, []), (.cfgsw o, []), (.cfged o, [o.b]), (.unbind o, []), (.barr o, []), (.copen o, [o.b]), (.cquota o, [o.b]),
    (.cclose o, []), (.ckill o, []), (.qset o, [o.b]), (.qyld o, []), (.swpol o, [o.b]), (.swpenEnable o, []),
    (.swpenDisable o, []), (.swpx o, [o.b]) ]

/-- The counters of a GAT slot, by PORTW window (R260, R342). -/
def gatCounter (w : Nat) (g : GatCnt) : Nat :=
  match w with
  | 0 => g.bad
  | 1 => g.drop
  | 2 => g.late
  | 3 => g.left
  | 4 => g.purge0
  | _ => g.refill

/-- An AWAIT has taken a token (R344): x[D] holds its tag, the record's first 16 bytes are its tag, its control byte and whether
it came from the inbox, the done register says whether it is an error completion, and the slot goes on. -/
def awaitTook (o : Operands) (s1 t : State) (a : Nat) (tok : Token) (inbox : Bool) : Prop :=
  (o.d ≠ 0 → (t.core s1.cur).rx o.d = tok.tag ∧ (t.core s1.cur).pendingX o.d = false) ∧
    (∀ q, q < 8 → Memory.read (t.localMem s1.cur) (a + q) = tok.tag.extractLsb' (8 * q) 8) ∧
    Memory.read (t.localMem s1.cur) (a + 8) = tok.ctl ∧
    Memory.read (t.localMem s1.cur) (a + 9) = (if inbox then 1 else 0) ∧
    (∀ q, q < 8 → Memory.read (t.localMem s1.cur) (a + 16 + q) = tok.payload.extractLsb' (8 * q) 8) ∧
    doneAtIssue o s1 t 0 (if ctlErr tok.ctl then 1 else 0) ∧ (t.core s1.cur).run = .running ∧ goneOn o s1 t

/-! ### Events of the part and of the outside world -/

/-- The part has sent the given messages, in order, and nothing else. -/
def sends (s t : State) (ms : List Sent) : Prop := t.host.sent = s.host.sent ++ ms

/-- A control write is let through (R459, R460, R475, R476): the port exists, bring-up has opened the space, the other port does not
hold the group of the offset, and the offset names no read-only register and no group that does not exist. -/
def mayWrite (s : State) (port off : Nat) : Prop :=
  port < 2 ∧ 5 ≤ s.host.bootStep ∧ off < 0x700000 ∧ off ≠ 0x100000 ∧
    (off / 0x100000 ≠ 0 → AMap.get 0 s.host.own (off / 0x100000) ≠ 2 - port)

/-- An event of a source, kind and data waits for the ring (R461). -/
def reports (t : State) (src kind data : Nat) : Prop :=
  ∃ e, t.host.events.getLast? = some e ∧ e.src = src ∧ e.kind = kind ∧ e.data = data

/-- A waiting command has completed with a status and a result (R326, R327): it waits no longer; its done register holds the
completion value; without one, and with status 0, a slot that it held goes on. -/
def finished (s t : State) (c : Cmd) (status result : Nat) : Prop :=
  (∀ x ∈ t.cmds, x.id ≠ c.id) ∧
    (c.done ≠ 0 → (t.core c.core).rx c.done = completion status result ∧ (t.core c.core).pendingX c.done = false) ∧
    (c.done = 0 → (s.core c.core).run = .held c.id → status = 0 → (t.core c.core).run = .running)

/-- A slot's firing is over (R30, R157): its slot is empty where nothing that it issued is under way, and issues nothing more
until that has completed. -/
def slotOver (s t : State) (p : Nat) : Prop :=
  ((∀ x ∈ s.z.ops, x.core = some p → x.unserved = true) → t.core p = Core.reset) ∧
    ((∃ x ∈ s.z.ops, x.core = some p ∧ x.unserved = false) → (t.core p).run = .ending)

/-- The issuing firing is over. -/
def firingOver (s t : State) : Prop := slotOver s t s.cur

/-- A token of a tile's context has left on an edge, or waits for the edge in the output stage (R281). -/
def sent (s t : State) (tile ctx e : Nat) (tok : Token) : Prop :=
  (∃ f ∈ t.flights, f.region = (s.tctx tile ctx).region ∧ f.src = (s.tctx tile ctx).ltile ∧ f.edge = e ∧ f.tok = tok) ∨
    tok ∈ AMap.get [] (t.tctx tile ctx).stage e

/-- The arbiter lets a slot of a kind fire a colour's set (R24, R25), and the output stage is empty for the outputs that the firing
writes (R281). -/
def mayIssue (s : State) (tile slot colour kind : Nat) (x : OpSet) (outs : List Nat) : Prop :=
  let c := s.tctx tile (s.activeCtx tile)
  s.slotRuns tile (s.activeCtx tile) = true ∧ AMap.has c.slots slot = true ∧ waKind (c.wordA slot) = kind ∧
    c.nextSet slot colour = some x ∧ s.turnOk c slot colour (c.readyOn slot) = true ∧ c.outsFree slot outs = true

/-- The same for a firing that writes both its outputs. -/
def mayFire (s : State) (tile slot colour kind : Nat) (x : OpSet) : Prop := mayIssue s tile slot colour kind x [0, 1]

/-- A token of a form that an edge carries (R16, R240): a narrow token has 64 bits of payload, and a predicate one bit. -/
def fitsEdge (w : Word) (t : Token) : Prop :=
  (t.wide = false → t.payload.toNat < 2 ^ 64) ∧ (edgePred w = true → t.wide = false ∧ t.payload.toNat < 2)

/-- A set has fired (R249, R264): it waits no longer, and its colour's last firing on the tile is now. -/
def setGone (s t : State) (tile : Nat) (x : OpSet) : Prop :=
  let ctx := s.activeCtx tile
  (∀ y ∈ (t.tctx tile ctx).ready, y.seq ≠ x.seq) ∧ AMap.get 0 (t.tctx tile ctx).lastFire x.colour = s.cycle

/-- An output token of a slot's firing (R281): the tag, the kind, last-of-stream and the payload given, the slot's matching
action, no poison. -/
def outToken (c : TileCtx) (slot : Nat) (x : OpSet) (tag : Word) (kind : Nat) (last wide : Bool) (payload : Nat) : Token :=
  { tag := tag, ctl := mkCtl false false kind last false (waMact (c.wordA slot)), wide := wide, payload := BitVec.ofNat 512 payload,
    clock := x.clock }

/-- Operand k of MAP in a lane (R284): a port's payload, in port order, or the constant where `WORDB` gives it for B or C. -/
def mapArg (a b : Word) (wide : Bool) (x : OpSet) (k lane : Nat) : Nat :=
  if (k = 1 ∧ b.getLsbD 8 = true) ∨ (k = 2 ∧ b.getLsbD 9 = true) then b.toNat / 2 ^ 32 % 2 ^ elemBits (typeOf (waType a))
  else payLane (typeOf (waType a)) wide
    ((x.toks.map (fun y => y.tok.payload.toNat)).getD (if k = 2 ∧ b.getLsbD 8 = true then 1 else k) 0) lane

/-- A slot has an edge on an output, and it carries no predicates. -/
def hasOut (c : TileCtx) (slot which : Nat) : Prop :=
  waOut (c.wordA slot) which ≠ 0xFF ∧ edgePred (c.edge (waOut (c.wordA slot) which)) = false

end Sys2Proof.Claims

/-! ### What each instruction uses (R88, R94 to R99, R103) -/

namespace Sys2Proof.Claims

/-- Pair instructions with one use. -/
def withUse (u : Use) (l : List Instr) : List (Instr × Use) := l.map (fun i => (i, u))

/-- The scalar instructions of every engine, and those of an actor's floating point. -/
def scalarUses (o : Operands) : List (Instr × Use) :=
  integerRows.flatMap (fun r => withUse (use2 o) [r.1 o, r.2.1 o]) ++ withUse (use2 o) ((mulRows o).map Prod.fst ++ [.ext o]) ++
    withUse (use1 o) [.clz o, .ctz o, .pop o, .brev o, .bswap o, .mov o] ++ withUse (use3 o) [.dep o, .sel o, .selz o] ++
    [(.li o, { Use.none with xs := secondField o, xd := some o.d })] ++
    withUse (typedUse (o.a :: typedField o) o.d (typedFault o)) ((floatRows2 o).map Prod.fst) ++
    withUse (typedUse [o.a] o.d (typedFault o)) ((floatRows1 o).map Prod.fst) ++
    withUse (typedUse (o.d :: o.a :: typedField o) o.d (typedFault o)) [.fma o, .fms o] ++
    [(.cvt o, typedUse [o.a] o.d (if o.form = .w96 ∨ 16 ≤ o.b.toNat % 32 ∨ 16 ≤ o.imm.toNat % 32 ∨ o.imm.getLsbD 5 = true ∨
      5 ≤ o.imm.toNat / 2 ^ 10 % 8 then some (exc 0x01 0x01) else none))]

/-- Control flow, waiting, the queue and tag instructions, and the system instructions. -/
noncomputable def controlUses (o : Operands) (s : State) : List (Instr × Use) :=
  withUse { Use.none with xs := [o.a, o.b], steers := true } ((branchRows o).map Prod.fst) ++
    [ (.jmp o, Use.none), (.jal o, { Use.none with xd := some 31 }), (.jr o, { Use.none with xs := [o.a], steers := true }),
      (.loop o, { Use.none with xs := [o.d], xd := some o.d, steers := true }),
      (.waitt o, { Use.none with hold := if o.a = 0 then s.me.pendT != 0 else s.me.pendingX o.a }),
      (.waitq o, { Use.none with
        xs := secondField o, hold := s.waitqCount o < (s.peekSecond o).toNat % 256
        bad := badIf (isActor s.cur && o.a.toNat < 56) }),
      (.endFiring o, { Use.onActor with hold := !s.me.quiet || s.nodeBusy s.cur }),
      (.emit o, { Use.onActor with
        xs := [o.a, o.b], hold := s.pushWaits s.cur (queueOf o.d) 1 false || s.me.pendingX o.d
        bad := badIf (!namesQueue o.d || o.imm.toNat % 4 == 3 || s.outWide s.cur (queueOf o.d)) }),
      (.emitp o, { Use.onActor with
        xs := [o.a, o.b], hold := s.pushWaits s.cur (queueOf o.d) 1 true || s.me.pendingX o.d
        bad := badIf (!namesQueue o.d || s.outWide s.cur (queueOf o.d)) }),
      (.peek o, { Use.onActor with
        xs := secondField o, xd := some o.d, hold := (s.peekToken o ((s.peekSecond o).toNat % 256)).isNone
        bad := badIf (!namesQueue o.a) }),
      (.tagrd o, { Use.onActor with
        xd := some o.d, hold := namesQueue o.a && (s.peekToken o 0).isNone, bad := badIf (!namesQueue o.a && o.a != 0) }),
      (.tagmk o, { Use.onActor with
        xs := [o.a, o.b], xd := some o.d
        bad := if isActor s.cur && (s.firingCtx s.cur).tagw.length ≤ o.imm.toNat % 8 then some (exc 0x01 0x06) else none }) ] ++
    withUse { Use.onSeq with xs := [o.a, o.b], t := o.t } [.syscImageExtent o, .syscSlotEvent o, .syscTimestamp o] ++
    [ (.trap o, Use.none), (.brk o, Use.none), (.eret o, { Use.onSeq with bad := if s.me.trap.act then none else some excIllegal }),
      (.idle o, { Use.none with xs := [o.a] }),
      (.rdsr o, { Use.none with xd := some o.d, bad := sregFault (engineOf s.cur) (sregNum o) }),
      (.wrsr o, { Use.none with xs := [o.a], bad := sregFault (engineOf s.cur) (sregNum o) }) ]

/-- The memory instructions, the copies and the shape registers. -/
def memoryUses (o : Operands) (s : State) : List (Instr × Use) :=
  let loads := memUse o (o.a :: secondField o) (some o.d)
  let stores := memUse o (o.d :: o.a :: secondField o) none
  withUse loads ((loadRows o).map Prod.fst ++ [.ldlB o, .ldlH o, .ldlW o, .ldlD o]) ++
    withUse stores ((storeRows o).map Prod.fst ++ [.stlB o, .stlH o, .stlW o, .stlD o]) ++
    (atomicRows o).map (fun r => (r.1, memUse o (if r.2.1 = 10 then [o.d, o.a, o.b] else [o.a, o.b]) (some o.d))) ++
    withUse (memUse o [] none) [.fence o, .invro o] ++
    [ (.pref o, { Use.none with xs := [o.a], t := o.t }),
      (.waitv o, { memUse o [o.a, o.b] (some o.d) with
        hold := isActor s.cur && 4 ≤ (s.openWaitvs s.cur).length, bad := badIf (6 ≤ o.imm.toNat) }) ] ++
    withUse { memUse o [o.d, o.a, o.b] none with hold := s.engineFull s.cur, bad := badIf (o.t == 0 || o.imm.toNat / 4 != 0) }
      [.cpy o, .cpyf o] ++
    [ (.cpys o, { memUse o [] none with hs := [hreg o.d, hreg o.a], hold := s.engineFull s.cur, bad := badIf (o.t == 0) }),
      (.shld o, { Use.onActor with xs := o.a :: secondField o, hds := [hreg o.d], c := o.c, t := o.t }),
      (.shst o, { Use.onActor with xs := o.a :: secondField o, hs := [hreg o.d], c := o.c, t := o.t }),
      (.shbq o, { Use.onActor with
        xs := [o.b], hds := [hreg o.d], bad := badIf (!namesQueue o.a || 15 < extType o || 5 ≤ extRnd o) }) ]

/-- CPYQ: a pop, where `IMM16`[2] is set, or a push (R230). -/
def queueCopyUse (o : Operands) (s : State) : Use :=
  let pop := o.imm.getLsbD 2
  let actor := isActor s.cur
  { memUse o [o.a, o.b] none with
    hold := s.engineFull s.cur || (actor && (s.queueBusy s.cur pop (queueOf o.d) || (!pop && s.me.pendingX o.d)))
    bad :=
      if o.t == 0 || o.imm.toNat / 16 != 0 || o.imm.getLsbD 1 || !namesQueue o.d || (!pop && !actor) then some excOperand
      else if actor && (if pop then s.inPred s.cur (queueOf o.d) else s.outPred s.cur (queueOf o.d)) then some (exc 0x01 0x05)
      else none }

/-- The vector and mask instructions. -/
def vectorUses (o : Operands) (s : State) : List (Instr × Use) :=
  let masked := { Use.onActor with ms := maskField o }
  let lanes2 := fun (ok : Nat → Bool) =>
    ({ masked with vs := vreg o.a :: vsecondField o, vd := [vreg o.d], bad := vectorBad ok o } : Use)
  let lanes1 := fun (ok : Nat → Bool) => ({ masked with vs := [vreg o.a], vd := [vreg o.d], bad := vectorBad ok o } : Use)
  let one := badIf (extMskd o || !okAll (extType o) || 5 ≤ extRnd o)
  withUse (lanes2 okFI) [.vadd o, .vsub o, .vmul o, .vfma o, .vfms o, .vmin o, .vmax o] ++
    withUse (lanes2 okAll) [.vand o, .vor o, .vxor o, .vsel o] ++ withUse (lanes2 okI) [.vshl o, .vshr o, .vsha o] ++
    [(.vscl o, lanes2 okF), (.vperm o, lanes2 okPerm), (.vmov o, lanes1 okAll)] ++ withUse (lanes1 okFI) [.vabs o, .vneg o] ++
    withUse (lanes1 okF) [.vrnd o, .vexp o, .vexp2f o, .vlog2f o, .vrcp o, .vrsq o] ++
    withUse { Use.onActor with
        vs := vreg o.a :: vsecondField o, ms := maskField o ++ [mreg o.d], mds := [mreg o.d], bad := vectorBad okFI o }
      [.veq o, .vlt o, .vle o, .vun o] ++
    [ (.vcvt o, { masked with
        vs := [vreg o.a], vd := [vreg o.d], bad := badIf (16 ≤ o.b.toNat % 32 || !okAll (extType o) || 5 ≤ extRnd o) }),
      (.vbc o, { masked with xs := if o.form = .w96 then [] else [o.a], vd := [vreg o.d], bad := vectorBad okAll o }),
      (.vslide o, { lanes1 okAll with xs := typedField o }),
      (.viota o, { masked with xs := [o.a], vd := [vreg o.d], bad := vectorBad okI o }),
      (.vins o, { Use.onActor with xs := o.a :: typedField o, vs := [vreg o.d], vd := [vreg o.d], bad := one }),
      (.vxtr o, { Use.onActor with xs := typedField o, xd := some o.d, vs := [vreg o.a], bad := one }) ] ++
    withUse { masked with xd := some o.d, vs := [vreg o.a], bad := vectorBad okFI o } [.vrsum o, .vrmax o, .vrmin o] ++
    withUse { masked with xs := vmemFields o, vd := [vreg o.d], bad := vmemBad false o, c := o.c, t := o.t } [.vldl o, .vld o] ++
    withUse { masked with xs := vmemFields o, vs := [vreg o.d], bad := vmemBad true o, c := o.c, t := o.t } [.vstl o, .vst o] ++
    [ (.vldg o, { masked with xs := [o.a], vs := [vreg o.b], vd := [vreg o.d], bad := gatherBad o, c := o.c, t := o.t }),
      (.vsts o, { masked with xs := [o.a], vs := [vreg o.b, vreg o.d], bad := gatherBad o, c := o.c, t := o.t }),
      (.vqrd o, { masked with
        vd := [vreg o.d], c := o.c, t := o.t
        hold := (s.queueView s.cur (queueOf o.a)).head?.isNone || s.queueBusy s.cur true (queueOf o.a)
        bad := badIf (!namesQueue o.a || !s.inWide s.cur (queueOf o.a) || !okAll (extType o) || 5 ≤ extRnd o) }),
      (.vowr o, { masked with
        vs := [vreg o.a], c := o.c, t := o.t, hold := s.pushWaits s.cur (queueOf o.d) 5 false || s.me.pendingX o.d
        bad := badIf (!namesQueue o.d || !s.outWide s.cur (queueOf o.d) || o.b.toNat % 4 == 3 || !okAll (extType o) || 5 ≤ extRnd o) }),
      (.mnot o, { Use.onActor with ms := [mreg o.a], mds := [mreg o.d] }),
      (.mset o, { Use.onActor with xs := if o.form = .w32 then [o.a] else [], mds := [mreg o.d] }) ] ++
    withUse { Use.onActor with ms := [mreg o.a, mreg o.b], mds := [mreg o.d] } [.mand o, .mor o, .mxor o, .mandn o] ++
    withUse { Use.onActor with ms := [mreg o.a], xd := some o.d } [.mpop o, .mfst o, .mmov o]

/-- CORD, STRM and MX. -/
def unitUses (o : Operands) (s : State) : List (Instr × Use) :=
  let cord := fun (vs : List (BitVec 5)) => ({ Use.onActor with
    actor := inRow0 (tileOf s.cur), vs := vs, vd := [vreg o.d], hold := s.cycle < (s.tile (tileOf s.cur)).cordFree
    bad := badIf (o.imm.toNat < 1 || 40 < o.imm.toNat) } : Use)
  let f := o.imm.toNat % 32
  let stream := fun (fn : Nat) (hs : List RegField) (xd : Option RegField) => ({ Use.onActor with
    hs := hs.map hreg, xd := xd, c := o.c, t := o.t, hold := s.streamHeld fn f hs } : Use)
  let node := fun (xs : List RegField) => ({ Use.onActor with
    xs := xs, c := o.c, t := o.t, hold := s.nodeFull, bad := s.mxOwner } : Use)
  withUse (cord [vreg o.a]) [.cordSin o, .cordCos o, .cordHyp o] ++
    [ (.cordAtn o, cord [vreg o.a, vreg o.b]),
      (.smap o, stream 0 (if f = 7 || f = 8 then [o.d, o.a] else [o.d, o.a, o.b]) none), (.sred o, stream 1 [o.a] (some o.d)),
      (.scvt o, stream 2 [o.d, o.a] none), (.scpy o, stream 3 [o.d, o.a] none),
      (.mxcfg o, { Use.onActor with
        xs := [o.a, o.b], c := o.c, t := o.t, bad := s.mxFree
        hold := isActor s.cur && (if s.myBank.ownedBy s.cur then s.nodeFull else !(s.myBank.owner == .none)) }),
      (.mxzero o, node []), (.mxmsk o, node [o.a, o.b]), (.mxmpb o, node [o.a]),
      (.mxwait o, { Use.onActor with hold := s.nodeBusy s.cur, bad := s.mxOwner }),
      (.mxmul o, { node [o.a, o.b] with
        bad := match s.mxOwner with
          | some e => some e
          | none => badIf (o.imm.toNat / 2 != 0 ||
              (isActor s.cur && o.imm.getLsbD 0 && s.myBank.heldAhead != some (mxcClass s.myBank.wordAhead.1))) }) ] ++
    withUse { node [o.a, o.b] with
        vd := if drnDst o.imm = 2 then drainDests o.d o.imm else [], bad := s.drainBad o
        hold := s.nodeFull || (drnDst o.imm = 1 && (s.queueBusy s.cur false (queueOf o.d) || s.me.pendingX o.d)) }
      [.mxdrnMemory o, .mxdrnQueue o, .mxdrnRegisters o] ++
    [ (.qsstep o, s.qsUse [o.a] o (s.longBad o o.imm.toNat)), (.qsrun o, s.qsUse [] o (s.longBad o o.imm.toNat)),
      (.qsrd o, { s.qsUse [] { o with c := 0, t := 0 } (6 < o.imm.toNat % 16) with xd := some o.d }),
      (.qssav o, s.qsUse [o.a] o (o.imm != 0)) ] ++
    withUse (s.qsUse [o.a] o (s.longBad o (o.imm.toNat / 4) || o.imm.toNat % 4 == 3))
      [.qsmskAnd o, .qsmskCandidates o, .qsmskBeyond o]

/-- The sequencers' commands. -/
noncomputable def commandUses (o : Operands) (s : State) : List (Instr × Use) :=
  let seq := fun (xs : List RegField) => ({ Use.onSeq with xs := xs, c := o.c, t := o.t } : Use)
  let root := fun (xs : List RegField) => ({ seq xs with gallery := false } : Use)
  withUse (seq [o.a]) [.cfgsw o, .cfgck o, .unbind o, .barr o, .cclose o, .ckill o, .qyld o] ++
    withUse (seq [o.a, o.b]) [.cfgldLoad o, .cfgldUnload o, .cfged o, .copen o, .cquota o, .qset o, .swpol o, .swpx o, .tcrd o, .swplg o,
      .lease o, .seedFresh o, .seedExplicit o, .seedReplay o, .seedClear o] ++
    withUse { seq [o.a] with bad := badIf (1 < o.imm.toNat) } [.swpenEnable o, .swpenDisable o] ++
    withUse { seq [o.a] with xd := some o.d } [.samp o, .acpt o] ++ withUse (seq [o.a]) [.cmit o, .unlease o] ++
    [ (.bind o, seq [o.d, o.a, o.b]), (.arm o, { seq [o.a, o.b] with bad := badIf (1 < o.imm.toNat) }),
      (.inj o, { seq [o.d, o.a, o.b] with
        hold := o.form != .w32 && o.md.getLsbD 3 && !s.slotClear s.cur, bad := badIf (15 < o.imm.toNat || o.imm.toNat % 4 = 3) }),
      (.portwReply o, { seq [o.a, o.b] with hold := !s.slotClear s.cur, bad := badIf (15 < o.imm.toNat) }) ] ++
    withUse (windowUse o) [.portwGatcnt o, .portwCompletions o, .portwDiscards o] ++
    withUse { seq [o.a, o.b] with xd := some o.d, bad := badIf (2 < o.imm.toNat) }
      [.awaitCompletion o, .awaitInbox o, .awaitEither o] ++
    withUse { seq [o.d, o.a, o.b] with
        bad := badIf (o.imm.getLsbD 3 || 63 < o.imm.toNat || o.imm.toNat % 8 % 4 = 3) } [.lnchW o, .lnchN o] ++
    withUse (root [o.a, o.b]) [.keyld o, .ifstLock o, .ifstRun o, .ifstStop o, .ifrpt o] ++ [(.keyz o, root [o.a])]

/-- Every instruction of a program that uses a register or waits, but for QSCFG, QSRST and HALT, with what it uses. -/
noncomputable def instrUses (o : Operands) (s : State) : List (Instr × Use) :=
  scalarUses o ++ controlUses o s ++ memoryUses o s ++ withUse (queueCopyUse o s) [.cpyqPush o, .cpyqPop o] ++ vectorUses o s ++
    unitUses o s ++ commandUses o s

/-- QSCFG and QSRST, which wait for a selection channel as well (R386, R402). -/
def channelUses (o : Operands) (s : State) : List (Instr × Use) :=
  let free := s.channelBusy s.cur || (s.ownChannel s.cur).isNone
  [ (.qscfg o, { memUse o [o.a, o.b] none with hold := free }),
    (.qsrst o, { memUse o [o.a] none with
      hold := free || s.spillPending s.cur (s.peekWalk o) || (o.md.getLsbD 3 && s.z.ops.any (fun x => x.party == s.cur))
      bad := badIf (o.imm != 0) }) ]

/-- Why an instruction waits (R94, R96, R98, R149, R230): a condition of its own; a token register that is pending; a scalar source
that is pending, or a queue without a token or with another instruction's copy; a destination that is pending, or a queue with such
a copy, or without space where the push may take place; a vector, mask or shape register that is pending. -/
def waitsFor (s : State) (u : Use) : Prop :=
  u.hold = true ∨ s.me.pendingX u.c = true ∨ s.me.pendingX u.t = true ∨
    (∃ r ∈ u.xs, (isQueue s.cur r = false ∧ s.me.pendingX r = true) ∨
      (isQueue s.cur r = true ∧ (s.queueView s.cur (queueOf r) = [] ∨ s.queueBusy s.cur true (queueOf r) = true))) ∨
    (∃ r, u.xd = some r ∧ (s.me.pendingX r = true ∨ (isQueue s.cur r = true ∧ (s.queueBusy s.cur false (queueOf r) = true ∨
      (s.overRate s.cur (queueOf r) 1 = false ∧ s.outPred s.cur (queueOf r) = false ∧
        (s.firingCtx s.cur).canSend (queueOf r) 1 = false))))) ∨
    (∃ r ∈ u.vs ++ u.vd, s.me.pendV.getLsbD r.toNat = true) ∨ (∃ r ∈ u.ms ++ u.mds, s.me.pendM.getLsbD r.toNat = true) ∨
    ∃ r ∈ u.hs ++ u.hds, s.me.pendH.getLsbD r.toNat = true

/-- Byte `q` of a record of 8-byte words, each least significant byte first (R4); a word beyond the last is zero. -/
def byteOf (ws : List Nat) (q : Nat) : Byte := BitVec.ofNat 8 (ws.getD (q / 8) 0 / 256 ^ (q % 8))

/-- The word of a listed peer in TCRD's record: its count, its logical tile and the valid bit (R430). -/
def trafficWord (e : Traffic) : Nat := e.cnt % 2 ^ 16 + e.peer % 2 ^ 10 * 2 ^ 32 + 2 ^ 63

/-- The word of a swap's record in SWPLG's block (R434). -/
def swapWord (x : SwapLog) : Nat :=
  x.cyc % 2 ^ 16 + x.kind % 2 ^ 2 * 2 ^ 16 + x.pha % 2 ^ 10 * 2 ^ 18 + x.ltb % 2 ^ 10 * 2 ^ 28 + x.lta % 2 ^ 10 * 2 ^ 38 +
    x.gain % 2 ^ 16 * 2 ^ 48

end Sys2Proof.Claims

/-! ### Decoding and encoding -/

/-- O1. A few instructions' words, written out from R86, R101 and R102, decode to the instructions they stand for. -/
def Obligations.SpecWordsDecode : Prop :=
  -- ADD x1, x2, x3: LEN 0, OP 0x00, D 1, A 2, B 3, FN 0
  decodeTableWord 32 (1 <<< 9 + 2 <<< 15 + 3 <<< 21) =
    some (.add { form := .w32, d := 1, a := 2, b := 3, c := 0, md := 0, t := 0, imm := 0, lit := 0 }) ∧
  -- SUB x4, x5, -1: LEN 1, FN 1, IMM16 0xFFFF in bits 31:16 of the second parcel
  decodeTableWord 64 (1 + 4 <<< 9 + 5 <<< 15 + 1 <<< 27 + 0xFFFF <<< 48) =
    some (.sub { form := .w64, d := 4, a := 5, b := 0, c := 0, md := 0, t := 0, imm := 0xFFFF, lit := 0 }) ∧
  -- LI x7, 0x12345678: LEN 2, OP 0x04, FN 1, LIT32 the third parcel
  decodeTableWord 96 (2 + 0x04 <<< 2 + 7 <<< 9 + 1 <<< 27 + 0x12345678 <<< 64) =
    some (.li { form := .w96, d := 7, a := 0, b := 0, c := 0, md := 0, t := 0, imm := 0, lit := 0x12345678 }) ∧
  -- LD.D x9, x10, with C 11, MOD 0xE, T 12 and IMM16 8: OP 0x20, FN 3
  decodeTableWord 64 (1 + 0x20 <<< 2 + 9 <<< 9 + 10 <<< 15 + 3 <<< 27 + 11 <<< 32 + 0xE <<< 38 + 12 <<< 42 + 8 <<< 48) =
    some (.ldD { form := .w64, d := 9, a := 10, b := 0, c := 11, md := 0xE, t := 12, imm := 8, lit := 0 }) ∧
  -- ERET: OP 0x78, FN 3; and OP 0x05 is assigned to nothing
  decodeTableWord 32 (0x78 <<< 2 + 3 <<< 27) =
    some (.eret { form := .w32, d := 0, a := 0, b := 0, c := 0, md := 0, t := 0, imm := 0, lit := 0 }) ∧
  decodeTableWord 32 (0x05 <<< 2) = none

/-- O2. Every well-formed instruction is what its own bytes decode to, with every operand at every value that the encoding
admits, whatever bytes follow (R85, R86, R101, R102). -/
def Obligations.EncodeDecodeRoundTrip : Prop :=
  ∀ (i : Instr) (rest : List Byte), i.wf = true → decode (encodeBytes i ++ rest) = .ok (i, rest)

/-- O3. Where the schedule leaves the turn to a running engine whose code area holds the bytes of an instruction, which
its core's arbiter picks and which has reached no limit of its firing, a step is the instruction's own meaning in that
state, then the arbiter's note of the slot that issued (R149), and what the next cycle brings (R252, R352). On a sequencer
the arbiter picks the slot itself and notes nothing; and while no token waits for the next cycle, the next cycle brings
nothing. -/
def Obligations.StepRunsTheDecodedInstruction : Prop :=
  (∀ (s : State) (bytes rest : List Byte) (i : Instr),
    s.sched = [] → s.pick s.cur = s.cur → s.barred s.cur = false → s.me.run = .running → s.atLimit = none → s.fetch = .ok bytes →
    decode bytes = .ok (i, rest) → step s = andThen (fun t => (s.noteIssue t).newCycle) (exec i s)) ∧
  (∀ (s : State) (p : Nat), isActor p = false → s.pick p = p) ∧
  (∀ (s t : State), isActor s.cur = false → s.atLimit = none ∧ s.noteIssue t = t) ∧
  (∀ (s t : State), isActor s.cur = true → s.noteIssue t = if t.core s.cur = s.me then t
    else { t with lastIssue := AMap.put t.lastIssue (tileOf s.cur) (slotOf s.cur) }) ∧
  (∀ (t : State), t.fresh = [] → t.due = [] → t.flights = [] → t.newCycle = t)

/-- O4. An instruction that cannot be decoded, or a parcel outside the code area, is the exception of R103 and R90: code
0x01, detail 0x00, or code 0x04, detail 0x01, with the address. -/
def Obligations.UndecodableBytesFault : Prop :=
  ∀ (s : State), s.sched = [] → s.pick s.cur = s.cur → s.barred s.cur = false → s.me.run = .running → s.atLimit = none →
    let after := andThen (fun t => (s.noteIssue t).newCycle)
    (∀ bytes e, s.fetch = .ok bytes → decode bytes = .error e → step s = after (s.raise (exc 0x01 0x00))) ∧
    (∀ a, a < 2 ^ 64 → s.fetch = .error a → step s = after (s.raise (excAt 0x04 0x01 a)))

/-! ### The whole machine -/

/-- O5. No instruction and no event stops the machine, but an access of the host or of a peer to a physical address where
no memory is: every other one answers a next state, in every state. -/
def Obligations.OnlyMissingMemoryStops : Prop :=
  ∀ (i : Instr) (s : State),
    (∃ t, exec i s = .next t) ∨ (∃ q, exec i s = .fault (.noMemory q) ∧ s.paExists q = false ∧
      ((∃ port pa bytes, i = .memoryWrite port pa bytes) ∨ (∃ port pa n, i = .memoryRead port pa n) ∨
        (∃ port fn size data cmp clock, i = .peerMemoryRequest port fn q size data cmp clock)))

/-- O6. Every step keeps every memory of the part (the twenty views, the tiles' local memories, the slots' data memories,
the look-up tables, host memory) in its one canonical form. -/
def Obligations.StepKeepsMemoriesCanonical : Prop := keptByStep State.canonical

/-- O7. The part after reset has its memories in canonical form. -/
def Obligations.ResetMemoriesCanonical : Prop := State.reset.canonical

/-- O8. What reset leaves, as the rules give it: every slot of every engine is empty with LDEPTH.D at 1 (R320, R323), no
handler is active (R185), every region is Unloaded (R329), every context Empty (R311), every view lists nothing, no
operation and no write is under way, and NETCTL holds MODE 1, THR 48, WMAX 64 and WMIN 4 (R317). -/
def Obligations.ResetIsEmpty : Prop :=
  (∀ p, (State.reset.core p).run = .empty ∧ (State.reset.core p).ldepth = 1 ∧ (State.reset.core p).trap.act = false) ∧
  (∀ r, (State.reset.region r).state = .unloaded) ∧
  (∀ t c, (State.reset.tctx t c).state = .empty) ∧
  (∀ d, State.reset.view d = View.reset) ∧
  State.reset.z.ops = [] ∧ State.reset.z.writes = [] ∧ State.reset.cmds = [] ∧ State.reset.flights = [] ∧
  State.reset.root.netMode = true ∧ State.reset.root.netThr = 48 ∧ State.reset.root.netWmax = 64 ∧
  State.reset.root.netWmin = 4

/-! ### Issue, waiting and faults -/

/-- O9. An instruction whose fields name ordinary registers, on which nothing is pending, issues when it is legal: it pops
nothing and reads each register's value, x0 as zero (R92 to R99); only the record that the model keeps of what later
requests depend on changes (log entry 9). -/
def Obligations.OrdinaryRegistersIssue : Prop :=
  ∀ (u : Use) (s : State),
    s.legalOn u = true → u.bad = none → u.hold = false → (u.t ≠ 0 → u.xd ≠ some u.t) →
    (∀ r, r ∈ u.xs ∨ u.xd = some r ∨ r = u.c ∨ r = u.t → isQueue s.cur r = false ∧ s.me.pendingX r = false) →
    s.me.pendV = 0 → s.me.pendM = 0 → s.me.pendH = 0 → s.me.arcs = [] →
    u.issues s ∧ u.after s = s.modTrace s.cur (fun t => t.begin u) ∧ ∀ r, u.value s r = s.me.rx r

/-- O10. A source that is a queue-mapped register is popped once, however many fields name it: the first token that the
firing may take leaves the buffer, and the field's value is its payload, or bit 0 of it from a predicate queue (R94,
R151). -/
def Obligations.QueueSourcePopsOnce : Prop :=
  ∀ (u : Use) (s : State) (r : RegField) (h : Held) (rest : List Held),
    isQueue s.cur r = true → u.xs ≠ [] → (∀ x ∈ u.xs, x = r) → u.c = 0 → s.queueView s.cur (queueOf r) = h :: rest →
    u.after s = (s.modTrace s.cur (fun t => t.begin u)).popQueue s.cur (queueOf r) h ∧
      u.value s r = (if s.inPred s.cur (queueOf r) then (if h.tok.payload.getLsbD 0 then 1 else 0) else h.tok.payload.setWidth 64) ∧
      (u.pops s).2.1 = h.tok.ctl.getLsbD 2

/-- O11. While an instruction must wait, for a pending register, a token, space for a push within its rate, or a condition
of its own, the cycle passes and nothing else changes: for every instruction of a program that uses a register or waits,
with what it uses. QSCFG and QSRST of a core that owns no selection channel first record that it waits for one, and wait
in the same way from then on (log entry 85). What an instruction waits for is a condition of its own, or a register or a
queue that it names. HALT's wait stands in the statement on END and HALT (R94, R96, R98, R149, R230, R386). -/
def Obligations.HeldInstructionsWait : Prop :=
  (∀ (o : Operands) (s : State), ∀ row ∈ Claims.instrUses o s,
    s.legalOn row.2 = true → row.2.bad = none → row.2.clash = false → s.queueMisuse row.2 = false → s.waits row.2 = true →
    exec row.1 s = .next { s with cycle := s.cycle + 1 }) ∧
  (∀ (o : Operands) (s : State), ∀ row ∈ Claims.channelUses o s,
    s.legalOn row.2 = true → row.2.bad = none → row.2.clash = false → s.queueMisuse row.2 = false →
    (s.asking s.cur = true ∨ (s.ownChannel s.cur).isSome = true → s.waits row.2 = true →
      exec row.1 s = .next { s with cycle := s.cycle + 1 }) ∧
    (s.ownChannel s.cur = none → s.asking s.cur = false →
      ∃ t, exec row.1 s = .next t ∧ t = { s with cycle := s.cycle + 1, gals := t.gals } ∧
        t.gal (s.galleryOf s.cur) = { s.gal (s.galleryOf s.cur) with
          asks := AMap.put (s.gal (s.galleryOf s.cur)).asks s.cur (s.cycle, s.me.pc) })) ∧
  (∀ (u : Use) (s : State), s.waits u = true ↔ Claims.waitsFor s u)

/-- O12. An instruction that its engine may not execute raises the engine-illegal fault, whatever its operands (R21, R22,
R104): the actor's own on a sequencer, but for a CVT of 96 bits, whose length is illegal first; a sequencer's own on an
actor core, the root's own on a gallery sequencer. -/
def Obligations.WrongEngineFaults : Prop :=
  ∀ (o : Operands) (s : State),
    (isActor s.cur = false → ∀ i ∈ Claims.actorOnly o, (i = .cvt o → o.form ≠ .w96) → exec i s = s.raise (exc 0x02 0x00)) ∧
    (isActor s.cur = true → ∀ i ∈ Claims.sequencerOnly o ++ Claims.rootOnly o, exec i s = s.raise (exc 0x02 0x00)) ∧
    (engineOf s.cur = .gallery → ∀ i ∈ Claims.rootOnly o, exec i s = s.raise (exc 0x02 0x00))

/-- O13. A trap on a sequencer slot saves the return address, the cause and the value, sets ACT, and goes on at TVEC with
bits 1:0 cleared; it changes no x register, no pending register stops being pending, and nothing outside the slot changes
(R181, R185). A trap under an active handler, or before TVEC has been written since load, does not vector: it reports a
double trap to the root and, as HALT does, withdraws the slot's waiting AWAITs and empties the slot once no register is
pending; until then the slot issues nothing (R181, R321, R494). -/
def Obligations.TrapEntryAndDoubleTrap : Prop :=
  (∀ (s : State) (p code tval : Nat) (ret : Word),
     (s.core p).run ≠ .ending → (s.core p).trap.act = false → (s.core p).trap.tvecSet = true → code < 2 ^ 8 → tval < 2 ^ 64 →
     ∃ t, s.trapTo p code tval ret = t ∧ State.onlyCore s t p ∧ t.cycle = s.cycle ∧
       (t.core p).pc = (s.core p).trap.tvec &&& ~~~(3 : Word) ∧ (t.core p).trap.tepc = ret ∧
       (t.core p).trap.code.toNat = code ∧ (t.core p).trap.tval.toNat = tval ∧ (t.core p).trap.act = true ∧
       (t.core p).x = (s.core p).x ∧ (t.core p).pendX = (s.core p).pendX ∧ (t.core p).trap.tvec = (s.core p).trap.tvec ∧
       (t.core p).inbox = (s.core p).inbox ∧ (t.core p).data = (s.core p).data ∧ (t.core p).extents = (s.core p).extents) ∧
  (∀ (s : State) (p code tval : Nat) (ret : Word),
     isActor p = false → (s.core p).run ≠ .ending → (s.core p).trap.act = true ∨ (s.core p).trap.tvecSet = false →
     ∃ t num, s.trapTo p code tval ret = t ∧
       (((s.withdrawAwaits p).core p).quiet = true → (t.core p).run = .empty ∧ (t.core p).inbox = [] ∧
         (t.core p).x = ((s.withdrawAwaits p).core p).x ∧ (t.core p).data = ((s.withdrawAwaits p).core p).data) ∧
       (((s.withdrawAwaits p).core p).quiet = false → (t.core p).run = .ending ∧ (t.core p).x = ((s.withdrawAwaits p).core p).x) ∧
       (∀ c ∈ t.cmds, c.core = p → ∀ src x n d, c.kind ≠ .await src x n d) ∧
       t.host.events = s.host.events ++
         [{ src := sequencerNum p, kind := 5, num := num,
            data := sequencerNum p + slotOf p * 2 ^ 8 + code % 256 * 2 ^ 16 + tval % 2 ^ 64 * 2 ^ 64 }])

/-- O14. ERET under an active handler goes on at TEPC with bits 1:0 cleared and clears ACT; the rest of the slot and of
the part is as it was. Without one it raises the illegal-instruction fault (R181). That the two bits are cleared is the
model's own and no rule of the spec (log entry 69). TRAP, BRK and, on the root, SYSC are traps that return to the next
instruction, with codes 0x10, 0x11 and 0x12 and the number of the instruction as the value; on an actor core TRAP and BRK
are illegal-instruction faults with details 0x02 and 0x03 (R179, R180, R181). -/
def Obligations.TrapInstructions : Prop :=
  (∀ (o : Operands) (s : State), isActor s.cur = false →
     (s.me.trap.act = true →
       let s1 := Use.onSeq.after s
       ∃ t, exec (.eret o) s = .next t ∧ State.onlyCore s1 t s1.cur ∧ t.cycle = s1.cycle + 1 ∧
         t.core s1.cur = { s1.me with pc := s.me.trap.tepc &&& ~~~(3 : Word), trap := { s.me.trap with act := false } }) ∧
     (s.me.trap.act = false → exec (.eret o) s = s.raise (exc 0x01 0x00))) ∧
  (∀ (o : Operands) (s : State),
     (isActor s.cur = false → ∀ row ∈ [(Instr.trap o, 0x10), (.brk o, 0x11)],
       let s1 := Use.none.after s
       exec row.1 s = .next ((s1.trapTo s1.cur row.2 o.imm.toNat (s1.me.nextPc o.form)).tick 1) ∧
       (s.me.run ≠ .ending → s.me.trap.act = false → s.me.trap.tvecSet = true →
         ∃ t, exec row.1 s = .next t ∧ State.onlyCore s1 t s.cur ∧ t.cycle = s.cycle + 1 ∧
           (t.core s.cur).pc = s.me.trap.tvec &&& ~~~(3 : Word) ∧ (t.core s.cur).trap.tepc = s.me.nextPc o.form ∧
           (t.core s.cur).trap.code.toNat = row.2 ∧ (t.core s.cur).trap.tval.toNat = o.imm.toNat ∧
           (t.core s.cur).trap.act = true)) ∧
     (isActor s.cur = true →
       exec (.trap o) s = (Use.none.after s).raise (excAt 0x01 0x02 o.imm.toNat) ∧
       exec (.brk o) s = (Use.none.after s).raise (excAt 0x01 0x03 o.imm.toNat)) ∧
     (engineOf s.cur = .root → ∀ i ∈ [Instr.syscImageExtent o, .syscSlotEvent o, .syscTimestamp o],
       completes i { Use.onSeq with xs := [o.a, o.b], t := o.t }
         (fun _ s1 => (s1.trapTo s1.cur 0x12 o.imm.toNat (s1.me.nextPc o.form)).tick 1)))

/-- O15. An actor's fault ends the firing: it issues nothing more, its slot is empty again, with no register of it left,
at once where nothing that it issued is under way and otherwise when that has completed (`reap`), and its instance has a
verdict: the one that it had, unless that came in this cycle from an event that is later in tag order, or an error
completion that carries the code, the detail, the pc and the tag (R17, R30, R100, R156 to R158). Which of several verdicts
of one cycle stands, the first in tag order and the first that came where the order is a tie, is the model's own and no
rule of the spec (log entry 24). -/
def Obligations.ActorFaultEndsTheFiring : Prop :=
  ∀ (s : State) (e : Exc), isActor s.cur = true → s.me.run ≠ .ending → e.code < 2 ^ 8 → e.detail < 2 ^ 8 →
    ∃ t, s.raise e = .next t ∧ t.cycle = s.cycle + 1 ∧
      Claims.firingOver s t ∧
      ((t.core s.cur).run = .ending → t.drained s.cur = true → (t.reap s.cur).core s.cur = Core.reset) ∧
      (∀ q, q ≠ s.cur → t.core q = s.core q) ∧
      (∀ i, s.inst (s.firingInst s.cur) = some i →
        ∃ j v, t.inst (s.firingInst s.cur) = some j ∧ j.verdict = some v ∧
          (∀ w, i.verdict = some w → w.cycle ≠ s.cycle ∨ w.nest ≤ tagNest s.me.firing.tag → v = w) ∧
          (i.verdict = none ∨ (∃ w, i.verdict = some w ∧ w.cycle = s.cycle ∧ tagNest s.me.firing.tag < w.nest) → v.err = true ∧ v.payload.toNat % 2 ^ 8 = e.code ∧ v.payload.toNat / 2 ^ 8 % 2 ^ 8 = e.detail ∧
            v.payload.extractLsb' 128 64 = s.me.pc ∧ v.payload.extractLsb' 256 64 = s.me.firing.tag))

/-- O16. Where a scalar result goes: a write to x0 is discarded; an ordinary register takes the value, and no other
register changes; a queue-mapped one pushes a narrow token with the firing's tag, control 0 and the value on its edge, and
its push is counted (R92, R94, R174). -/
def Obligations.ScalarResultsGoWhere : Prop :=
  ∀ (s : State) (r : RegField) (v : Word),
    (isQueue s.cur r = false →
      State.onlyCore s (s.putX r v) s.cur ∧ (s.putX r v).cycle = s.cycle ∧ (s.putX r v).me.rx 0 = 0 ∧
      (r ≠ 0 → (s.putX r v).me.rx r = v) ∧ (∀ q, q ≠ r → (s.putX r v).me.rx q = s.me.rx q) ∧
      (s.putX r v).me = { s.me with x := (s.putX r v).me.x }) ∧
    (isQueue s.cur r = true →
      ∃ f tok, (s.putX r v).flights = s.flights ++ [f] ∧ f.region = (s.firingCtx s.cur).region ∧
        f.gen = (s.region (s.firingCtx s.cur).region).gen ∧ f.src = (s.firingCtx s.cur).ltile ∧ f.edge = queueOf r ∧
        f.sent = s.cycle ∧ f.tok = tok ∧ tok.tag = s.me.firing.tag ∧ tok.ctl = 0 ∧ tok.wide = false ∧ tok.payload = v.setWidth 512 ∧
        (s.putX r v).me.x = s.me.x ∧
        (s.putX r v).me.firing.pushes = s.me.firing.pushes.set (queueOf r) (s.me.firing.pushes.getD (queueOf r) 0 + 1))

/-! ### The scalar integer families -/

/-- O17. The eighteen functions of IALU at 64 bits and of IALU.W at 32 bits, the result of the latter sign-extended (R160,
R161): for each, in every form, the result goes to x[D] and the pc moves past the instruction. -/
def Obligations.IntegerArithmetic : Prop :=
  ∀ (row) (_ : row ∈ Claims.integerRows) (o : Operands),
    completes (row.1 o) (Claims.use2 o)
      (fun rd s1 => (s1.putX o.d (row.2.2 64 (rd o.a) (second o rd))).retire o.form) ∧
    completes (row.2.1 o) (Claims.use2 o)
      (fun rd s1 => (s1.putX o.d ((row.2.2 32 ((rd o.a).setWidth 32) ((second o rd).setWidth 32)).signExtend 64)).retire o.form)

/-- O18. IMUL (R162): products by the integer product of the operands, quotients truncating towards zero, with the results
that the rule fixes for a division by zero and for the one overflow. -/
def Obligations.MultiplyAndDivide : Prop :=
  ∀ (o : Operands), ∀ row ∈ Claims.mulRows o,
    completes row.1 (Claims.use2 o) (fun rd s1 => (s1.putX o.d (row.2 (rd o.a) (second o rd))).retire o.form)

/-- O19. IBIT (R163): each result by the bits of the source, in every form. IMOV (R164): MOV copies, LI writes the second
source alone, SEL and SELZ choose by whether x[D] is zero. -/
def Obligations.BitOperationsAndMoves : Prop :=
  ((∀ (o : Operands) (i : Instr), i ∈ [.clz o, .ctz o, .pop o, .brev o, .bswap o] →
     ∀ s, (Claims.use1 o).issues s → ∃ v : Word,
       exec i s = .next ((((Claims.use1 o).after s).putX o.d v).retire o.form) ∧
         Claims.bitResult i ((Claims.use1 o).value s o.a) v) ∧
   (∀ (o : Operands) (s : State), (Claims.use2 o).issues s → ∃ v : Word,
     exec (.ext o) s = .next ((((Claims.use2 o).after s).putX o.d v).retire o.form) ∧
       Claims.extracts ((Claims.use2 o).value s o.a) (second o ((Claims.use2 o).value s)) v) ∧
   (∀ (o : Operands) (s : State), (Claims.use3 o).issues s → ∃ v : Word,
     exec (.dep o) s = .next ((((Claims.use3 o).after s).putX o.d v).retire o.form) ∧
       Claims.deposits ((Claims.use3 o).value s o.d) ((Claims.use3 o).value s o.a) (second o ((Claims.use3 o).value s)) v)) ∧
  (∀ (o : Operands),
     completes (.mov o) (Claims.use1 o) (fun rd s1 => (s1.putX o.d (rd o.a)).retire o.form) ∧
     completes (.li o) { Use.none with xs := secondField o, xd := some o.d }
       (fun rd s1 => (s1.putX o.d (second o rd)).retire o.form) ∧
     completes (.sel o) (Claims.use3 o)
       (fun rd s1 => (s1.putX o.d (if rd o.d = 0 then second o rd else rd o.a)).retire o.form) ∧
     completes (.selz o) (Claims.use3 o)
       (fun rd s1 => (s1.putX o.d (if rd o.d = 0 then rd o.a else second o rd)).retire o.form))

/-- O20. The frame of the integer families: with ordinary registers, a next state differs from the state before in x[D],
in the pc, which is past the instruction, in the time, and in the model's record of what later requests depend on (log
entry 9), and in nothing else: no flag, no other register of any kind, no memory, no other slot (R159). -/
def Obligations.IntegerFrame : Prop :=
  ∀ (o : Operands) (i : Instr) (s t : State), i ∈ Claims.integerInstrs o →
    (∀ r, r ∈ [o.d, o.a, o.b] → isQueue s.cur r = false ∧ s.me.pendingX r = false) →
    exec i s = .next t →
    State.onlyCore s t s.cur ∧ t.cycle = s.cycle + 1 ∧ (∀ r, r ≠ o.d → (t.core s.cur).rx r = s.me.rx r) ∧
      t.core s.cur = { s.me with
        x := (t.core s.cur).x
        pc := s.me.nextPc o.form
        firing := { s.me.firing with trace := (t.core s.cur).firing.trace } }

/-! ### Scalar floating point -/

/-- O21. FALU, FCMP and FRND (R165 to R168): with a legal EXT field and in every form, the result of the FP32 function on
the low 32 bits of the operands goes to x[D], zeros above, and its flags accrue. FABS and FNEG change bit 31 and no flag.
-/
def Obligations.FloatingPoint : Prop :=
  ∀ (o : Operands),
    (∀ row ∈ Claims.floatRows2 o,
      completes row.1 (Claims.typedUse (o.a :: typedField o) o.d (Claims.typedFault o))
        (fun rd s1 => Claims.floatDone o s1 (row.2 (Claims.low (rd o.a)) (Claims.low (Claims.typedB o rd))))) ∧
    (∀ row ∈ Claims.floatRows1 o,
      completes row.1 (Claims.typedUse [o.a] o.d (Claims.typedFault o))
        (fun rd s1 => Claims.floatDone o s1 (row.2 (Claims.low (rd o.a))))) ∧
    (∀ row ∈ [(Instr.fma o, false), (.fms o, true)],
      completes row.1 (Claims.typedUse (o.d :: o.a :: typedField o) o.d (Claims.typedFault o))
        (fun rd s1 => Claims.floatDone o s1 (fFma .fp32 (Claims.roundingOf o) row.2 (Claims.low (rd o.a))
          (Claims.low (Claims.typedB o rd)) (Claims.low (rd o.d)))))

/-- O22. CVT (R168): the source type is B[4:0] and the destination type EXT.ETYPE; a code of 16 or more, and the 96-bit
form, is the illegal-instruction fault with detail 0x01; otherwise the low bits of x[A] are converted, an integer result
is extended by its own signedness, a floating one with zeros, and the flags accrue. -/
def Obligations.Conversion : Prop :=
  ∀ (o : Operands),
    (∀ (src dst : ElemType),
      elemTypeOf (o.b.toNat % 32) = some src → elemTypeOf (o.imm.toNat % 32) = some dst → src ≠ .csp → dst ≠ .csp →
      o.form ≠ .w96 → o.imm.getLsbD 5 = false → o.imm.toNat / 2 ^ 10 % 8 < 5 →
      completes (.cvt o) (Claims.typedUse [o.a] o.d none)
        (fun rd s1 =>
          let r := convert src dst (Claims.roundingOf o) ((rd o.a).toNat % 2 ^ elemBits src)
          ((s1.accrue r.flags).putX o.d
            (if isSignedInt dst then BitVec.ofInt 64 (intValue dst r.bits) else BitVec.ofNat 64 r.bits)).retire o.form)) ∧
    (∀ s : State, isActor s.cur = true → o.form = .w96 ∨ 16 ≤ o.b.toNat % 32 ∨ 16 ≤ o.imm.toNat % 32 →
      exec (.cvt o) s = s.raise (exc 0x01 0x01))

/-- O23. An exact result that its type holds is returned as it is, with no flag, under every rounding mode: for every
float type and every pattern of a finite non-zero value, rounding the value gives the pattern (R64, R69, R71). -/
def Obligations.RepresentableResultsAreExact : Prop :=
  ∀ (t : ElemType) (mode : Rnd) (bits : Nat) (neg : Bool) (man : Nat) (exp : Int),
    isFloatType t = true → bits < 2 ^ elemBits t → decodeFloat (floatFmt t) bits = .fin neg man exp → man ≠ 0 →
    roundFinite t mode neg man exp false = ⟨bits, 0⟩

/-! ### Control flow, waiting and ending -/

/-- O24. The branches (R90, R169): where the relation of x[A] and x[B] holds the pc goes to the target and three cycles
pass; where it does not the pc moves past the instruction and one cycle passes; the core is otherwise as it was. The jumps
(R90, R170): JMP goes to its target, JAL the same with the next instruction's address in x31, JR to the register target;
bits 1:0 of a target are cleared. LOOP (R171): x[D] counts down by one modulo 2^64, and unless it has come to zero the pc
goes to the target. With D = x0 it branches on the value that it computes, -1, which is the model's own and no rule of the
spec (log entry 70). -/
def Obligations.ControlFlow : Prop :=
  (∀ (o : Operands) (s : State), ∀ row ∈ Claims.branchRows o,
     let u : Use := { Use.none with xs := [o.a, o.b], steers := true }
     let s1 := u.after s
     u.issues s →
     ∃ t, exec row.1 s = .next t ∧ State.onlyCore s1 t s1.cur ∧
       (row.2 (u.value s o.a) (u.value s o.b) →
         t.cycle = s1.cycle + 3 ∧ t.core s1.cur = Claims.atPc s1.me (Claims.target s1.me.pc (Claims.offsetOf o))) ∧
       (¬ row.2 (u.value s o.a) (u.value s o.b) →
         t.cycle = s1.cycle + 1 ∧
           t.core s1.cur = Claims.atPc s1.me (s1.me.pc + BitVec.ofNat 64 (Claims.bytesOfForm o.form)))) ∧
  (∀ (o : Operands),
     completes (.jmp o) Use.none
       (fun _ s1 => (s1.modCore s1.cur (fun c => Claims.atPc c (Claims.target c.pc (Claims.offsetOf o)))).tick 1) ∧
     completes (.jal o) { Use.none with xd := some 31 }
       (fun _ s1 => (s1.modCore s1.cur (fun c =>
         Claims.atPc (c.wx 31 (c.pc + BitVec.ofNat 64 (Claims.bytesOfForm o.form)))
           (Claims.target c.pc (Claims.offsetOf o)))).tick 1) ∧
     completes (.jr o) { Use.none with xs := [o.a], steers := true }
       (fun rd s1 => (s1.modCore s1.cur (fun c =>
         Claims.atPc c (Claims.target (rd o.a) (if o.form = .w32 then 0 else Claims.offsetOf o)))).tick 1)) ∧
  (∀ (o : Operands),
     completes (.loop o) { Use.none with xs := [o.d], xd := some o.d, steers := true }
       (fun rd s1 =>
         let n : Word := BitVec.ofInt 64 ((rd o.d).toNat - 1)
         let s2 := s1.putX o.d n
         if n = 0 then s2.retire o.form
         else (s2.modCore s1.cur (fun c => Claims.atPc c (Claims.target s1.me.pc (Claims.offsetOf o)))).tick 1))

/-- O25. WAITT, WAITQ and IDLE (R172, R182): WAITT issues once the register it names, or for x0 every token register, is
no longer pending; WAITQ once the queue or the inbox holds k tokens; IDLE of a count c lets the slot wait c cycles, after
which it goes on past the instruction, and of 0 does not wait. None of them writes a register. An IDLE that has waited its
count, or that an arrival or a completion has ended early, goes on at the next instruction; until then nothing but the
time changes (R182). -/
def Obligations.WaitingAndIdle : Prop :=
  (∀ (o : Operands) (s : State),
     ((o.a = 0 → s.me.pendT = 0) → s.me.pendingX o.a = false →
       exec (.waitt o) s = .next ((Use.none.after s).retire o.form)) ∧
     (∀ r, r = o.a → ((r = 0 ∧ s.me.pendT ≠ 0) ∨ s.me.pendingX r = true) → exec (.waitt o) s = .next (s.tick 1)) ∧
     (let u : Use := { Use.none with xs := secondField o }
      (isActor s.cur = true → 56 ≤ o.a.toNat) → u.issues s →
       (second o (u.value s)).toNat % 256 ≤
         (if isActor s.cur then (s.queueView s.cur (queueOf o.a)).length else s.me.inbox.length) →
       exec (.waitq o) s = .next ((u.after s).retire o.form)) ∧
     (let u : Use := { Use.none with xs := [o.a] }
      let s1 := u.after s
      u.issues s → ∃ t, exec (.idle o) s = .next t ∧ (t.core s1.cur).x = s1.me.x ∧ t.cycle = s1.cycle + 1 ∧
       (u.value s o.a = 0 → t = s1.retire o.form) ∧
       (u.value s o.a ≠ 0 →
         (t.core s1.cur).run = .idle s1.cycle (u.value s o.a).toNat (s1.me.nextPc o.form) false))) ∧
  (∀ (s : State) (p since n : Nat) (next : Word) (woken : Bool), (s.core p).run = .idle since n next woken →
     (woken = true ∨ since + n ≤ s.cycle →
       ∃ t, exec (.idleEnd p) s = .next t ∧ State.onlyCore s t p ∧ t.cycle = s.cycle ∧
         t.core p = { s.core p with run := .running, pc := next }) ∧
     (woken = false → s.cycle < since + n → exec (.idleEnd p) s = .next s))

/-- O26. END and HALT (R99, R153, R173, R344): END waits while a register of the firing is pending or awaits a result, or
the node has an operation of its; then the slot is empty, and of each buffer of the context the tokens that it had
reserved, and no others, are gone. HALT first withdraws the slot's waiting AWAITs, each with 0x2E, after which its x[`D`]
is pending no more; then it waits while a register of the slot is pending, and otherwise the slot is empty with its inbox
gone; its registers and its data memory keep their values (log entry 86). Other slots keep their registers. -/
def Obligations.EndingAProgram : Prop :=
  ∀ (o : Operands) (s : State),
    (isActor s.cur = true → s.me.quiet = true → s.nodeBusy s.cur = false →
      ∃ t, exec (.endFiring o) s = .next t ∧ t.core s.cur = Core.reset ∧ t.cycle = s.cycle + 1 ∧
        (∀ q, q ≠ s.cur → t.core q = s.core q) ∧
        ∀ b, AMap.get [] (t.tctx (tileOf s.cur) s.me.firing.ctx).buffers b =
          (AMap.get [] (s.tctx (tileOf s.cur) s.me.firing.ctx).buffers b).filter (fun h => h.reserved != some (slotOf s.cur))) ∧
    (isActor s.cur = true → s.me.quiet = false ∨ s.nodeBusy s.cur = true → exec (.endFiring o) s = .next (s.tick 1)) ∧
    (isActor s.cur = false →
      ∃ w t, s.withdrawAwaits s.cur = w ∧ exec (.halt o) s = .next t ∧ t.cycle = s.cycle + 1 ∧
        (∀ q, q ≠ s.cur → t.core q = s.core q) ∧
        (∀ c ∈ w.cmds, c ∈ s.cmds ∧ (c.core = s.cur → ∀ src x n d, c.kind ≠ .await src x n d)) ∧
        (∀ c ∈ s.cmds, c ∈ w.cmds ∨ (c.core = s.cur ∧ ∃ src x n d, c.kind = .await src x n d ∧ (w.core s.cur).pendingX d = false)) ∧
        (∀ c ∈ s.cmds, c.core = s.cur → (∃ src x n d, c.kind = .await src x n d) → c.done ≠ 0 →
          (w.core s.cur).rx c.done = completion 0x2E 0 ∧ (w.core s.cur).pendingX c.done = false) ∧
        ((∀ c ∈ s.cmds, c.core ≠ s.cur) → w = s) ∧
        ((w.core s.cur).quiet = true → (t.core s.cur).run = .empty ∧ (t.core s.cur).inbox = [] ∧
          (t.core s.cur).x = (w.core s.cur).x ∧ (t.core s.cur).data = (w.core s.cur).data) ∧
        ((w.core s.cur).quiet = false → t = w.tick 1))

/-! ### Memory -/

/-- O27. LD, ST and AMO (R132, R212 to R216, R219): an aligned access inside an extent that permits it makes one request
of n bytes at the translated address, with the form's scope; a load's and an atomic's register is pending until the value
comes. No byte of any memory changes at issue. -/
def Obligations.MemoryAccessesIssue : Prop :=
  ∀ (o : Operands) (s : State) (pa key : Nat) (stb : Bool),
    (∀ row ∈ Claims.loadRows o,
      let u := Claims.memUse o (o.a :: secondField o) (some o.d)
      let (s1, va) := (u.after s, u.value s o.a + second o (u.value s))
      u.issues s → Claims.deviceOk s1 va.toNat row.2.1 (if row.2.2.2 then .readOnly else .read) pa key stb →
      ∃ t op, exec row.1 s = .next t ∧
        Claims.madeOp o s1 t op
          [Req.make (if row.2.2.2 && stb then .readOnly else .read) va.toNat pa row.2.1 0 key] o.d ∧
        op.sink = .xreg o.d row.2.1 row.2.2.1 ∧ op.result = row.2.1 ∧ Claims.scopeIs o op.scope) ∧
    (∀ row ∈ Claims.storeRows o,
      let u := Claims.memUse o (o.d :: o.a :: secondField o) none
      let (s1, va) := (u.after s, u.value s o.a + second o (u.value s))
      u.issues s → Claims.deviceOk s1 va.toNat row.2 .write pa key stb →
      ∃ t op, exec row.1 s = .next t ∧
        Claims.madeOp o s1 t op
          [Req.make .write va.toNat pa row.2 ((u.value s o.d).toNat % 256 ^ row.2) key] 0 ∧
        op.sink = .discard ∧ op.result = row.2 ∧ Claims.scopeIs o op.scope) ∧
    (∀ row ∈ Claims.atomicRows o,
      let u := Claims.memUse o (if row.2.1 = 10 then [o.d, o.a, o.b] else [o.a, o.b]) (some o.d)
      let (s1, va) := (u.after s, u.value s o.a + amoOffset o)
      u.issues s → Claims.deviceOk s1 va.toNat row.2.2 .atomic pa key stb →
      ∃ t op, exec row.1 s = .next t ∧
        Claims.madeOp o s1 t op [Req.make .atomic va.toNat pa row.2.2 (u.value s o.b).toNat key] o.d ∧
        op.amo = row.2.1 ∧ op.sink = .xreg o.d row.2.2 false ∧ Claims.scopeIs o op.scope)

/-- O28. A misaligned scalar access raises the misaligned-access fault, and only that, wherever the address lies; an
aligned one that no extent permits raises the extent-violation fault; both with the address (R132, R211). -/
def Obligations.MemoryAccessFaults : Prop :=
  ∀ (o : Operands) (s : State),
    (∀ row ∈ Claims.loadRows o,
      let u := Claims.memUse o (o.a :: secondField o) (some o.d)
      let (s1, va) := (u.after s, u.value s o.a + second o (u.value s))
      u.issues s →
      (va.toNat % row.2.1 ≠ 0 → exec row.1 s = s1.raise (excAt 0x03 0x00 va.toNat)) ∧
      (va.toNat % row.2.1 = 0 →
        s1.translate (s1.extentsOf s1.cur) va.toNat row.2.1 (if row.2.2.2 then .readOnly else .read) = none →
        exec row.1 s = s1.raise (excAt 0x04 0x00 va.toNat))) ∧
    (∀ row ∈ Claims.storeRows o,
      let u := Claims.memUse o (o.d :: o.a :: secondField o) none
      let (s1, va) := (u.after s, u.value s o.a + second o (u.value s))
      u.issues s →
      (va.toNat % row.2 ≠ 0 → exec row.1 s = s1.raise (excAt 0x03 0x00 va.toNat)) ∧
      (va.toNat % row.2 = 0 → s1.translate (s1.extentsOf s1.cur) va.toNat row.2 .write = none →
        exec row.1 s = s1.raise (excAt 0x04 0x00 va.toNat))) ∧
    (∀ row ∈ Claims.atomicRows o,
      let u := Claims.memUse o (if row.2.1 = 10 then [o.d, o.a, o.b] else [o.a, o.b]) (some o.d)
      let (s1, va) := (u.after s, u.value s o.a + amoOffset o)
      u.issues s →
      (va.toNat % row.2.2 ≠ 0 → exec row.1 s = s1.raise (excAt 0x03 0x00 va.toNat)) ∧
      (va.toNat % row.2.2 = 0 → s1.translate (s1.extentsOf s1.cur) va.toNat row.2.2 .atomic = none →
        exec row.1 s = s1.raise (excAt 0x04 0x00 va.toNat)))

/-- O29. LDL and STL (R125, R217, R218): at an aligned address inside the firing's area or its slice, or in a slot's data
memory, the bytes are read at once, little-endian and sign-extended, or written at once; a store changes no other byte of
that memory and no other memory. -/
def Obligations.LocalMemory : Prop :=
  ∀ (o : Operands) (s : State),
    (∀ row ∈ [(Instr.ldlB o, 1), (.ldlH o, 2), (.ldlW o, 4), (.ldlD o, 8)],
      completesIf row.1 (Claims.memUse o (o.a :: secondField o) (some o.d))
        (fun rd s1 => s1.localFault s1.cur (rd o.a + second o rd) row.2 row.2 true = none)
        (fun rd s1 =>
          let v := s1.localRead s1.cur (rd o.a + second o rd).toNat row.2
          ((s1.complete s1.cur o.t 0 row.2).putX o.d
            (BitVec.ofInt 64 (if v.testBit (8 * row.2 - 1) then (v : Int) - 256 ^ row.2 else v))).retire o.form)) ∧
    (∀ row ∈ [(Instr.stlB o, 1), (.stlH o, 2), (.stlW o, 4), (.stlD o, 8)],
      let u := Claims.memUse o (o.d :: o.a :: secondField o) none
      let (s1, a) := (u.after s, u.value s o.a + second o (u.value s))
      u.issues s → s1.localFault s1.cur a row.2 row.2 false = none → Memory.wf (s1.localMem s1.cur) = true →
      ∃ t, exec row.1 s = .next t ∧ t.z = s1.z ∧ t.cycle = s1.cycle + 1 ∧
        (∀ q, q < row.2 →
          Memory.read (t.localMem s1.cur) (a.toNat + q) = BitVec.ofNat 8 ((u.value s o.d).toNat / 256 ^ q)) ∧
        (∀ q, q < a.toNat ∨ a.toNat + row.2 ≤ q →
          Memory.read (t.localMem s1.cur) q = Memory.read (s1.localMem s1.cur) q) ∧
        (∀ p, p ≠ s1.cur → t.core p = s1.core p) ∧
        (∀ k, k ≠ tileOf s1.cur ∨ isActor s1.cur = false → t.tile k = s1.tile k))

/-- O30. FENCE, INVRO, PREF and WAITV (R220 to R224): FENCE makes a fence of the form's scope; INVRO drops the read-only
entries of the firing's colour, or a sequencer's whole gallery's, at issue; PREF never faults, and outside every readable
extent completes with status 0x01; WAITV makes a read with a condition, its register pending until the condition holds. -/
def Obligations.OrderingInstructions : Prop :=
  ∀ (o : Operands) (s : State),
    (let u := Claims.memUse o [] none
     u.issues s → ∃ t op, exec (.fence o) s = .next t ∧
      Claims.madeOp o (u.after s) t op [Req.make .fence 0 0 0 0 0] 0 ∧ op.isFence = true ∧ Claims.scopeIs o op.scope) ∧
    completes (.invro o) (Claims.memUse o [] none)
      (fun _ s1 => ((s1.roDrop (s1.galleryOf s1.cur)
        (fun e => !isActor s1.cur || e.col == s1.colourTag s1.cur)).complete s1.cur o.t 0 0).retire o.form) ∧
    (let u : Use := { Use.none with xs := [o.a], t := o.t }
     let s1 := u.after s
     let va := (u.value s o.a + o.imm.signExtend 64).toNat / 64 * 64
     u.issues s →
      (s1.translate (s1.extentsOf s1.cur) va 64 .read = none →
        exec (.pref o) s = .next ((s1.complete s1.cur o.t 0x01 0).retire o.form)) ∧
      (∀ r, s1.translate (s1.extentsOf s1.cur) va 64 .read = some r → (s1.view (domainOf s1.cur)).poisoned r.1 = false →
        ∃ s2 : State, exec (.pref o) s = .next ((s2.complete s1.cur o.t 0 0).retire o.form) ∧ s2.z.views = s1.z.views ∧
          s2.cores = s1.cores)) ∧
    (∀ pa key stb,
      let u := { Claims.memUse o [o.a, o.b] (some o.d) with hold := decide (isActor s.cur ∧ 4 ≤ (s.openWaitvs s.cur).length) }
      let (s1, va) := (u.after s, u.value s o.a)
      o.imm.toNat < 6 → u.issues s → Claims.deviceOk s1 va.toNat 8 .read pa key stb →
      ∃ t op, exec (.waitv o) s = .next t ∧ Claims.madeOp o s1 t op [Req.make .read va.toNat pa 8 0 key] o.d ∧
        op.cond = some o.imm.toNat ∧ op.cmp = (u.value s o.b).toNat ∧ op.sink = .xreg o.d 8 false ∧ op.result = 8)

/-- O31. The copies (R225 to R231): with a done register, a legal space field and a free place in the copy engine, a copy
of no length completes at once with status 0 and result 0; any other is put in flight with its engine as the party, and
its done register is pending. -/
def Obligations.CopiesIssue : Prop :=
  ∀ (o : Operands) (s : State), o.t ≠ 0 → s.engineFull s.cur = false →
    (∀ i ∈ [Instr.cpy o, .cpyf o],
      let u := Claims.memUse o [o.d, o.a, o.b] none
      let (s1, n) := (u.after s, (u.value s o.b).toNat)
      o.imm.toNat < 4 → u.issues s →
      (n = 0 → exec i s = .next ((s1.complete s1.cur o.t 0 0).retire o.form)) ∧
      (0 < n → n < 2 ^ 32 → ∃ t, exec i s = .next t ∧ Claims.copyStarted o s1 t n)) ∧
    (let u := { Claims.memUse o [] none with hs := [hreg o.d, hreg o.a] }
     let s1 := u.after s
     let (hd, ha) := (s1.me.rh (hreg o.d), s1.me.rh (hreg o.a))
     u.issues s → recordBad hd = false → recordBad ha = false → recSpace hd ≠ 2 → recSpace ha ≠ 2 →
      recType hd = recType ha → recCount hd = recCount ha →
      (recCount ha = 0 → exec (.cpys o) s = .next ((s1.complete s1.cur o.t 0 0).retire o.form)) ∧
      (0 < recCount ha → ∃ t, exec (.cpys o) s = .next t ∧ Claims.copyStarted o s1 t (recCount ha))) ∧
    (∀ row ∈ [(Instr.cpyqPush o, false), (.cpyqPop o, true)],
      let q := queueOf o.d
      let u := { Claims.memUse o [o.a, o.b] none with
        hold := isActor s.cur && (s.queueBusy s.cur row.2 q || (!row.2 && s.me.pendingX o.d)) }
      let (s1, n) := (u.after s, (u.value s o.b).toNat)
      let unit := if isActor s1.cur && (if row.2 then s1.inWide s1.cur q else s1.outWide s1.cur q) then 64 else 8
      o.imm.getLsbD 2 = row.2 → o.imm.toNat < 16 → o.imm.getLsbD 1 = false → 56 ≤ o.d.toNat →
      (row.2 = false → isActor s.cur = true ∧ s1.overRate s1.cur q (n / unit) = false) →
      (isActor s.cur = true → (if row.2 then s.inPred s.cur q else s.outPred s.cur q) = false) →
      u.issues s → n % unit = 0 → 0 < n → ∃ t, exec row.1 s = .next t ∧ Claims.copyStarted o s1 t n)

/-- O32. EMIT, EMITP, PEEK, TAGRD and TAGMK (R94, R174 to R177): what token is pushed, with the firing's colour and
context in its tag; what is read of a queue without popping; and the tag that is built field by field. That PEEK and TAGRD
leave out the tokens that another slot's firing has reserved is the model's own and no rule of the spec (log entry 72). -/
def Obligations.QueueAndTagInstructions : Prop :=
  ∀ (o : Operands) (s : State), isActor s.cur = true →
    (∀ row ∈ [(Instr.emit o, false), (.emitp o, true)],
      let u : Use := { Use.none with gallery := false, root := false, xs := [o.a, o.b] }
      let (s1, rd, n) := (u.after s, u.value s, queueOf o.d)
      56 ≤ o.d.toNat → s.outWide s.cur n = false → s.canPush s.cur n 1 = true → s.me.pendingX o.d = false → (row.2 = false → o.imm.toNat % 4 ≠ 3) →
      u.issues s → s1.overRate s1.cur n 1 = false → s1.outPred s1.cur n = row.2 →
      ∃ tok, exec row.1 s = .next ((s1.pushQueue s1.cur n tok).retire o.form) ∧ tok.wide = false ∧
        tok.tag.toNat = s1.me.firing.tag.toNat / 2 ^ 52 * 2 ^ 52 + (rd o.b).toNat % 2 ^ 52 ∧
        tok.payload.toNat = (if row.2 then (rd o.a).toNat % 2 else (rd o.a).toNat) ∧
        ctlMact tok.ctl = (if row.2 then 0 else o.imm.toNat % 4) ∧
        ctlLast tok.ctl = (if row.2 then false else o.imm.getLsbD 2) ∧ ctlPoison tok.ctl = false ∧
        ctlKind tok.ctl = (if row.2 then 1 else 0)) ∧
    (let u : Use := { Use.none with gallery := false, root := false, xs := secondField o, xd := some o.d }
     let b := second o (u.value s)
     ∀ h, 56 ≤ o.a.toNat → u.issues s → (s.queueView s.cur (queueOf o.a))[b.toNat % 256]? = some h →
      exec (.peek o) s = .next (((u.after s).putX o.d
        (if b.getLsbD 8 then h.tok.ctl.setWidth 64 else h.tok.payload.setWidth 64)).retire o.form)) ∧
    (let u : Use := { Use.none with gallery := false, root := false, xd := some o.d }
     u.issues s →
      (o.a = 0 → exec (.tagrd o) s = .next (((u.after s).putX o.d s.me.firing.tag).retire o.form)) ∧
      (∀ h rest, 56 ≤ o.a.toNat → s.queueView s.cur (queueOf o.a) = h :: rest →
        exec (.tagrd o) s = .next (((u.after s).putX o.d h.tok.tag).retire o.form))) ∧
    (let u : Use := { Use.none with gallery := false, root := false, xs := [o.a, o.b], xd := some o.d }
     let (s1, rd, k) := (u.after s, u.value s, o.imm.toNat % 8)
     let tagw := (s.firingCtx s.cur).tagw
     u.issues s →
      (k < tagw.length → tagw.sum ≤ 52 →
        exec (.tagmk o) s = .next ((s1.putX o.d
          (Claims.builtTag (52 - (tagw.take (k + 1)).sum) (tagw.getD k 0) (rd o.a) (rd o.b) s1.me.firing.tag)).retire o.form)) ∧
      (tagw.length ≤ k → exec (.tagmk o) s = s.raise (exc 0x01 0x06)))

/-! ### Vectors and masks -/

/-- O33. The vector instructions that work lane by lane (R187 to R191, R194, R195, R197): with an accepted type, each
active lane of v[D] takes the function of the lanes of the sources, every other lane keeps its value, and the active
lanes' flags accrue. -/
def Obligations.VectorLanes : Prop :=
  ∀ (o : Operands) (s : State) (t : ElemType), elemTypeOf (o.imm.toNat % 32) = some t →
    (∀ row ∈ Claims.vecRows2 o,
      let u := Claims.vecUse o row.2.1 [] (o.a :: Claims.vecB o) [o.d]
      let s1 := u.after s
      u.issues s → ∃ s2, exec row.1 s = .next s2 ∧
        Claims.lanesDone o t s1 (fun i => row.2.2 (Claims.roundingOf o) t
          (Claims.elem t (s1.me.rv (o.a.extractLsb' 0 5)) i) (Claims.elem2 o t s1 i)
          (Claims.elem t (s1.me.rv (o.d.extractLsb' 0 5)) i)) s2) ∧
    (∀ row ∈ Claims.vecRows1 o,
      let u := Claims.vecUse o row.2.1 [] [o.a] [o.d]
      let s1 := u.after s
      u.issues s → ∃ s2, exec row.1 s = .next s2 ∧
        Claims.lanesDone o t s1 (fun i => row.2.2 (Claims.roundingOf o) t
          (Claims.elem t (s1.me.rv (o.a.extractLsb' 0 5)) i)) s2)

/-- O34. The moves of lanes (R195): VBC, VPERM, VSLIDE and VIOTA give each active lane its value; VSEL takes each lane of
A or of B by the mask; VINS changes one lane; VXTR extends one lane into x[D]. -/
def Obligations.VectorMoves : Prop :=
  ∀ (o : Operands) (s : State) (t : ElemType), elemTypeOf (o.imm.toNat % 32) = some t →
    (let u := Claims.vecUse o Claims.typesAll (if o.form = .w96 then [] else [o.a]) [] [o.d]
     let s1 := u.after s
     u.issues s → ∃ s2, exec (.vbc o) s = .next s2 ∧
      Claims.lanesDone o t s1 (fun _ =>
        ⟨(if o.form = .w96 then o.lit.toNat else (u.value s o.a).toNat) % 2 ^ elemBits t, 0⟩) s2) ∧
    (let u := Claims.vecUse o okPerm [] (o.a :: Claims.vecB o) [o.d]
     let s1 := u.after s
     u.issues s → ∃ s2, exec (.vperm o) s = .next s2 ∧
      Claims.lanesDone o t s1 (fun i =>
        ⟨Claims.elem t (s1.me.rv (o.a.extractLsb' 0 5)) (Claims.elem2 o t s1 i % laneCount t), 0⟩) s2) ∧
    (let u := Claims.vecUse o Claims.typesAll (Claims.vecB o) [o.a] [o.d]
     let s1 := u.after s
     u.issues s → ∃ s2, exec (.vslide o) s = .next s2 ∧
      Claims.lanesDone o t s1 (fun i =>
        let j : Int := i + (if o.form = .w96 then o.lit.toInt else (u.value s o.b).toInt)
        ⟨if 0 ≤ j ∧ j < laneCount t then Claims.elem t (s1.me.rv (o.a.extractLsb' 0 5)) j.toNat else 0, 0⟩) s2) ∧
    (let u := Claims.vecUse o Claims.typesI [o.a] [] [o.d]
     let s1 := u.after s
     u.issues s → ∃ s2, exec (.viota o) s = .next s2 ∧
      Claims.lanesDone o t s1 (fun i => ⟨((u.value s o.a).toNat + i) % 2 ^ elemBits t, 0⟩) s2) ∧
    (let u := Claims.vecUse o Claims.typesAll [] (o.a :: Claims.vecB o) [o.d]
     let s1 := u.after s
     u.issues s → ∃ s2, exec (.vsel o) s = .next s2 ∧ State.onlyCore s1 s2 s1.cur ∧
      ∀ i, i < laneCount t → Claims.laneOf t ((s2.core s1.cur).rv (o.d.extractLsb' 0 5)) i =
        if Claims.active o t s1 i then Claims.elem t (s1.me.rv (o.a.extractLsb' 0 5)) i else Claims.elem2 o t s1 i) ∧
    (let u := Claims.vecUse o Claims.typesAll (o.a :: Claims.vecB o) [o.d] [o.d]
     let s1 := u.after s
     let n := (if o.form = .w96 then o.lit.toNat else (u.value s o.b).toNat) % laneCount t
     o.imm.getLsbD 5 = false → u.issues s → ∃ s2, exec (.vins o) s = .next s2 ∧ State.onlyCore s1 s2 s1.cur ∧
      ∀ i, i < laneCount t → Claims.laneOf t ((s2.core s1.cur).rv (o.d.extractLsb' 0 5)) i =
        if i = n then (u.value s o.a).toNat % 2 ^ elemBits t else Claims.laneOf t (s1.me.rv (o.d.extractLsb' 0 5)) i) ∧
    (let u := { Claims.vecUse o Claims.typesAll (Claims.vecB o) [o.a] [] with xd := some o.d }
     let s1 := u.after s
     let n := (if o.form = .w96 then o.lit.toNat else (u.value s o.b).toNat) % laneCount t
     let e := Claims.elem t (s1.me.rv (o.a.extractLsb' 0 5)) n
     o.imm.getLsbD 5 = false → u.issues s → exec (.vxtr o) s = .next ((s1.putX o.d
      (if isSignedInt t then BitVec.ofInt 64 (intValue t e) else BitVec.ofNat 64 e)).retire o.form))

/-- O35. VCVT, and the comparisons (R192, R193): lanes below the smaller lane count are converted where they are active
and lanes above are zero whatever the mask, and the flags of the active lanes accrue; a comparison writes the relation's
bit for each active lane or pair of lanes. -/
def Obligations.VectorConversionsAndComparisons : Prop :=
  ∀ (o : Operands) (s : State) (t : ElemType), elemTypeOf (o.imm.toNat % 32) = some t →
    (∀ src, elemTypeOf (o.b.toNat % 32) = some src → src ≠ .csp →
      let u := Claims.vecUse o Claims.typesAll [] [o.a] [o.d]
      let s1 := u.after s
      let n := min (laneCount src) (laneCount t)
      let res := fun i => convertLane src t (Claims.roundingOf o) (Claims.elem src (s1.me.rv (o.a.extractLsb' 0 5)) i)
      u.issues s → ∃ s2, exec (.vcvt o) s = .next s2 ∧ State.onlyCore s1 s2 s1.cur ∧
        (∀ k, (s2.core s1.cur).firing.fflags.getLsbD k = (s1.me.firing.fflags.getLsbD k ||
          (List.range n).any (fun i => Claims.active o t s1 i && (res i).flags.getLsbD k))) ∧
        ∀ i, i < laneCount t → Claims.laneOf t ((s2.core s1.cur).rv (o.d.extractLsb' 0 5)) i =
          if n ≤ i then 0
          else if Claims.active o t s1 i then
            (res i).bits % 2 ^ laneBits t
          else Claims.laneOf t (s1.me.rv (o.d.extractLsb' 0 5)) i) ∧
    (∀ row ∈ Claims.compareRows o,
      let u := { Claims.vecUse o Claims.typesFI [] (o.a :: Claims.vecB o) [] with
        ms := (if o.imm.getLsbD 5 then [o.imm.extractLsb' 6 4] else []) ++ [o.d.extractLsb' 0 4]
        mds := [o.d.extractLsb' 0 4] }
      let s1 := u.after s
      let res := fun i => Claims.compareRes row.2.1 row.2.2 t (Claims.elem t (s1.me.rv (o.a.extractLsb' 0 5)) i)
        (Claims.elem2 o t s1 i)
      u.issues s → ∃ m s2, exec row.1 s = .next s2 ∧ Claims.maskDone o t s1 (fun i => (res i).bits == 1) m ∧
        State.onlyCore s1 s2 s1.cur ∧ (s2.core s1.cur).m = (s1.me.wm (o.d.extractLsb' 0 4) m).m ∧
        (s2.core s1.cur).v = s1.me.v ∧ (s2.core s1.cur).x = s1.me.x ∧
        (∀ k, (s2.core s1.cur).firing.fflags.getLsbD k =
          (s1.me.firing.fflags.getLsbD k ||
            (List.range (laneCount t)).any (fun i => Claims.active o t s1 i && (res i).flags.getLsbD k))))

/-- O36. The reductions (R196): the sum of an integer type's active lanes is exact and does not depend on the tree; the
greatest or the least of them is one of them and bounds them all; with no active lane the result is the rule's empty
value. On a float type the result is the fixed pairwise tree's, and its nodes' flags accrue: of FP32 additions over the
lanes widened to FP32, with a narrower type's NaN quieted (log entry 53), or of MaxNum or MinNum over the lanes as they
are. The masks (R204): the bitwise functions of m[A] and m[B], the count and the first of m[A]'s bits in x[D], the copy,
and the write of a mask; m0 reads as all ones and a write to it is discarded. -/
def Obligations.ReductionsAndMasks : Prop :=
  (∀ (o : Operands) (s : State) (t : ElemType), elemTypeOf (o.imm.toNat % 32) = some t →
     let u := { Claims.vecUse o Claims.typesFI [] [o.a] [] with xd := some o.d }
     let s1 := u.after s
     let lane := fun i => Claims.elem t (s1.me.rv (o.a.extractLsb' 0 5)) i
     let vals := ((List.range (laneCount t)).filter (Claims.active o t s1)).map (fun i => intValue t (lane i))
     u.issues s →
     (isIntType t = true →
       exec (.vrsum o) s = .next ((s1.putX o.d (BitVec.ofInt 64 vals.sum)).retire o.form) ∧
       (∃ v : Int, exec (.vrmax o) s = .next ((s1.putX o.d (BitVec.ofInt 64 v)).retire o.form) ∧ (∀ x ∈ vals, x ≤ v) ∧
         (vals ≠ [] → v ∈ vals) ∧ (vals = [] → v = (intRange t).1)) ∧
       (∃ v : Int, exec (.vrmin o) s = .next ((s1.putX o.d (BitVec.ofInt 64 v)).retire o.form) ∧ (∀ x ∈ vals, v ≤ x) ∧
         (vals ≠ [] → v ∈ vals) ∧ (vals = [] → v = (intRange t).2))) ∧
     (isFloatType t = true → ∀ k, laneCount t = 2 ^ k →
       let some_ := fun (f : Nat → FRes) (i : Nat) => if Claims.active o t s1 i then some (f (lane i)) else none
       let done := fun (r : FRes) => (Host.Outcome.next (((s1.accrue r.flags).putX o.d (BitVec.ofNat 64 r.bits)).retire o.form) : Out)
       exec (.vrsum o) s = done ((Claims.tree (Claims.treeNode (fAdd .fp32 (Claims.roundingOf o))) k
         (some_ (fun x => if t = .fp32 then ⟨x, 0⟩ else convert t .fp32 .rne x))).getD ⟨0, 0⟩) ∧
       ∀ row ∈ [(Instr.vrmax o, true), (.vrmin o, false)],
         exec row.1 s = done ((Claims.tree (Claims.treeNode (fMinMax t row.2)) k (some_ (fun x => ⟨x, 0⟩))).getD
           ⟨infBits (floatFmt t) + (if row.2 then 2 ^ (elemBits t - 1) else 0), 0⟩))) ∧
  (∀ (o : Operands) (s : State),
     let (a, b, d) := (o.a.extractLsb' 0 4, o.b.extractLsb' 0 4, o.d.extractLsb' 0 4)
     let use := fun (ms : List (BitVec 4)) => { Use.none with gallery := false, root := false, ms := ms, mds := [d] }
     let wrote := fun (s1 : State) (v : Word) => (s1.modCore s1.cur (fun c => c.wm d v)).retire o.form
     completes (.mand o) (use [a, b]) (fun _ s1 => wrote s1 (s1.me.rm a &&& s1.me.rm b)) ∧
     completes (.mor o) (use [a, b]) (fun _ s1 => wrote s1 (s1.me.rm a ||| s1.me.rm b)) ∧
     completes (.mxor o) (use [a, b]) (fun _ s1 => wrote s1 (s1.me.rm a ^^^ s1.me.rm b)) ∧
     completes (.mandn o) (use [a, b]) (fun _ s1 => wrote s1 (s1.me.rm a &&& ~~~(s1.me.rm b))) ∧
     completes (.mnot o) (use [a]) (fun _ s1 => wrote s1 (~~~(s1.me.rm a))) ∧
     (let u : Use := { Use.none with gallery := false, root := false, ms := [a], xd := some o.d }
      let s1 := u.after s
      let m := s1.me.rm a
      u.issues s →
       exec (.mpop o) s = .next ((s1.putX o.d
         (BitVec.ofNat 64 ((List.range 64).filter (fun i => m.getLsbD i)).length)).retire o.form) ∧
       (∃ v : Word, exec (.mfst o) s = .next ((s1.putX o.d v).retire o.form) ∧ Claims.bitResult (.ctz o) m v) ∧
       exec (.mmov o) s = .next ((s1.putX o.d m).retire o.form)) ∧
     completes (.mset o)
       { Use.none with gallery := false, root := false, xs := if o.form = .w32 then [o.a] else [], mds := [d] }
       (fun rd s1 => wrote s1 (match o.form with
         | .w32 => rd o.a
         | .w64 => o.imm.setWidth 64
         | .w96 => o.lit.setWidth 64)) ∧
     (∀ c : Core, c.rm 0 = BitVec.allOnes 64 ∧ ∀ v, c.wm 0 v = c))

/-- O37. CORD (R199): on a tile of row 0, with a count from 1 to 40 and the unit free, the sixteen lanes take the values
of the model's SIN, COS, ATN and HYP, with the exact results and the invalid ones that the rule names; which value within
the rule's bound every other result is, is the part's own choice (log entry 20). The unit is busy for the count and four
cycles; off row 0 it is the engine-illegal fault. -/
def Obligations.CordicUnit : Prop :=
  ∀ (o : Operands) (s : State), isActor s.cur = true →
    (∀ row ∈ [(Instr.cordSin o, false, fun n a (_ : Nat) => cordTrig false n a),
        (.cordCos o, false, fun n a _ => cordTrig true n a), (.cordAtn o, true, cordAtan), (.cordHyp o, false, fun n a _ => cordHyp n a)],
      let (a, b, d) := (o.a.extractLsb' 0 5, o.b.extractLsb' 0 5, o.d.extractLsb' 0 5)
      let u : Use := { Use.none with
        gallery := false, root := false, vs := a :: (if row.2.1 then [b] else []), vd := [d] }
      let s1 := u.after s
      (inRow0 (tileOf s.cur) = true → 1 ≤ o.imm.toNat → o.imm.toNat ≤ 40 → (s.tile (tileOf s.cur)).cordFree ≤ s.cycle →
        u.issues s → ∃ t, exec row.1 s = .next t ∧
          (∀ i, i < 16 → Claims.laneOf .fp32 ((t.core s1.cur).rv d) i =
            (row.2.2 o.imm.toNat (Claims.elem .fp32 (s1.me.rv a) i) (Claims.elem .fp32 (s1.me.rv b) i)).bits % 2 ^ 32) ∧
          (t.tile (tileOf s.cur)).cordFree = s1.cycle + o.imm.toNat + 4 ∧ t.z = s1.z) ∧
      (inRow0 (tileOf s.cur) = false → exec row.1 s = s.raise (exc 0x02 0x00))) ∧
    (∀ n z, z ∈ [0, 0x80000000] → cordTrig false n z = ⟨z, 0⟩ ∧ cordTrig true n z = ⟨0x3F800000, 0⟩ ∧ cordHyp n z = ⟨z, 0⟩ ∧
      ∀ b, b < 0x7F800000 → cordAtan n z b = ⟨z, 0⟩) ∧
    (∀ n z, z ∈ [0x7F800000, 0xFF800000] → ∀ r ∈ [cordTrig false n z, cordTrig true n z, cordHyp n z], r = ⟨0x7FC00000, flagNV⟩)

/-- O38. VLDL and VSTL, VQRD and VOWR (R200, R201, R203): at an aligned address the active lanes take their elements from
local memory or the token, the others keep their values; a store writes the bytes of the active lanes and no other, and
counts them; any other address is the misaligned-access fault, and a masked store of a 6-bit type an illegal instruction;
VQRD takes the elements of the wide token that it pops, and a poisoned one is the poison-consumed fault; VOWR pushes a
token made of the elements, zero where a lane is inactive. -/
def Obligations.VectorLocalAndWideQueues : Prop :=
  ∀ (o : Operands) (s : State) (t : ElemType), elemTypeOf (o.imm.toNat % 32) = some t →
    (let u := Claims.vmemUse o [] [o.d]
     let (s1, a) := (u.after s, (Claims.vmemAt o (u.value s)))
     u.issues s →
     (¬ Claims.accessAligned t a.toNat → exec (.vldl o) s = s1.raise (excLocal 0x03 0x00 a.toNat)) ∧
     (Claims.accessAligned t a.toNat → s1.localFault s1.cur a (Claims.accessSize t) 1 true = none →
     ∃ s2, exec (.vldl o) s = .next s2 ∧ State.onlyCore s1 s2 s1.cur ∧ Claims.goneOn o s1 s2 ∧
      Claims.doneAtIssue o s1 s2 0 (Claims.accessSize t) ∧
      ∀ i, i < laneCount t → Claims.laneOf t ((s2.core s1.cur).rv (o.d.extractLsb' 0 5)) i =
        if Claims.active o t s1 i then
          s1.localRead s1.cur a.toNat (Claims.accessSize t) / 2 ^ (elemBits t * i) % 2 ^ elemBits t
        else Claims.laneOf t (s1.me.rv (o.d.extractLsb' 0 5)) i)) ∧
    (let u := Claims.vmemUse o [o.d] []
     let (s1, a, n) := (u.after s, Claims.vmemAt o (u.value s), Claims.accessSize t)
     (isActor s.cur = true → o.imm.getLsbD 5 = true → Claims.isSix t → exec (.vstl o) s = s.raise (exc 0x01 0x01)) ∧
     ((o.imm.getLsbD 5 = true → ¬ Claims.isSix t) → u.issues s →
     (¬ Claims.accessAligned t a.toNat → exec (.vstl o) s = s1.raise (excLocal 0x03 0x00 a.toNat)) ∧
     (Claims.accessAligned t a.toNat → s1.localFault s1.cur a n 1 false = none → Memory.wf (s1.localMem s1.cur) = true →
     ∃ s2, exec (.vstl o) s = .next s2 ∧ Claims.goneOn o s1 s2 ∧
      Claims.doneAtIssue o s1 s2 0 ((List.range n).filter (fun q => Claims.active o t s1 (8 * q / laneBits t))).length ∧ (s2.core s1.cur).v = s1.me.v ∧ s2.z = s1.z ∧
      (∀ q, q < n → ∀ j, j < 8 → (Memory.read (s2.localMem s1.cur) (a.toNat + q)).getLsbD j =
        if Claims.active o t s1 (8 * q / laneBits t) then
          Claims.storedBit t (s1.me.rv (o.d.extractLsb' 0 5)) (8 * q + j)
        else (Memory.read (s1.localMem s1.cur) (a.toNat + q)).getLsbD j) ∧
      (∀ q, q < a.toNat ∨ a.toNat + n ≤ q → Memory.read (s2.localMem s1.cur) q = Memory.read (s1.localMem s1.cur) q)))) ∧
    (∀ h rest, let u := { Claims.vecUse o Claims.typesAll [] [] [o.d] with c := o.c, t := o.t }
     let n := queueOf o.a
     isActor s.cur = true → 56 ≤ o.a.toNat → s.inWide s.cur n = true → s.queueBusy s.cur true n = false →
     s.queueView s.cur n = h :: rest → u.issues s →
     let s1 := (u.after s).popQueue (u.after s).cur n h
     (ctlPoison h.tok.ctl = true → exec (.vqrd o) s = s1.raise (exc 0x05 0x01)) ∧
     (ctlPoison h.tok.ctl = false → ∃ s2, exec (.vqrd o) s = .next s2 ∧ State.onlyCore s1 s2 s1.cur ∧ Claims.goneOn o s1 s2 ∧ Claims.doneAtIssue o s1 s2 0 0 ∧
      ∀ i, i < laneCount t → Claims.laneOf t ((s2.core s1.cur).rv (o.d.extractLsb' 0 5)) i =
        if Claims.active o t s1 i then Claims.elem t h.tok.payload i
        else Claims.laneOf t (s1.me.rv (o.d.extractLsb' 0 5)) i)) ∧
    (let u := { Claims.vecUse o Claims.typesAll [] [o.a] [] with c := o.c, t := o.t }
     let (s1, n) := (u.after s, queueOf o.d)
     isActor s.cur = true → 56 ≤ o.d.toNat → s.outWide s.cur n = true → o.b.toNat % 4 ≠ 3 → s.canPush s.cur n 5 = true →
     s.me.pendingX o.d = false → u.issues s → s1.overRate s1.cur n 1 = false →
     ∃ tok, exec (.vowr o) s = .next (((s1.pushQueue s1.cur n tok).complete s1.cur o.t 0 0).retire o.form) ∧
      tok.wide = true ∧ tok.tag = s1.me.firing.tag ∧ ctlMact tok.ctl = o.b.toNat % 4 ∧ ctlLast tok.ctl = o.b.getLsbD 2 ∧
      ctlPoison tok.ctl = false ∧ ctlKind tok.ctl = 0 ∧
      ∀ i, i < laneCount t → Claims.laneOf t tok.payload i =
        if Claims.active o t s1 i then Claims.elem t (s1.me.rv (o.a.extractLsb' 0 5)) i else 0)

/-- O39. SHLD, SHST and SHBQ (R207): 64 bytes between local memory and h[D]; the record of a queue's elements. -/
def Obligations.ShapeRegisters : Prop :=
  ∀ (o : Operands) (s : State), isActor s.cur = true →
    (let u := { Claims.memUse o (o.a :: secondField o) none with hds := [o.d.extractLsb' 0 3] }
     let (s1, a) := (u.after s, u.value s o.a + second o (u.value s))
     u.issues s → s1.localFault s1.cur a 64 64 true = none →
     ∃ s2, exec (.shld o) s = .next s2 ∧ State.onlyCore s1 s2 s1.cur ∧ Claims.goneOn o s1 s2 ∧ Claims.doneAtIssue o s1 s2 0 64 ∧
      (s2.core s1.cur).rh (o.d.extractLsb' 0 3) = BitVec.ofNat 512 (s1.localRead s1.cur a.toNat 64)) ∧
    (let u := { Claims.memUse o (o.a :: secondField o) none with hs := [o.d.extractLsb' 0 3] }
     let (s1, a) := (u.after s, u.value s o.a + second o (u.value s))
     u.issues s → s1.localFault s1.cur a 64 64 false = none → Memory.wf (s1.localMem s1.cur) = true →
     ∃ s2, exec (.shst o) s = .next s2 ∧ Claims.goneOn o s1 s2 ∧ Claims.doneAtIssue o s1 s2 0 64 ∧ s2.z = s1.z ∧
      (∀ q, q < 64 → Memory.read (s2.localMem s1.cur) (a.toNat + q) =
        ((s1.me.rh (o.d.extractLsb' 0 3)).extractLsb' (8 * q) 8)) ∧
      (∀ q, q < a.toNat ∨ a.toNat + 64 ≤ q → Memory.read (s2.localMem s1.cur) q = Memory.read (s1.localMem s1.cur) q)) ∧
    (let u : Use := { Use.none with xs := [o.b], hds := [o.d.extractLsb' 0 3] }
     let s1 := u.after s
     56 ≤ o.a.toNat → o.imm.toNat % 32 < 16 → o.imm.toNat / 2 ^ 10 % 8 < 5 → u.issues s →
     ∃ s2, exec (.shbq o) s = .next s2 ∧ State.onlyCore s1 s2 s1.cur ∧ Claims.goneOn o s1 s2 ∧
      let r := (s2.core s1.cur).rh (o.d.extractLsb' 0 3)
      recBase r = queueOf o.a ∧ recType r = o.imm.toNat % 32 ∧ recDims r = 1 ∧ recSpace r = 2 ∧
      recDim r 0 = (u.value s o.b).toNat % 2 ^ 32 ∧ recDim r 1 = 1 ∧ recDim r 2 = 1 ∧ recDim r 3 = 1 ∧
      recEos r = (u.value s o.b).getLsbD 32 ∧ recDesc r = (u.value s o.b).getLsbD 33)

/-- O40. VLD, VST, VLDG and VSTS (R200 to R202): an aligned access inside an extent makes read requests that cover its
bytes, each inside an aligned 8-byte unit; a store makes write requests whose enabled bytes are those of the active lanes,
with the lanes' values; a gather and a scatter make one request for each active lane, in ascending order. -/
def Obligations.VectorMemoryAccesses : Prop :=
  ∀ (o : Operands) (s : State) (t : ElemType), elemTypeOf (o.imm.toNat % 32) = some t →
    (∀ pa key stb, let u := Claims.vmemUse o [] [o.d]
     let (s1, a, n) := (u.after s, (Claims.vmemAt o (u.value s)).toNat, Claims.accessSize t)
     u.issues s → Claims.accessAligned t a → s1.translate (s1.extentsOf s1.cur) a n .read = some (pa, key, stb) →
     s1.copyFault s1.cur true a n = none →
     ∃ s2 op, exec (.vld o) s = .next s2 ∧ Claims.madeOp o s1 s2 op op.reqs 0 ∧ op.result = n ∧
      (s2.core s1.cur).pendV.getLsbD (o.d.extractLsb' 0 5).toNat = true ∧
      (∀ r ∈ op.reqs, r.kind = .read ∧ r.key = key ∧ a ≤ r.va ∧ r.va + r.size ≤ a + n ∧ r.pa + a = pa + r.va ∧
        r.va / 8 = (r.va + r.size - 1) / 8) ∧
      ∀ q, q < n → ∃ r ∈ op.reqs, r.va ≤ a + q ∧ a + q < r.va + r.size) ∧
    (∀ pa key stb, let u := Claims.vmemUse o [o.d] []
     let (s1, a, n) := (u.after s, (Claims.vmemAt o (u.value s)).toNat, Claims.accessSize t)
     (o.imm.getLsbD 5 = true → ¬ Claims.isSix t) → u.issues s → Claims.accessAligned t a →
     s1.translate (s1.extentsOf s1.cur) a n .write = some (pa, key, stb) →
     ∃ s2 op, exec (.vst o) s = .next s2 ∧ Claims.madeOp o s1 s2 op op.reqs 0 ∧
      op.result = ((List.range n).filter (fun q => Claims.active o t s1 (8 * q / laneBits t))).length ∧
      (∀ r ∈ op.reqs, r.kind = .write ∧ r.key = key ∧ a ≤ r.va ∧ r.va + r.size ≤ a + n ∧ r.pa + a = pa + r.va ∧
        ∀ q, q < r.size → (r.be.testBit q = Claims.active o t s1 (8 * (r.va - a + q) / laneBits t)) ∧
          ∀ j, j < 8 → r.data.testBit (8 * q + j) =
            Claims.storedBit t (s1.me.rv (o.d.extractLsb' 0 5)) (8 * (r.va - a + q) + j)) ∧
      ∀ q, q < n → Claims.active o t s1 (8 * q / laneBits t) = true → ∃ r ∈ op.reqs, r.va ≤ a + q ∧ a + q < r.va + r.size) ∧
    (∀ (pa key : Nat → Nat) (stb : Nat → Bool),
     let u := { Claims.vecUse o Claims.typesGather [o.a] [o.b] [o.d] with c := o.c, t := o.t }
     let s1 := u.after s
     let at_ := Claims.laneAddress o t s1 (u.value s)
     u.issues s →
     (∀ i ∈ Claims.lanesActive o t s1, Claims.deviceOk s1 (at_ i).toNat (laneBits t / 8) .read (pa i) (key i) (stb i)) →
     ∃ s2 op, exec (.vldg o) s = .next s2 ∧ Claims.madeOp o s1 s2 op
        ((Claims.lanesActive o t s1).map (fun i => Req.make .read (at_ i).toNat (pa i) (laneBits t / 8) 0 (key i))) 0 ∧
      (s2.core s1.cur).pendV.getLsbD (o.d.extractLsb' 0 5).toNat = true) ∧
    (∀ (pa key : Nat → Nat) (stb : Nat → Bool),
     let u := { Claims.vecUse o Claims.typesGather [o.a] [o.b, o.d] [] with c := o.c, t := o.t }
     let s1 := u.after s
     let at_ := Claims.laneAddress o t s1 (u.value s)
     u.issues s →
     (∀ i ∈ Claims.lanesActive o t s1, Claims.deviceOk s1 (at_ i).toNat (laneBits t / 8) .write (pa i) (key i) (stb i)) →
     ∃ s2 op, exec (.vsts o) s = .next s2 ∧ Claims.madeOp o s1 s2 op
        ((Claims.lanesActive o t s1).map (fun i => Req.make .write (at_ i).toNat (pa i) (laneBits t / 8)
          (Claims.laneOf t (s1.me.rv (o.d.extractLsb' 0 5)) i) (key i))) 0)

/-- O41. SMAP, SRED, SCVT and SCPY (R208, R209, R230): with no copy on a queue that they name, and with good and aligned
records whose counts and types agree as the rule asks, the stream operation is put in flight over the records as they are
at issue. -/
def Obligations.StreamInstructions : Prop :=
  ∀ (o : Operands) (s : State), isActor s.cur = true → o.imm.toNat / 2 ^ 5 % 8 < 5 →
    (let f := o.imm.toNat % 32
     let hs : List RegField := if f = 7 ∨ f = 8 then [o.d, o.a] else [o.d, o.a, o.b]
     let u := { Claims.memUse o [] none with hs := hs.map (fun (r : RegField) => r.extractLsb' 0 3) }
     let s1 := u.after s
     f < 15 → s.streamHeld 0 f hs = false → u.issues s → Claims.recordsOk s1 hs →
     (if f < 9 then Claims.typesFI else if f < 12 then Claims.typesAll else Claims.typesI) (recType (Claims.record s1 o.a)) = true →
     (∀ r ∈ hs, recType (Claims.record s1 r) = recType (Claims.record s1 o.a) ∧
       recCount (Claims.record s1 r) = recCount (Claims.record s1 o.a)) →
     ∃ t, exec (.smap o) s = .next t ∧ Claims.streamStarted o s1 t 0) ∧
    (let u := { Claims.memUse o [] (some o.d) with hs := [o.a.extractLsb' 0 3] }
     let s1 := u.after s
     o.imm.toNat % 32 < 3 → s.streamHeld 1 (o.imm.toNat % 32) [o.a] = false → u.issues s → Claims.recordsOk s1 [o.a] → Claims.typesFI (recType (Claims.record s1 o.a)) = true →
     ∃ t, exec (.sred o) s = .next t ∧ Claims.streamStarted o s1 t 1 ∧ (o.d ≠ 0 → (t.core s1.cur).pendingX o.d = true)) ∧
    (let u := { Claims.memUse o [] none with hs := [o.d.extractLsb' 0 3, o.a.extractLsb' 0 3] }
     let s1 := u.after s
     s.streamHeld 2 (o.imm.toNat % 32) [o.d, o.a] = false → s.streamHeld 3 (o.imm.toNat % 32) [o.d, o.a] = false → u.issues s → Claims.recordsOk s1 [o.d, o.a] → recCount (Claims.record s1 o.d) = recCount (Claims.record s1 o.a) →
     (∃ t, exec (.scvt o) s = .next t ∧ Claims.streamStarted o s1 t 2) ∧
     (recType (Claims.record s1 o.d) = recType (Claims.record s1 o.a) →
       ∃ t, exec (.scpy o) s = .next t ∧ Claims.streamStarted o s1 t 3))

/-- O42. The MX instructions (R356, R365 to R372): the owner's operation goes to the end of the node queue, where there is
room; MXCFG takes a bank without an owner; a pass and a drain make a machine operation of the fetch unit; MXWAIT goes on
once the node has nothing of the firing's left. -/
def Obligations.MatrixInstructions : Prop :=
  ∀ (o : Operands) (s : State),
    (let u := Claims.memUse o [o.a, o.b] none
     let s1 := u.after s
     isActor s.cur = true → (s.firingCtx s.cur).mxs = none → (s.myBank.owner = .none ∨ Claims.mayQueue s) →
     mxcBad (u.value s o.a) (u.value s o.b) = false → u.issues s →
     ∃ t, exec (.mxcfg o) s = .next t ∧ (t.tctx (tileOf s1.cur) s1.me.firing.ctx).bank.owner = .core s1.cur ∧
      Claims.queued o s1 t (if s1.myBank.ownedBy s1.cur then s1.myBank.queue else []) (.cfg (u.value s o.a) (u.value s o.b)) none) ∧
    (Claims.mayQueue s →
     (let u := Claims.memUse o [] none
      let s1 := u.after s
      u.issues s → ∃ t, exec (.mxzero o) s = .next t ∧ Claims.queued o s1 t s1.myBank.queue .zero none) ∧
     (let u := Claims.memUse o [o.a, o.b] none
      let s1 := u.after s
      u.issues s → ∃ t, exec (.mxmsk o) s = .next t ∧ Claims.queued o s1 t s1.myBank.queue
        (.msk ((u.value s o.a).extractLsb' 0 32) ((u.value s o.b).extractLsb' 0 32)) none) ∧
     (let u := Claims.memUse o [o.a] none
      let s1 := u.after s
      u.issues s → s1.localFault s1.cur (u.value s o.a) 144 8 false = none →
      ∃ t, exec (.mxmpb o) s = .next t ∧ Claims.queued o s1 t s1.myBank.queue (.mpb (u.value s o.a).toNat) none) ∧
     (s.nodeBusy s.cur = false → Use.none.issues s → exec (.mxwait o) s = .next ((Use.none.after s).retire o.form)) ∧
     (let u := Claims.memUse o [o.a, o.b] none
      let s1 := u.after s
      ∀ ra rb, o.imm.toNat < 2 → (o.imm.getLsbD 0 = true → s.myBank.heldAhead = some (mxcClass s.myBank.wordAhead.1)) →
      u.issues s → s1.passRows (s1.extentsOf s1.cur) s.myBank.wordAhead.1 s.myBank.wordAhead.2 (u.value s o.a).toNat
        (u.value s o.b).toNat (o.imm.getLsbD 0) = .ok (ra, rb) →
      ∃ t, exec (.mxmul o) s = .next t ∧ Claims.nodeOperation o s1 t ∧ Claims.queued o s1 t s1.myBank.queue
        (.mul ra rb (o.imm.getLsbD 0) s.myBank.wordAhead.1) (some s1.z.nextId)) ∧
     (let u := Claims.memUse o [o.a, o.b] none
      let (s1, rd, f) := (u.after s, u.value s, o.imm)
      s.drainBad o = none → u.issues s →
      (∀ rows, f.toNat % 4 = 0 → (rd o.b).toNat % 64 = 0 → 32 * drainSize (f.toNat / 4 % 4) ≤ (rd o.b).toNat →
        (rd o.a).toNat % 64 = 0 → s1.nodeRows (s1.extentsOf s1.cur) (rd o.a).toNat (rd o.b).toNat
          (32 * drainSize (f.toNat / 4 % 4)) .write = .ok rows →
        ∃ t, exec (.mxdrnMemory o) s = .next t ∧ Claims.nodeOperation o s1 t ∧
          Claims.queued o s1 t s1.myBank.queue (.drainMem rows f) (some s1.z.nextId)) ∧
      (f.toNat % 4 = 1 →
        let (p, row) := (drainTokens (f.toNat / 4 % 4), (rd o.a).toNat % 32)
        s.queueBusy s.cur false (queueOf o.d) = false → s.me.pendingX o.d = false →
        row * p + p ≤ 2 ^ fieldW (s1.firingCtx s1.cur).tagw (f.toNat / 16 % 8) → s1.overRate s1.cur (queueOf o.d) p = false →
        ∃ t, exec (.mxdrnQueue o) s = .next t ∧ Claims.nodeOperation o s1 t ∧
          Claims.queued o s1 t s1.myBank.queue (.drainQueue (queueOf o.d) row (rd o.b) 0 f) (some s1.z.nextId))) ∧
     (let d := o.d.extractLsb' 0 5
      let regs := if o.imm.toNat / 4 % 4 = 0 then [d, d + 1] else [d]
      let u := { Claims.memUse o [o.a, o.b] none with vd := regs }
      let s1 := u.after s
      s.drainBad o = none → o.imm.toNat % 4 = 2 → u.issues s →
      ∃ t, exec (.mxdrnRegisters o) s = .next t ∧ Claims.nodeOperation o s1 t ∧
        (∀ r ∈ regs, (t.core s1.cur).pendV.getLsbD r.toNat = true) ∧
        Claims.queued o s1 t s1.myBank.queue (.drainRegs o.d ((u.value s o.a).toNat % 32) o.imm) (some s1.z.nextId)))

/-! ### The selection engine and the sill -/

/-- O43. The QS instructions on a channel that the core owns and that is idle (R395 to R400): QSCFG puts a fresh walk in
it; QSSTEP, QSRUN and QSMSK start a long operation of the channel's party, which has ended already where its condition
holds; QSRD reads a field of the walk; QSSAV stores the walk's record and frees the channel; QSRST puts a saved walk in
it. -/
def Obligations.SelectionInstructions : Prop :=
  ∀ (o : Operands) (s : State) (c : Nat), s.channelBusy s.cur = false → s.ownChannel s.cur ≠ none →
    (let u := Claims.memUse o [o.a, o.b] none
     let (s1, a) := (u.after s, u.value s o.a)
     let blk := s1.localRead s1.cur a.toNat 64
     let w := walkOfBlock blk (u.value s o.b) (if isActor s1.cur then s1.me.firing.colour else 0)
     u.issues s → s1.localFault s1.cur a 64 64 true = none → bitsAt blk 511 239 = 0 → w.cfg.bad = false →
     s1.walkFault w = none → s1.ownChannel s1.cur = some c →
     ∃ t, exec (.qscfg o) s = .next t ∧ (t.channel (s1.galleryOf s1.cur) c).walk = some w ∧
      (t.channel (s1.galleryOf s1.cur) c).job = none ∧ Claims.doneAtIssue o s1 t 0 0 ∧ Claims.goneOn o s1 t ∧
      w.rem = (u.value s o.b).toNat ∧ w.pfx = 0 ∧ w.pln = 0 ∧ w.pos = 0 ∧ w.fin = false ∧ w.cnt = w.count) ∧
    ((isActor s.cur = true → o.t = 0) →
      (let u := Claims.memUse o [o.a] none
       let s1 := u.after s
       ∀ w, o.imm = 0 → (u.value s o.a).toNat ≤ 32 → u.issues s → s1.ownChannel s1.cur = some c → s1.walkOf s1.cur = some w →
       ∃ t, exec (.qsstep o) s = .next t ∧ Claims.longStarted o s1 t c (.step (u.value s o.a).toNat)
        (decide (w.tp = true ∧ (w.fin = true ∨ min (u.value s o.a).toNat w.width ≤ w.pln)))) ∧
      (let u := Claims.memUse o [] none
       let s1 := u.after s
       ∀ w, o.imm = 0 → u.issues s → s1.ownChannel s1.cur = some c → s1.walkOf s1.cur = some w →
       ∃ t, exec (.qsrun o) s = .next t ∧ Claims.longStarted o s1 t c .run (w.tp && w.fin)) ∧
      (∀ row ∈ [(Instr.qsmskAnd o, 0), (.qsmskCandidates o, 1), (.qsmskBeyond o, 2)],
       let u := Claims.memUse o [o.a] none
       let s1 := u.after s
       ∀ w r, o.imm.toNat = row.2 → u.issues s → s1.ownChannel s1.cur = some c → s1.walkOf s1.cur = some w →
       (row.2 = 0 → w.begun = false) →
       s1.translate (s1.extentsOf s1.cur) (u.value s o.a).toNat w.ps (if row.2 = 0 then .read else .write) = some r →
       ∃ t, exec row.1 s = .next t ∧ Claims.longStarted o s1 t c (.mask row.2 (u.value s o.a).toNat) false)) ∧
    (let u : Use := { Use.none with xd := some o.d }
     let (s1, f) := (u.after s, o.imm.toNat % 16)
     ∀ w, f < 7 → (f = 0 ∨ f = 4 ∨ f = 6 → w.pois = false) → u.issues s → s1.walkOf s1.cur = some w →
     ∃ v, exec (.qsrd o) s = .next ((s1.putX o.d v).retire o.form) ∧ (f = 0 → v = BitVec.ofNat 64 w.pfx) ∧
      (f = 1 → v = BitVec.ofNat 64 w.rem) ∧ (f = 2 → v = BitVec.ofNat 64 w.cnt) ∧
      (f = 3 → v = if w.tp then BitVec.ofNat 64 w.cw else 0) ∧
      (f = 4 → (w.oor = true ∨ w.cnt = 0 → v = BitVec.allOnes 64) ∧
        (w.oor = false → w.cnt ≠ 0 → ∀ i, w.isCand i = true → (∀ k, k < i → w.isCand k = false) → v = BitVec.ofNat 64 i)) ∧
      (f = 5 → v = BitVec.ofNat 64 (w.stat + w.pln * 2 ^ 8))) ∧
    (let u := Claims.memUse o [o.a] none
     let (s1, a) := (u.after s, u.value s o.a)
     ∀ w, o.imm = 0 → u.issues s → s1.localFault s1.cur a 64 64 false = none → Memory.wf (s1.localMem s1.cur) = true →
     s1.ownChannel s1.cur = some c → s1.walkOf s1.cur = some w →
     let masked : Prop := (s1.channel (s1.galleryOf s1.cur) c).blocks ≠ 0
     let area := s1.translate (s1.extentsOf s1.cur) w.area w.areaBytes .write
     ((masked → area ≠ none) → ∃ t w', exec (.qssav o) s = .next t ∧ (masked → w' = { w with msk := true }) ∧ (¬masked → w' = w) ∧
      t.channel (s1.galleryOf s1.cur) c = Channel.free ∧
      (∀ q, q < 64 → Memory.read (t.localMem s1.cur) (a.toNat + q) = (w'.record.extractLsb' (8 * q) 8)) ∧
      Claims.doneLater o s1 t ∧ Claims.goneOn o s1 t) ∧
     (masked → area = none → exec (.qssav o) s = s1.raise (excAt 0x04 0 w.area))) ∧
    (let u := Claims.memUse o [o.a] none
     let (s1, a) := (u.after s, u.value s o.a)
     let r : Vec := BitVec.ofNat 512 (s1.localRead s1.cur a.toNat 64)
     let w := walkOfRecord r
     s.spillPending s.cur (s.peekWalk o) = false → (o.md.getLsbD 3 = true → ∀ x ∈ s.z.ops, x.party ≠ s.cur) →
     o.imm = 0 → u.issues s → s1.localFault s1.cur a 64 64 true = none → w.valid = true → r.toNat % 2 ^ 17 = 0 →
     w.cfg.bad = false → (isActor s1.cur = true → w.col = s1.me.firing.colour) → s1.walkFault w = none →
     s1.ownChannel s1.cur = some c →
     ∃ t w', exec (.qsrst o) s = .next t ∧ (t.channel (s1.galleryOf s1.cur) c).walk = some w' ∧
      (t.channel (s1.galleryOf s1.cur) c).job = none ∧ w'.pfx = w.pfx ∧ w'.rem = w.rem ∧ w'.pln = w.pln ∧ w'.pos = w.pos ∧
      (w.msk = false → w' = w) ∧ Claims.goneOn o s1 t)

/-- O44. SAMP, ACPT, CMIT and SEED (R403 to R410): the fields of the block that each reads; what waits for its unit, and
what is done at issue: a clear, an explicit or a fresh seed, whose key is a free value (log entry 2), and a commit without
release and with no earlier operation to wait for. The index that a draw selects is the first whose cumulative weight
passes it. -/
def Obligations.SillInstructions : Prop :=
  (∀ (weight : Nat → Nat) (n u total i : Nat),
    (sampleIndex weight n u total = some i ↔
      i < n ∧ u * total < Claims.sumTo weight (i + 1) * 2 ^ 32 ∧
        ∀ k, k < i → Claims.sumTo weight (k + 1) * 2 ^ 32 ≤ u * total)) ∧
  ∀ (o : Operands) (s : State), isActor s.cur = false →
    (let u := Claims.memUse o [o.a] (some o.d)
     let (s1, a) := (u.after s, u.value s o.a)
     let r := s1.localRead s1.cur a.toNat 64
     let (n, set, ent, draw) := (bitsAt r 159 128, bitsAt r 63 0, bitsAt r 169 160, bitsAt r 223 192)
     let x := s1.seqEntry (s1.galleryOf s1.cur) ent
     ∀ w place, u.issues s → s1.localFault s1.cur a 64 64 true = none → n ≠ 0 →
     s1.sillRange (bitsAt r 127 64) (4 * n) .read = .ok w →
     ((set = 0 ∧ place = none) ∨ (set ≠ 0 ∧ ∃ l, s1.sillRange set (64 * ((n + 511) / 512)) .read = .ok l ∧ place = some l)) →
     (o.md.getLsbD 3 = true → ∃ t, exec (.samp o) s = .next t ∧ Claims.sillWaits o s1 t (.samp o.d draw ent n place.isSome none)) ∧
     (o.md.getLsbD 3 = false → x.valid = true → ∃ t, exec (.samp o) s = .next t ∧
       Claims.sillWaits o s1 t (.samp o.d draw ent n place.isSome (some (chachaDraw x.key draw x.step x.seq))) ∧
       (o.d ≠ 0 → (t.core s1.cur).pendingX o.d = true)) ∧
     (o.md.getLsbD 3 = false → x.valid = false →
       exec (.samp o) s = .next (Claims.answered o (s1.modCore s1.cur (fun k => k.wx o.d (BitVec.allOnes 64))) 0x32 0))) ∧
    (let u := Claims.memUse o [o.a] (some o.d)
     let (s1, a) := (u.after s, u.value s o.a)
     let r := s1.localRead s1.cur a.toNat 64
     let (n, out) := (bitsAt r 263 256, bitsAt r 255 192)
     ∀ tgt drf par, u.issues s → s1.localFault s1.cur a 64 64 true = none → 1 ≤ n → n ≤ 32 →
     s1.localFault s1.cur (BitVec.ofNat 64 out) 128 1 false = none → s1.sillRange (bitsAt r 191 128) (4 * n) .read = .ok tgt →
     s1.sillRange (bitsAt r 127 64) (4 * n) .read = .ok drf → s1.sillRange (bitsAt r 63 0) (4 * n) .read = .ok par →
     ∃ t, exec (.acpt o) s = .next t ∧ Claims.sillWaits o s1 t (.acpt o.d n out)) ∧
    (let u := Claims.memUse o [o.a] none
     let (s1, a) := (u.after s, u.value s o.a)
     let r := s1.localRead s1.cur a.toNat 64
     let (cnt, tok, ent, g) := (bitsAt r 151 144, bitsAt r 127 64, bitsAt r 137 128, s1.galleryOf s1.cur)
     let x := s1.seqEntry g ent
     ∀ rec, u.issues s → s1.localFault s1.cur a 64 64 true = none → 1 ≤ cnt → cnt ≤ 32 →
     s1.localFault s1.cur (BitVec.ofNat 64 tok) (4 * cnt) 1 true = none → s1.sillRange (bitsAt r 63 0) 192 .write = .ok rec →
     (o.md.getLsbD 3 = true → ∃ t, exec (.cmit o) s = .next t ∧
       Claims.sillWaits o s1 t (.cmit (bitsAt r 223 192) cnt ent tok (bitsAt r 63 0) rec)) ∧
     (o.md.getLsbD 3 = false → s1.z.ops = [] → s1.me.firing.trace.dep = false → x.valid = true → g < 16 → ∃ t, exec (.cmit o) s = .next t ∧
       t.seqEntry g ent = { x with pos := (x.pos + cnt) % 2 ^ 64, step := (x.step + 1) % 2 ^ 32 })) ∧
    (let u := Claims.memUse o [o.a, o.b] none
     let (s1, ent, b) := (u.after s, (u.value s o.a).toNat, u.value s o.b)
     let (blk, g) := (s1.localRead s1.cur b.toNat 64, s1.galleryOf s1.cur)
     let entry := fun (key : Nat) => Claims.seqEntryOf (bitsAt blk 31 0) (bitsAt blk 41 32) (bitsAt blk 127 64) (bitsAt blk 159 128) key
     u.issues s →
     (o.imm.toNat % 4 = 3 → ent < 1024 → ∃ s2, exec (.seedClear o) s = .next (Claims.answered o s2 0 0) ∧
       s2.seqEntry g ent = SeqEntry.zero ∧ Claims.onlySill s1 s2) ∧
     (o.imm.toNat % 4 = 1 → ent < 1024 → s1.localFault s1.cur b 64 64 true = none →
       ∃ s2, exec (.seedExplicit o) s = .next (Claims.answered o s2 0 0) ∧ s2.seqEntry g ent = entry (bitsAt blk 511 256) ∧
         Claims.onlySill s1 s2) ∧
     (o.imm.toNat % 4 = 0 → ent < 1024 → s1.localFault s1.cur b 64 64 true = none → (s1.gal g).sillst.eok = true →
       ∃ s2 key, exec (.seedFresh o) s = .next (Claims.answered o s2 0 0) ∧ s2.seqEntry g ent = entry key ∧ key < 2 ^ 256 ∧
         Claims.onlySill s1 s2) ∧
     (∀ rec, o.imm.toNat % 4 = 2 → s1.sillRange b.toNat 192 .read = .ok rec →
       ∃ t, exec (.seedReplay o) s = .next t ∧ Claims.sillWaits o s1 t (.seed ent)))

/-! ### The system registers and the root's services -/

/-- O45. NOP and the hint region do nothing but move on (R85, R103); bytes that do not decode raise the
illegal-instruction fault, with TVAL = 0 (log entry 71), and a parcel outside the code area the extent-violation fault
with its address (R90, R103); on a gallery sequencer SYSC goes to the root's service, its done register awaits the reply,
and the slot goes on; the reply (DONE_COMPLETION) takes the effect: service 1 makes extent 15 of the slot's own image, 2
reports an event, 3 gives the cycle, and any other has status 0x29 (R180, R467). RDSR and WRSR (R146, R183 to R185, R317,
R319, R323, R405): the value of each register; a read that clears; the write of each writable one, a write of the
network's limits bringing each tile's window between them (log entry 84); a write to a read-only one, or of a least window
of 0 or above the greatest, changes nothing. An access outside the engine's own registers is a fault. -/
def Obligations.SystemInstructionsAndRegisters : Prop :=
  (∀ (s : State),
     (∀ bits, exec (.nop bits) s = .next { s.modCore s.cur (fun c => { c with pc := c.pc + 4 }) with cycle := s.cycle + 1 }) ∧
     (∀ h, exec (.hintRegion h) s =
       .next { s.modCore s.cur (fun c => { c with pc := c.pc + BitVec.ofNat 64 (Claims.bytesOfForm h.rest.form) }) with
         cycle := s.cycle + 1 }) ∧
     (isActor s.cur = false →
       exec (.faultEntry none) s = .next ((s.trapTo s.cur 0x01 0 s.me.pc).tick 1) ∧
       ∀ a, exec (.faultEntry (some a)) s = .next ((s.trapTo s.cur 0x04 a.toNat s.me.pc).tick 1)) ∧
     (isActor s.cur = true → s.me.run ≠ .ending → (∃ t, exec (.faultEntry none) s = .next t ∧ Claims.firingOver s t) ∧
       ∀ a, ∃ t, exec (.faultEntry (some a)) s = .next t ∧ Claims.firingOver s t) ∧
     (∀ (o : Operands) (i : Instr), i ∈ [Instr.syscImageExtent o, .syscSlotEvent o, .syscTimestamp o] → engineOf s.cur = .gallery →
       let u : Use := { Use.onSeq with xs := [o.a, o.b], t := o.t }
       let (s1, a, b) := (u.after s, u.value s o.a, u.value s o.b)
       u.issues s → ∃ t c, exec i s = .next t ∧ t.cmds = s1.cmds ++ [c] ∧ c.id = s1.z.nextId ∧ c.core = s1.cur ∧ c.done = o.t ∧
         c.kind = .sysc o.imm.toNat a b ∧ Claims.doneLater o s1 t ∧ Claims.goneOn o s1 t) ∧
     (∀ (c : Cmd) (n : Nat) (a b : Word), s.cmd c.id = some c → c.kind = .sysc n a b → c.done ≠ 0 →
       let reply : Nat → Nat → State → Prop := fun st r s2 =>
         exec (.doneCompletion c.id) s = .next ({ s2 with cmds := s2.cmds.filter (fun x => x.id != c.id) }.complete c.core c.done st r)
       (∀ e, n = 1 → (s.core c.core).image = some e → e.vbase ≤ a.toNat → a.toNat < e.vbase + e.size →
         ∃ s2, reply 0 e.vbase s2 ∧ State.onlyCore s s2 c.core ∧ s2.cycle = s.cycle ∧
           AMap.find (s2.core c.core).extents 15 = some { e with rd := true, wr := false, valid := true }) ∧
       (n = 1 → (∀ e, (s.core c.core).image = some e → ¬(e.vbase ≤ a.toNat ∧ a.toNat < e.vbase + e.size)) → reply 0x29 0 s) ∧
       (n = 2 → ∃ s2, reply 0 0 s2 ∧ s2.cores = s.cores ∧ s2.z = s.z ∧ ∃ num, s2.host.events = s.host.events ++
         [{ src := sequencerNum c.core, kind := 6, num := num, data := a.toNat + b.toNat * 2 ^ 64 }]) ∧
       (n = 3 → reply 0 s.cycle s) ∧ (n = 0 ∨ 3 < n → reply 0x29 0 s))) ∧
  (∀ (o : Operands) (s : State),
     let (n, e) := (o.imm.toNat % 2 ^ 12, engineOf s.cur)
     (let u : Use := { Use.none with xd := some o.d }
      let (s1, c) := (u.after s, (u.after s).me)
      sregFault e n = none → u.issues s →
      ∃ v s2, exec (.rdsr o) s = .next ((s2.putX o.d v).retire o.form) ∧
       (n = 0x000 → v.toNat = c.firing.fflags.toNat) ∧
       (n = 0x001 → v = BitVec.ofNat 64 (c.firing.fcycBase + (s1.cycle - c.firing.started))) ∧ (n = 0x002 → v = c.firing.tag) ∧
       (n = 0x003 → v.toNat = c.firing.bnd % 8 + slotOf s1.cur * 2 ^ 8 + c.firing.ctx % 4 * 2 ^ 10 +
         (s1.firingCtx s1.cur).ltile % 1024 * 2 ^ 16) ∧ (n = 0x100 → v = c.trap.tvec) ∧ (n = 0x101 → v = c.trap.tepc) ∧
       (n = 0x102 → v.toNat = c.trap.code.toNat + (if c.trap.act then 2 ^ 8 else 0)) ∧ (n = 0x103 → v = c.trap.tval) ∧
       (n = 0x104 → v.toNat = c.trap.tgal.toNat) ∧ (n = 0x105 → v.toNat = c.ldepth.toNat) ∧
       (n = 0x106 → v = BitVec.ofNat 64 c.inbox.length) ∧ (n = 0x200 → v = BitVec.ofNat 64 s1.root.tctxb) ∧
       (n = 0x201 → v = BitVec.ofNat 64 s1.root.merrb) ∧ (n = 0x212 → v = BitVec.ofNat 64 s1.root.gdrop ∧ s2.root.gdrop = 0) ∧
       (n = 0x213 → v = BitVec.ofNat 64 s1.root.bmdb) ∧
       (let r := s1.root
        (n = 0x202 → v = BitVec.ofNat 64 (r.merrHead % 2 ^ 8 + (if r.merrOvf then 2 ^ 8 else 0) + r.merrUe * 2 ^ 32 + r.merrCe * 2 ^ 48) ∧
         s2.root.merrCe = 0 ∧ s2.root.merrUe = 0 ∧ s2.root.merrOvf = r.merrOvf) ∧
        (n = 0x210 → v = BitVec.ofNat 64 (r.netWmin + r.netWmax * 2 ^ 8 + r.netThr * 2 ^ 16 + (if r.netMode then 2 ^ 24 else 0)))) ∧
       (n = 0x107 → let (k, k2) := ((s1.gal (s1.galleryOf s1.cur)).sillst, (s2.gal (s1.galleryOf s1.cur)).sillst)
         v = BitVec.ofNat 64 ((if k.eok then 1 else 0) + (if k.efail then 2 else 0) + k.efc * 2 ^ 16 + k.spec * 2 ^ 32) ∧
         k2 = { k with spec := 0, efc := 0 }) ∧
       (∀ j i, j < 16 → i < 64 → n = 0x220 + j → v.getLsbD i = (s1.tile (64 * j + i)).fenced) ∧
       (n ≠ 0x107 → n ≠ 0x202 → n ≠ 0x212 → s2 = s1)) ∧
     (let u : Use := { Use.none with xs := [o.a] }
      let (s1, w) := (u.after s, u.value s o.a)
      let v := w.toNat
      sregFault e n = none → u.issues s →
      ∃ s2, exec (.wrsr o) s = .next (s2.retire o.form) ∧ (n ≠ 0x211 → s2.cycle = s1.cycle) ∧
       (n = 0x000 → s2.me.firing.fflags.toNat = v % 2 ^ 5) ∧
       (n = 0x100 → s2.me.trap.tvec = w ∧ s2.me.trap.tvecSet = true) ∧ (n = 0x101 → s2.me.trap.tepc = w) ∧
       (n = 0x102 → s2.me.trap.code.toNat = v % 2 ^ 8 ∧ s2.me.trap.act = w.getLsbD 8) ∧ (n = 0x103 → s2.me.trap.tval = w) ∧
       (n = 0x104 → s2.me.trap.tgal.toNat = v % 2 ^ 4) ∧
       (n = 0x105 → s2.me.ldepth.toNat = if 1 ≤ v % 8 ∧ v % 8 ≤ 4 then v % 8 else s1.me.ldepth.toNat) ∧
       (n = 0x200 → s2.root.tctxb = v / 2 ^ 12 % 2 ^ 40 * 2 ^ 12) ∧ (n = 0x201 → s2.root.merrb = v / 2 ^ 12 % 2 ^ 40 * 2 ^ 12) ∧
       (n = 0x213 → s2.root.bmdb = v / 2 ^ 12 % 2 ^ 40 * 2 ^ 12) ∧
       (n = 0x202 → s2.root.merrOvf = (s1.root.merrOvf && !w.getLsbD 8)) ∧
       (n = 0x210 → v % 2 ^ 8 ≠ 0 → v % 2 ^ 8 ≤ v / 2 ^ 8 % 2 ^ 8 → s2.root.netWmin = v % 2 ^ 8 ∧
         s2.root.netWmax = v / 2 ^ 8 % 2 ^ 8 ∧ s2.root.netThr = v / 2 ^ 16 % 2 ^ 8 ∧ s2.root.netMode = w.getLsbD 24 ∧
         ∀ x, (s2.tile x).window s2.root = max (v % 2 ^ 8) (min (v / 2 ^ 8 % 2 ^ 8) (s1.tile x).win)) ∧
       (n = 0x107 → let (k, k2) := ((s1.gal (s1.galleryOf s1.cur)).sillst, (s2.gal (s1.galleryOf s1.cur)).sillst)
         k2 = { k with efail := k.efail && !w.getLsbD 1 }) ∧
       (n = 0x210 → v % 2 ^ 8 = 0 ∨ v / 2 ^ 8 % 2 ^ 8 < v % 2 ^ 8 → s2 = s1) ∧
       (n = 0x211 → (s2.tile (v % 2 ^ 10)).fenced = true) ∧
       (n = 0x001 ∨ n = 0x002 ∨ n = 0x003 ∨ n = 0x106 ∨ n = 0x212 ∨ 0x220 ≤ n → s2 = s1)) ∧
     (∀ i ∈ [Instr.rdsr o, .wrsr o],
       (0x400 ≤ n → exec i s = s.raise (exc 0x01 0x01)) ∧
       (e = .actor → 0x100 ≤ n → n < 0x400 → exec i s = s.raise (exc 0x02 0x00)) ∧
       (e ≠ .actor → n < 0x100 → exec i s = s.raise (exc 0x02 0x00)) ∧
       (e = .gallery → 0x200 ≤ n ∧ n < 0x400 ∨ n = 0x104 → exec i s = s.raise (exc 0x02 0x00))))

/-! ### Fabric commands -/

/-- O46. Commands on regions (R322, R326, R329 to R333): each names a region in its selector; one of another gallery is
answered 0x20 and an Unloaded one 0x21. CFGLD starts a load, or unloads at once, and the generation advances where an
instance is lost (R34); CFGCK answers what the certificate's checks find; CFGSW waits where the region is Loaded; CFGED
closes an edge and waits. -/
def Obligations.RegionCommands : Prop :=
  ∀ (o : Operands) (s : State),
    (∀ row ∈ Claims.regionRows o,
      let u := Claims.memUse o (o.a :: row.2) none
      let (s1, n) := (u.after s, selReg (u.value s o.a))
      isActor s.cur = false → (row.1 = .swpenEnable o ∨ row.1 = .swpenDisable o → o.imm.toNat < 2) → u.issues s →
      ((s1.region n).state ≠ .unloaded → (s1.region n).home ≠ s1.galleryOf s1.cur →
        exec row.1 s = .next (Claims.answered o s1 0x20 0)) ∧
      ((s1.region n).state = .unloaded → exec row.1 s = .next (Claims.answered o s1 0x21 0))) ∧
    (let u := Claims.memUse o [o.a, o.b] none
     let (s1, sel, b) := (u.after s, u.value s o.a, u.value s o.b)
     let (n, tile) := (selReg sel, selTile sel)
     isActor s.cur = false → u.issues s →
     (b ≠ 0 → galleryOfTile tile = s1.galleryOf s1.cur →
      ((s1.region n).state = .unloaded ∨ (s1.region n).home = s1.galleryOf s1.cur) →
      ∃ t, exec (.cfgldLoad o) s = .next t ∧ Claims.commandWaits o s1 t sel (.cfgld b.toNat tile false)) ∧
     (b = 0 → Claims.commands s1 n → (s1.region n).ctx = selCtx sel →
      ∃ s2, exec (.cfgldUnload o) s = .next (Claims.answered o s2 0 0) ∧ (s2.region n).state = .unloaded ∧
        (s2.region n).gen = (if (s1.region n).insts = [] then (s1.region n).gen else ((s1.region n).gen + 1) % 256) ∧
        (∀ f ∈ s2.flights, f.region ≠ n) ∧ (∀ w ∈ s2.swaps, w.region ≠ n))) ∧
    (let u := Claims.memUse o [o.a] none
     let (s1, sel) := (u.after s, u.value s o.a)
     let n := selReg sel
     isActor s.cur = false → u.issues s → Claims.commands s1 n →
     ((s1.region n).ctx = selCtx sel →
      exec (.cfgck o) s = .next (Claims.answered o s1 (s1.certify n).1 (s1.certify n).2)) ∧
     ((s1.region n).ctx ≠ selCtx sel → exec (.cfgck o) s = .next (Claims.answered o s1 0x21 0)) ∧
     (s1.isLoaded n (selCtx sel) = true → ∃ t, exec (.cfgsw o) s = .next t ∧ Claims.commandWaits o s1 t sel .cfgsw) ∧
     (s1.isLoaded n (selCtx sel) = false → exec (.cfgsw o) s = .next (Claims.answered o s1 0x21 0))) ∧
    (let u := Claims.memUse o [o.a, o.b] none
     let (s1, sel, d) := (u.after s, u.value s o.a, (u.value s o.b).toNat)
     let (n, l, e) := (selReg sel, selTile sel, selIdx sel)
     let (tt, ctx) := ((s1.region n).phys l, (s1.region n).ctx)
     isActor s.cur = false → u.issues s → Claims.commands s1 n → 1 ≤ d → d < 4096 → l < (s1.region n).tileCount →
     edgeDepth ((s1.tctx tt ctx).edge e) ≠ 0 →
     ∃ t, exec (.cfged o) s = .next t ∧ Claims.commandWaits o s1 t sel (.cfged e l d) ∧
      (t.tctx tt ctx).closed = (s1.tctx tt ctx).closed ++ [e])

/-- O47. BIND, UNBIND and PORTW (R340, R342): a binding of a port of the region's image holds the record, the stride and
the scope; UNBIND takes it away and waits for the instances that hold it; a window's value goes to x[D], and the counters
of windows 0 to 5 and 7 are cleared by the read; window 8 sends a reply; windows 9 to 15 are illegal. -/
def Obligations.PortCommands : Prop :=
  ∀ (o : Operands) (s : State), isActor s.cur = false →
    (let u := Claims.memUse o [o.d, o.a, o.b] none
     let (s1, sel) := (u.after s, u.value s o.a)
     let n := selReg sel
     let h : Vec := BitVec.ofNat 512 (s1.localRead s1.cur (u.value s o.b).toNat 64)
     ∀ l out x, u.issues s → Claims.commands s1 n → s1.localFault s1.cur (u.value s o.b) 64 64 true = none →
     AMap.find (s1.region n).image.ports (selIdx sel) = some (l, out, x) → recSpace h = 1 → recordBad h = false →
     (out = false → recCount h ≠ 0) →
     ∃ s2 b, exec (.bind o) s = .next (Claims.answered o s2 0 0) ∧
      AMap.find ((s2.region n).colour (selCol sel)).binds (selIdx sel) = some b ∧ b.shape = h ∧
      b.stride = (u.value s o.d).toInt ∧ Claims.scopeIs o b.scope ∧ s2.cores = s1.cores ∧ s2.z = s1.z) ∧
    (let u := Claims.memUse o [o.a] none
     let (s1, sel) := (u.after s, u.value s o.a)
     let (n, c, p) := (selReg sel, selCol sel, selIdx sel)
     u.issues s → Claims.commands s1 n →
     (AMap.find ((s1.region n).colour c).binds p = none → exec (.unbind o) s = .next (Claims.answered o s1 0x26 0)) ∧
     (∀ b, AMap.find ((s1.region n).colour c).binds p = some b →
       ((s1.region n).holdsBind c p b.serial = false → ∃ s2, exec (.unbind o) s = .next (Claims.answered o s2 0 0) ∧
         AMap.find ((s2.region n).colour c).binds p = none) ∧
       ((s1.region n).holdsBind c p b.serial = true → ∃ t, exec (.unbind o) s = .next t ∧
         AMap.find ((t.region n).colour c).binds p = none ∧ Claims.commandWaits o s1 t sel (.unbind p b.serial)))) ∧
    (let u := Claims.memUse o [o.a] (some o.d)
     let (s1, sel) := (u.after s, u.value s o.a)
     let (n, c, i) := (selReg sel, selCol sel, selIdx sel)
     let r := s1.region n
     (8 < o.imm.toNat → exec (.portwGatcnt o) s = s.raise (exc 0x01 0x01)) ∧
     (o.imm.toNat < 9 → u.issues s → Claims.commands s1 n →
     (let (tt, w) := (r.phys (selTile sel), o.imm.toNat)
      let k := s1.tctx tt r.ctx
      w < 6 → selTile sel < r.tileCount → i < 24 → AMap.has k.slots i = true → waKind (k.wordA i) = 11 →
      ∃ s2, exec (.portwGatcnt o) s = .next (Claims.answered o s2 0 0) ∧
        (o.d ≠ 0 → s2.me.rx o.d = BitVec.ofNat 64 (Claims.gatCounter w (AMap.get GatCnt.zero k.gatcnt i))) ∧
        ∀ v, v < 6 → Claims.gatCounter v (AMap.get GatCnt.zero (s2.tctx tt r.ctx).gatcnt i) =
          if v = w then 0 else Claims.gatCounter v (AMap.get GatCnt.zero k.gatcnt i)) ∧
     exec (.portwCompletions o) s =
       .next (Claims.answered o (s1.modCore s1.cur (fun k => k.wx o.d (BitVec.ofNat 64 r.queue.length))) 0 0) ∧
     (∀ l x, AMap.find r.image.ports i = some (l, true, x) →
       ∃ s2, exec (.portwDiscards o) s = .next (Claims.answered o s2 0 0) ∧
        (o.d ≠ 0 → s2.me.rx o.d = BitVec.ofNat 64 (AMap.get 0 (r.colour c).discards i)) ∧
        AMap.get 0 ((s2.region n).colour c).discards i = 0))) ∧
    (let u := Claims.memUse o [o.a, o.b] none
     let s1 := u.after s
     s.slotClear s.cur = true → o.imm.toNat < 16 → u.issues s →
     exec (.portwReply o) s = .next (Claims.answered o
      { s1 with host := { s1.host with sent := s1.host.sent ++ [.reply (u.value s o.a) (u.value s o.b)] } } 0 0))

/-- O48. ARM, INJ, AWAIT and BARR (R57, R343 to R347): ARM of an Active region whose certificate passes makes it Armed and
gives the section's nodes their count, a re-arm waits; INJ sends its token on the injection edge, or waits for credits;
AWAIT takes the oldest completion that it accepts, or the inbox's first token, and writes the record and x[D], or waits;
BARR closes admission and waits. -/
def Obligations.InstanceCommands : Prop :=
  ∀ (o : Operands) (s : State), isActor s.cur = false →
    (let u := Claims.memUse o [o.a, o.b] none
     let (s1, sel) := (u.after s, u.value s o.a)
     let (n, count) := (selReg sel, (u.value s o.b).toNat % 2 ^ 32)
     o.imm.toNat < 2 → u.issues s → Claims.commands s1 n → (s1.certArm n).1 = 0 →
     (o.imm = 1 → s1.sectionTiles n (selSec sel) ≠ []) →
     ((s1.region n).state = .active → ∃ s2, exec (.arm o) s = .next (Claims.answered o s2 0 0) ∧ (s2.region n).state = .armed ∧
       (o.imm = 1 → ∀ tt ∈ s1.sectionTiles n (selSec sel), (s2.tctx tt (s1.region n).ctx).passes = count) ∧
       (o.imm = 0 → s2.tiles = s1.tiles)) ∧
     ((s1.region n).state = .armed → ∃ t, exec (.arm o) s = .next t ∧ Claims.commandWaits o s1 t sel
       (.rearm (selSec sel) (if o.imm = 1 then some count else none) s1.z.nextId))) ∧
    (let u := Claims.memUse o [o.d, o.a, o.b] none
     let (s1, rd, sel, ctl) := (u.after s, u.value s, u.value s o.a, o.imm.toNat)
     let (n, c) := (selReg sel, selCol sel)
     let payload := if o.imm.getLsbD 3 then s1.localRead s1.cur (rd o.b).toNat 64 else (rd o.b).toNat
     let tok := injToken c (s1.region n).ctx ctl (o.imm.getLsbD 3) (rd o.d) payload (s1.doneClock s1.cur)
     (o.form ≠ .w32 → o.md.getLsbD 3 = true → s.slotClear s.cur = true) → ctl < 16 → ctl % 4 ≠ 3 → u.issues s →
     (o.imm.getLsbD 3 = true → s1.localFault s1.cur (rd o.b) 64 64 true = none) → Claims.commands s1 n →
     ((s1.region n).colour c).state = 1 → s1.injWaiting n c s1.z.nextId = false →
     tagColour tok.tag = c % 2 ^ 10 ∧ tok.tag.toNat % 2 ^ 52 = (if ctl % 4 = 0 then 0 else (rd o.d).toNat % 2 ^ 52) ∧
      ctlMact tok.ctl = ctl % 4 ∧ ctlLast tok.ctl = o.imm.getLsbD 2 ∧ ctlPoison tok.ctl = false ∧ ctlKind tok.ctl = 0 ∧
     (∀ tt ctx e, s1.injection n c tok = .ready tt ctx e →
       exec (.inj o) s = .next (Claims.answered o (s1.sendOn tt ctx e tok) 0 0)) ∧
     (s1.injection n c tok = .full → ∃ t, exec (.inj o) s = .next t ∧ Claims.commandWaits o s1 t sel (.inj tok))) ∧
    (let u := Claims.memUse o [o.a, o.b] (some o.d)
     let (s1, sel, a) := (u.after s, u.value s o.a, (u.value s o.b).toNat)
     let (n, c) := (selReg sel, selCol sel)
     let r := s1.region n
     let fits := fun (tok : Token) => selAny sel || tagColour tok.tag == c
     u.issues s → s1.localFault s1.cur (u.value s o.b) 64 64 false = none → Memory.wf (s1.localMem s1.cur) = true →
     s1.me.run = .running → (∀ x ∈ s1.cmds, x.id < s1.z.nextId ∧ x.kind.awaits true = false ∧ x.kind.awaits false = false) →
     (∀ tok, o.imm = 0 → Claims.commands s1 n → r.queue.find? fits = some tok →
       ∃ t, exec (.awaitCompletion o) s = .next t ∧ Claims.awaitTook o s1 t a tok false ∧
        (t.region n).queue = dropFirst fits r.queue) ∧
     (o.imm = 0 → Claims.commands s1 n → r.queue.find? fits = none → (selAny sel = false → (r.colour c).state = 1) →
       ∃ t, exec (.awaitCompletion o) s = .next t ∧ Claims.commandWaits o s1 t sel (.await 0 (selAny sel) a o.d) ∧
        (o.d ≠ 0 → (t.core s1.cur).pendingX o.d = true)) ∧
     (∀ tok rest, s1.me.inbox = tok :: rest →
       (o.imm = 1 → ∃ t, exec (.awaitInbox o) s = .next t ∧ Claims.awaitTook o s1 t a tok true ∧
         (t.core s1.cur).inbox = rest) ∧
       (o.imm = 2 → ∃ t, exec (.awaitEither o) s = .next t ∧ Claims.awaitTook o s1 t a tok true ∧
         (t.core s1.cur).inbox = rest))) ∧
    (let u := Claims.memUse o [o.a] none
     let (s1, sel) := (u.after s, u.value s o.a)
     let n := selReg sel
     u.issues s → Claims.commands s1 n →
     ((s1.region n).state = .armed → ∃ t, exec (.barr o) s = .next t ∧ (t.region n).barred = true ∧
       Claims.commandWaits o s1 t sel (.barr (s1.region n).retired)) ∧
     ((s1.region n).state ≠ .armed → exec (.barr o) s = .next (Claims.answered o s1 0x21 0)))

/-- O49. Colours, leases and launches (R334 to R339, R348, R349): COPEN writes the colour's entry; CQUOTA its quota;
CCLOSE and CKILL take it out of service and wait; LEASE and UNLEASE wait for the lease service; a launch takes a pool
entry below the slot's depth; QSET sets the quantum, at least 1,024 cycles or none, and QYLD ends the running one. -/
def Obligations.ColourCommands : Prop :=
  ∀ (o : Operands) (s : State), isActor s.cur = false →
    (let u := Claims.memUse o [o.a, o.b] none
     let (s1, sel, w) := (u.after s, u.value s o.a, u.value s o.b)
     let (n, c, q) := (selReg sel, selCol sel, w.toNat)
     let k := (s1.region n).colour c
     u.issues s →
     (Claims.commands s1 n → s1.openStatus n c w = some 0 → ∃ s2 row, exec (.copen o) s = .next (Claims.answered o s2 0 0) ∧
       (s1.region n).image.row c = some row ∧
       let k2 := (s2.region n).colour c
       k2.state = 1 ∧ k2.key = rowKey w ∧ k2.tctx = rowTctx w ∧ k2.stall = rowStall w ∧ k2.quota = row.quota ∧
       k2.ntile = row.ntile ∧ k2.nslot = row.nslot ∧ k2.xtile = row.xtile ∧ k2.xslot = row.xslot) ∧
     (Claims.commands s1 n → k.state = 1 → k.sameRow w = true → s1.rowFrozen n c w = false →
       exec (.copen o) s = .next (Claims.answered o s1 0 0)) ∧
     (Claims.commands s1 n → 1 ≤ q → q ≤ 4096 → k.state = 1 →
       (s1.region n).image.rowOk c k.share k.cap q k.stall = true → (s1.region n).quotaSum c + q ≤ 4096 →
       ∃ s2, exec (.cquota o) s = .next (Claims.answered o s2 0 0) ∧ (s2.region n).colour c = { k with quota := q } ∧
         s2.cores = s1.cores ∧ s2.tiles = s1.tiles) ∧
     (∃ t, exec (.lease o) s = .next t ∧ Claims.commandWaits o s1 t sel (.lease w (selSlt sel))) ∧
     (Claims.commands s1 n → ∃ s2, exec (.qset o) s = .next (Claims.answered o s2 0 0) ∧
       (s2.region n).quantum = (if q % 2 ^ 32 = 0 then 0 else max (q % 2 ^ 32) 1024) ∧ (s2.region n).qStart = s1.cycle)) ∧
    (let u := Claims.memUse o [o.a] none
     let (s1, sel) := (u.after s, u.value s o.a)
     let (n, c) := (selReg sel, selCol sel)
     let k := (s1.region n).colour c
     u.issues s →
     (Claims.commands s1 n → k.state = 1 → ∃ t cmd, exec (.cclose o) s = .next t ∧ ((t.region n).colour c).state = 2 ∧
       cmd ∈ t.cmds ∧ cmd.id = s1.z.nextId ∧ cmd.core = s1.cur ∧ cmd.done = o.t ∧
       cmd.kind = .cclose (k.louvre.filter (fun h => ctlMact h.tok.ctl == 0)).length ∧
       ∀ h ∈ ((t.region n).colour c).louvre, ctlMact h.tok.ctl ≠ 0) ∧
     (Claims.commands s1 n → k.state = 1 ∨ k.state = 2 → ∃ t cmd, exec (.ckill o) s = .next t ∧
       ((t.region n).colour c).state = 3 ∧ cmd ∈ t.cmds ∧ cmd.id = s1.z.nextId ∧ cmd.core = s1.cur ∧ cmd.done = o.t ∧
       cmd.kind = .ckill 0) ∧
     (Claims.commands s1 n → (s1.region n).state = .active ∨ (s1.region n).state = .armed → (s1.region n).preempting = false →
       ((s1.region n).quantum = 0 → exec (.qyld o) s = .next (Claims.answered o s1 0 0)) ∧
       ((s1.region n).quantum ≠ 0 → ∃ s2, exec (.qyld o) s = .next (Claims.answered o s2 0 0) ∧
         (s1.takers n = [] → s2 = s1.modRegion n (fun r => { r with qStart := s1.cycle })) ∧
         (s1.takers n ≠ [] → (s2.region n).preempting = true))) ∧
     (∀ l, s1.lease (sel.toNat % 2 ^ 32) = some l → l.home = s1.galleryOf s1.cur →
       ∃ t, exec (.unlease o) s = .next t ∧ Claims.commandWaits o s1 t 0 (.unlease (sel.toNat % 2 ^ 32))) ∧
     (s1.lease (sel.toNat % 2 ^ 32) = none → exec (.unlease o) s = .next (Claims.answered o s1 0x2B 0))) ∧
    (let u := Claims.memUse o [o.d, o.a, o.b] none
     let (s1, rd, sel, level) := (u.after s, u.value s, u.value s o.a, o.imm.toNat / 2 ^ 4 % 4)
     let (n, g, id) := (selReg sel, s1.galleryOf s1.cur, s1.z.nextId)
     let tok := injToken (selCol sel) (s1.region n).ctx (o.imm.toNat % 8) false (rd o.d) (rd o.b).toNat (s1.doneClock s1.cur)
     o.imm.getLsbD 3 = false → o.imm.toNat < 64 → o.imm.toNat % 4 ≠ 3 → u.issues s → (∀ x ∈ s1.cmds, x.id < id) →
     (s1.me.ldepth.toNat ≤ level → ∀ i ∈ [Instr.lnchW o, .lnchN o], exec i s = s1.raise (exc 0x14 0)) ∧
     (level < s1.me.ldepth.toNat → Claims.commands s1 n →
       (∀ shared, s1.launchWaiting g level id = false → s1.poolEntry g level = some shared →
         ∀ i ∈ [Instr.lnchW o, .lnchN o], ∃ t, exec i s = .next t ∧ Claims.commandWaits o s1 t sel (.lnch level tok) ∧
           (t.gal g).pool = (s1.gal g).pool ++
             [{ cmd := id, level := level, shared := shared, region := n, colour := selCol sel,
                tok := { tok with launch := some id }, injected := false }]) ∧
       (s1.poolEntry g level = none →
         (∃ t, exec (.lnchW o) s = .next t ∧ Claims.commandWaits o s1 t sel (.lnch level tok)) ∧
         exec (.lnchN o) s = .next (Claims.answered o s1 0x27 0))))

/-- O50. The PLACE commands (R429 to R434): TCRD stores a tile's traffic table in rank order, empty where its context is
not active (log entry 81), and answers where it stands; SWPOL sets the policy; SWPEN turns the instants on, and off with
the tables cleared; SWPX asks for one exchange and waits; SWPLG stores the counts and the oldest records of the ring, and
takes them out of it. -/
def Obligations.PlacementCommands : Prop :=
  ∀ (o : Operands) (s : State), isActor s.cur = false →
    (let u := Claims.memUse o [o.a, o.b] none
     let (s1, sel, a, w) := (u.after s, u.value s o.a, u.value s o.b, (u.value s o.b).toNat)
     let n := selReg sel
     let r := s1.region n
     u.issues s → Claims.commands s1 n →
     (s1.recordFault a 64 false = none → selTile sel < r.tileCount →
       let tt := r.phys (selTile sel)
       ∃ s2, exec (.tcrd o) s = .next (Claims.answered o s2 0
           (tt + min (s1.tctx tt r.ctx).cooldown 15 * 2 ^ 16 + (if s1.inSwap tt false then 2 ^ 20 else 0))) ∧
         s2.z = s1.z ∧ s2.regions = s1.regions ∧
         (Memory.wf (s1.localMem s1.cur) = true →
           (∀ q, q < 64 → Memory.read (s2.localMem s1.cur) (a.toNat + q) =
             Claims.byteOf ((rankSort (if (s1.tctx tt r.ctx).live then (s1.tile tt).traffic else [])).map Claims.trafficWord) q) ∧
           (∀ q, q < a.toNat ∨ a.toNat + 64 ≤ q → Memory.read (s2.localMem s1.cur) q = Memory.read (s1.localMem s1.cur) q))) ∧
     (w / 2 ^ 32 = 0 → w / 2 ^ 12 % 2 ^ 4 = 0 → w / 2 ^ 5 % 2 ^ 3 = 0 → 12 ≤ w % 2 ^ 5 → w % 2 ^ 5 ≤ 24 →
       ∃ s2, exec (.swpol o) s = .next (Claims.answered o s2 0 0) ∧ (s2.region n).policy.thr = w / 2 ^ 16 ∧
         (s2.region n).policy.cool = w / 2 ^ 8 % 2 ^ 4 ∧ (s2.region n).policy.ivl = w % 2 ^ 5 ∧
         (s2.region n).policy.enabled = r.policy.enabled ∧
         (r.policy.enabled = true → (s2.region n).policy.clock = s1.cycle ∧ (s2.region n).policy.phase = 0)) ∧
     (w < 4 → selTile sel < r.tileCount → r.state = .armed →
       (∀ p, r.partner (selTile sel) w = some p → s1.pairFits n p.1 p.2.1 = true → s1.swaps = [] →
         (∀ x ∈ s1.cmds, x.id < s1.z.nextId) →
         ∃ t, exec (.swpx o) s = .next t ∧ Claims.commandWaits o s1 t sel (.swpx (selTile sel) w) ∧
           ∃ x, t.swaps = [x] ∧ x.lo = p.1 ∧ x.hi = p.2.1 ∧ x.la = p.2.2.1 ∧ x.lb = p.2.2.2 ∧ x.step = .boundary ∧
             x.cmd = some s1.z.nextId) ∧
       (r.partner (selTile sel) w = none → exec (.swpx o) s = .next (Claims.answered o s1 0x33 0))) ∧
     (s1.recordFault a 64 false = none → Memory.wf (s1.localMem s1.cur) = true →
       let g := AMap.get { recs := [], lost := 0 } s1.rings n
       ∃ s2, exec (.swplg o) s = .next (Claims.answered o s2 0 (min 7 g.recs.length)) ∧
         AMap.get { recs := [], lost := 0 } s2.rings n = { recs := g.recs.drop 7, lost := 0 } ∧
         (∀ q, q < 64 → Memory.read (s2.localMem s1.cur) (a.toNat + q) =
           Claims.byteOf ((min 7 g.recs.length + g.lost * 2 ^ 8) :: (g.recs.take 7).map Claims.swapWord) q) ∧
         (∀ q, q < a.toNat ∨ a.toNat + 64 ≤ q → Memory.read (s2.localMem s1.cur) q = Memory.read (s1.localMem s1.cur) q))) ∧
    (let u := Claims.memUse o [o.a] none
     let (s1, n) := (u.after s, selReg (u.value s o.a))
     let p := (s1.region n).policy
     u.issues s → Claims.commands s1 n →
     (o.imm = 1 →
       (p.enabled = true → exec (.swpenEnable o) s = .next (Claims.answered o s1 0 0)) ∧
       (p.enabled = false → exec (.swpenEnable o) s = .next (Claims.answered o
         (s1.modRegion n (fun r => { r with policy := { p with enabled := true, clock := s1.cycle, phase := 0 } })) 0 0))) ∧
     (o.imm = 0 →
       (p.enabled = false → exec (.swpenDisable o) s = .next (Claims.answered o s1 0 0)) ∧
       (p.enabled = true → ∃ s2, exec (.swpenDisable o) s = .next (Claims.answered o s2 0 0) ∧
         (s2.region n).policy = { p with enabled := false } ∧
         ∀ tt ∈ (s1.region n).sites, (s1.tctx tt (s1.region n).ctx).live = true → (s2.tile tt).traffic = [])))

/-- O51. The SEC family (R471 to R474): KEYLD fills an empty key slot with the 64 bytes, and only an empty one; KEYZ
revokes the leases that name the slot, waits for the instances that hold one, and zeroises it; IFST takes an interface
from CONFIG to LOCKED with a nonce that is a free value (log entry 2), from there to RUN where its colour is open as it
was frozen, and back to CONFIG; IFRPT stores the report of a locked or running one. -/
def Obligations.SecurityCommands : Prop :=
  ∀ (o : Operands) (s : State), engineOf s.cur = .root →
    let u := Claims.memUse o [o.a, o.b] none
    let (s1, a, b) := (u.after s, (u.value s o.a).toNat, u.value s o.b)
    (u.issues s → s1.recordFault b 64 true = none →
      (1 ≤ a → a < 4096 → AMap.has s1.root.keys a = false →
        ∃ s2, exec (.keyld o) s = .next (Claims.answered o s2 0 0) ∧
          AMap.find s2.root.keys a = some (s1.localRead s1.cur b.toNat 64) ∧
          (∀ k, k ≠ a → AMap.find s2.root.keys k = AMap.find s1.root.keys k) ∧ s2.cores = s1.cores ∧ s2.z = s1.z) ∧
      (1 ≤ a → a < 4096 → AMap.has s1.root.keys a = true → exec (.keyld o) s = .next (Claims.answered o s1 0x50 0)) ∧
      (a = 0 ∨ 4096 ≤ a → exec (.keyld o) s = .next (Claims.answered o s1 0x29 0))) ∧
    (let v := Claims.memUse o [o.a] none
     let (s1, a) := (v.after s, (v.value s o.a).toNat)
     v.issues s → 1 ≤ a → a < 4096 →
     (AMap.has s1.root.keys a = true →
       ((∃ l ∈ s1.ls.leases, l.names a = true ∧ s1.leaseInUse l.num = true) →
         ∃ t, exec (.keyz o) s = .next t ∧ Claims.commandWaits o s1 t 0 (.keyz a) ∧
           (∀ l ∈ t.ls.leases, l.names a = true → l.revoked = true) ∧ t.root = s1.root) ∧
       ((∀ l ∈ s1.ls.leases, l.names a = true → s1.leaseInUse l.num = false) →
         ∃ t, exec (.keyz o) s = .next (Claims.answered o t 0 0) ∧ (∀ l ∈ t.ls.leases, l.names a = true → l.revoked = true) ∧
           AMap.find t.root.keys a = none ∧ ∀ k, k ≠ a → AMap.find t.root.keys k = AMap.find s1.root.keys k)) ∧
     (AMap.has s1.root.keys a = false → exec (.keyz o) s = .next (Claims.answered o s1 0 0))) ∧
    (u.issues s → a < 64 →
      (b = 0 → (s1.iface a).st = 0 → (s1.gal 16).sillst.eok = true →
        ∃ s2, exec (.ifstLock o) s = .next (Claims.answered o s2 0 0) ∧ (s2.iface a).st = 1 ∧
          s2.iface a = { s1.iface a with st := 1, nonce := (s2.iface a).nonce }) ∧
      (b = 1 → (s1.iface a).st = 1 →
        let (k, c) := (s1.iface a, (s1.region (ifRegion (s1.iface a))).colour (ifColour (s1.iface a)))
        (c.state = 1 → c.tctx = ifTctx k → c.key = ifKey k →
          exec (.ifstRun o) s = .next (Claims.answered o (s1.modIface a (fun x => { x with st := 2 })) 0 0)) ∧
        (c.state ≠ 1 ∨ c.tctx ≠ ifTctx k ∨ c.key ≠ ifKey k → exec (.ifstRun o) s = .next (Claims.answered o s1 0x53 0))) ∧
      (b = 2 → ∃ s2, exec (.ifstStop o) s = .next (Claims.answered o s2 0 0) ∧ (s2.iface a).st = 0 ∧
        ((s1.iface a).st = 2 → ∀ l ∈ s2.ls.leases, ifKey (s1.iface a) ≠ 0 → AMap.has s1.root.keys (ifKey (s1.iface a)) = true →
          l.names (ifKey (s1.iface a)) = true → l.revoked = true))) ∧
    (u.issues s → s1.recordFault b 256 false = none → a < 64 → Memory.wf (s1.localMem s1.cur) = true →
      ((s1.iface a).st = 1 ∨ (s1.iface a).st = 2 →
        ∃ s2, exec (.ifrpt o) s = .next (Claims.answered o s2 0 256) ∧
          (∀ q, q < 256 → (Memory.read (s2.localMem s1.cur) (b.toNat + q)).toNat =
            (s1.iface a).report a s1.firmwareDigest / 256 ^ q % 256) ∧
          (∀ q, q < b.toNat ∨ b.toNat + 256 ≤ q → Memory.read (s2.localMem s1.cur) q = Memory.read (s1.localMem s1.cur) q)) ∧
      ((s1.iface a).st = 0 ∨ (s1.iface a).st = 3 → exec (.ifrpt o) s = .next (Claims.answered o s1 0x52 0)))

/-! ### What the outside world does: the host's control space -/

/-- O52. Control reads and writes (R7, R458 to R461, R472, R473, R477, R478, R493), once what came before on the port has
been issued: a read sends the register's value and clears what its reading clears; a write that is let through has its
register's effect and succeeds (a register of the pool's group is kept as written, log entry 26; the reserved bits of a
frozen register stay 0, log entry 45), one that is not is refused, and one to a group that the other port holds is logged.
-/
def Obligations.HostControlSpace : Prop :=
  ∀ (s : State) (port : Nat) (v : Word), port < 2 → s.portIssued port s.z.nextId = true →
    -- reads
    (∀ off x, off < 2 ^ 24 → (off, x) ∈ [(0x100000, s.host.bootStep % 8 + s.host.bootStat % 256 * 256),
        (0x200000, s.host.plimW + s.host.plimEst * 2 ^ 32), (0x400000, s.host.evtb), (0x400008, s.host.evthead),
        (0x400010, s.host.evttail)] →
      ∃ t, exec (.controlRead port off) s = .next t ∧ Claims.sends s t [.value port (BitVec.ofNat 64 x)] ∧ t.cores = s.cores) ∧
    (∃ t, exec (.violaddrRead port) s = .next t ∧
      Claims.sends s t [.value port (BitVec.ofNat 64 (s.host.violAddr % 2 ^ 24 + s.host.violCnt * 2 ^ 24 + s.host.violPort * 2 ^ 62 +
        s.host.violV.toNat * 2 ^ 63))] ∧ t.host.violCnt = 0 ∧ t.host.violV = s.host.violV) ∧
    (∀ i, i < 64 → ∃ t, exec (.ifstatRead port i) s = .next t ∧
      Claims.sends s t [.value port (BitVec.ofNat 64 ((s.iface i).st % 4 + (s.iface i).drop % 2 ^ 32 * 2 ^ 16))] ∧
      t.iface i = { s.iface i with drop := 0 } ∧ ∀ j, j ≠ i → t.iface j = s.iface j) ∧
    -- writes that are refused
    (∀ off, off < 2 ^ 24 → s.semTaken port off = false → s.host.bootStep < 5 → exec (.controlWrite port off v) s = .next (s.send (.ack port false))) ∧
    (∀ off, off < 2 ^ 24 → 5 ≤ s.host.bootStep → off / 0x100000 ≠ 0 → AMap.get 0 s.host.own (off / 0x100000) = 2 - port →
      ∃ t, exec (.controlWrite port off v) s = .next t ∧ Claims.sends s t [.ack port false] ∧
        t.host.violCnt = min (s.host.violCnt + 1) 0xFFFF ∧ t.host.violV = true ∧
        (s.host.violV = false → t.host.violAddr = off ∧ t.host.violPort = port) ∧
        (s.host.violV = true → t.host.violAddr = s.host.violAddr ∧ t.host.violPort = s.host.violPort)) ∧
    -- writes that are let through
    (∀ off, off / 0x100000 = 3 → Claims.mayWrite s port off → ∃ t, exec (.controlWrite port off v) s = .next t ∧
      Claims.sends s t [.ack port true] ∧ AMap.get 0 t.host.cxl off = v) ∧
    (Claims.mayWrite s port 0x200000 → ∃ t, exec (.controlWrite port 0x200000 v) s = .next t ∧ Claims.sends s t [.ack port true] ∧
      t.host.plimW = (if 1000 ≤ v.toNat % 2 ^ 16 ∧ v.toNat % 2 ^ 16 ≤ 8000 then v.toNat % 2 ^ 16 else s.host.plimW)) ∧
    (5 ≤ s.host.bootStep → s.semTaken port 0 = false → ∀ mask,
      (∃ t, exec (.ctlsemAcquire port mask) s = .next t ∧ Claims.sends s t [.ack port true] ∧ ∀ g, 1 ≤ g → g < 16 →
        t.holder g = if mask.testBit (g - 1) && s.holder g == 0 then port + 1 else s.holder g) ∧
      (∃ t, exec (.ctlsemRelease port mask) s = .next t ∧ Claims.sends s t [.ack port true] ∧ ∀ g, 1 ≤ g → g < 16 →
        t.holder g = if mask.testBit (g - 1) && s.holder g == port + 1 then 0 else s.holder g)) ∧
    (5 ≤ s.host.bootStep → ∃ t, exec (.violaddrClear port) s = .next t ∧ Claims.sends s t [.ack port true] ∧
      t.host.violV = false ∧ t.host.violCnt = s.host.violCnt) ∧
    (∀ i r, i < 64 → r < 4 → Claims.mayWrite s port (0x500000 + 64 * i + 8 * r) →
      ∃ t, exec (.frozenRegisterWrite port i r v) s = .next t ∧ Claims.sends s t [.ack port true] ∧
        ((s.iface i).st = 0 → ∀ b, b < 64 → ((t.iface i).reg r).testBit b = (v.getLsbD b && (match r with
          | 0 => decide (b < 23)
          | 1 => decide (b < 28)
          | 2 => decide (b < 12)
          | _ => decide (12 ≤ b) && decide (b < 44)))) ∧
        ((s.iface i).st = 3 → t.iface i = s.iface i) ∧
        ((s.iface i).st = 1 ∨ (s.iface i).st = 2 → (t.iface i).st = 3 ∧
          Claims.reports t 16 7 (i + (0x500000 + 64 * i + 8 * r) * 2 ^ 64))) ∧
    (Claims.mayWrite s port 0x400000 →
      (∃ t, exec (.evtbWrite port v) s = .next t ∧ Claims.sends s t [.ack port true] ∧
        t.host.evtb = v.toNat % 2 ^ 52 / 2 ^ 17 * 2 ^ 17) ∧
      (∃ t, exec (.evttailWrite port v) s = .next t ∧ Claims.sends s t [.ack port true] ∧
        t.host.evttail = if s.host.evttail ≤ v.toNat ∧ v.toNat ≤ s.host.evthead then v.toNat else s.host.evttail) ∧
      (∃ t, exec (.evtack port v) s = .next t ∧ Claims.sends s t [.ack port true] ∧ ∀ f ∈ s.ls.faults,
        (f.num / 2 = v.toNat / 2 ∧ f.verdict = none → { f with verdict := some (v.getLsbD 0) } ∈ t.ls.faults) ∧
        (¬ (f.num / 2 = v.toNat / 2 ∧ f.verdict = none) → f ∈ t.ls.faults))) ∧
    -- the event ring
    (∀ src e, s.host.evtb ≠ 0 → s.host.evthead - s.host.evttail < 4096 → Memory.wf s.host.mem = true →
      s.host.events.find? (fun x => x.src == src) = some e →
      ∃ t, exec (.eventRecordWrite src) s = .next t ∧ t.host.evthead = s.host.evthead + 1 ∧
        t.host.events.length + 1 = s.host.events.length ∧
        Memory.readN t.host.mem (s.host.evtb + 32 * (s.host.evthead % 4096)) 8 = e.num % 2 ^ 64 ∧
        Memory.readN t.host.mem (s.host.evtb + 32 * (s.host.evthead % 4096) + 8) 2 = e.kind % 2 ^ 16 ∧
        Memory.readN t.host.mem (s.host.evtb + 32 * (s.host.evthead % 4096) + 10) 1 = e.src % 2 ^ 8 ∧
        Memory.readN t.host.mem (s.host.evtb + 32 * (s.host.evthead % 4096) + 16) 16 = e.data % 2 ^ 128)

/-- O53. The host's messages, reset and loading (R321, R324, R453, R454, R457, R458, R469, R473, R475): a request token
reaches the slot that it names, or the one that its interface binds with the bound colour, and is counted where it cannot;
a memory write becomes writes of the host at system scope and a memory read answers the stored bytes, both where a
migration has moved them (R138); reset brings every slot back empty and begins bring-up, whose steps end one by one;
attestation answers, with the messages and bodies numbered as log entry 49 says (PRESUMED), and an interface's report
leaves only inside a session; a load request is copied, checked on the copy and answered its status, and one that passes
writes its sections as the lease service and starts its slots once the writes are complete (log entries 50 and 51). -/
def Obligations.HostMessages : Prop :=
  ∀ (s : State),
    (∀ port page dest slot tag payload, port < 2 → s.linksUp = true → s.portBusy port = false →
      (∀ p, (dest < 16 ∧ slot < 8 ∧ p = 8 * dest + slot) ∨ (dest = 16 ∧ slot < 4 ∧ p = 128 + slot) →
        ((s.core p).run ≠ .empty → (s.core p).inbox.length < 64 →
          ∃ t, exec (.requestToken port page dest slot 0x7F tag payload) s = .next t ∧
            (t.core p).inbox = (s.core p).inbox ++ [narrow tag 0 payload (s.doneClock hostParty)] ∧
            (∀ q, q ≠ p → t.core q = s.core q) ∧ t.host = s.host) ∧
        ((s.core p).run = .empty → ∃ t, exec (.requestToken port page dest slot 0x7F tag payload) s = .next t ∧
          AMap.get 0 t.host.linkErr 8 = AMap.get 0 s.host.linkErr 8 + 1 ∧ t.cores = s.cores)) ∧
      (∀ i, i < 64 →
        let k := s.iface i
        let p := 8 * (k.cb.toNat / 2 ^ 16 % 16) + k.cb.toNat / 2 ^ 20 % 8
        (k.st = 2 ∧ page % 2 ^ 32 = k.apb.toNat / 2 ^ 12 % 2 ^ 32 → (s.core p).run ≠ .empty → (s.core p).inbox.length < 64 →
          ∃ t tok, exec (.requestToken port page dest slot i tag payload) s = .next t ∧
            (t.core p).inbox = (s.core p).inbox ++ [tok] ∧ tagColour tok.tag = k.cb.toNat / 2 ^ 6 % 1024 ∧
            tok.tag.toNat % 2 ^ 54 = tag.toNat % 2 ^ 54 ∧ tok.payload.toNat = payload.toNat) ∧
        (¬ (k.st = 2 ∧ page % 2 ^ 32 = k.apb.toNat / 2 ^ 12 % 2 ^ 32) → k.drop + 1 < 2 ^ 32 →
          ∃ t, exec (.requestToken port page dest slot i tag payload) s = .next t ∧ (t.iface i).drop = k.drop + 1 ∧
            t.cores = s.cores))) ∧
    (s.linksUp = true → ∃ t, exec .unknownMessage s = .next t ∧ AMap.get 0 t.host.linkErr 8 = AMap.get 0 s.host.linkErr 8 + 1 ∧
      t.cores = s.cores ∧ t.z = s.z) ∧
    (∀ port pa n, port < 2 → s.linksUp = true → pa % 64 = 0 → n % 64 = 0 → 64 ≤ n → n ≤ 4096 → pa + n ≤ 2 ^ 52 →
      (∀ k, k < n / 64 → s.paExists (pa + 64 * k) = true) →
      (∀ bytes : List Byte, bytes.length = n →
        ∃ t op, exec (.memoryWrite port pa bytes) s = .next t ∧ t.z.ops = s.z.ops ++ [op] ∧ op.party = hostParty ∧
          op.scope = .system ∧ op.hostPort = some port ∧ op.core = none ∧ op.reqs.length = n / 8 ∧ t.cores = s.cores ∧
          ∀ i r, op.reqs[i]? = some r → r.kind = .write ∧ r.pa = s.redirect (pa + 8 * i) ∧ r.size = 8 ∧ r.key = 0 ∧ r.desc = none ∧
            r.whole = true ∧ ∀ j, j < 8 → r.data / 256 ^ j % 256 = (bytes.getD (8 * i + j) 0).toNat) ∧
      (s.portIssued port s.z.nextId = true → (∀ k, k < n / 64 → s.hostWriting (s.redirect (pa + 64 * k)) 64 = false) → ∃ t bs, exec (.memoryRead port pa n) s = .next t ∧ Claims.sends s t [.lines port bs] ∧
        bs.length = n ∧ ∀ k j, k < n / 64 → j < 64 →
          (bs.getD (64 * k + j) 0).toNat = View.line s.root.keys (s.view 16) 0 (s.redirect (pa + 64 * k) / 64) / 256 ^ j % 256)) ∧
    (∀ status tiles links revoked,
      ((s.host.bootStep = 0 ∨ 5 ≤ s.host.bootStep ∨ s.host.bootStat ≠ 0 ∨ 0x100 ≤ status) →
        ∃ t, exec (.resetPart status tiles links revoked) s = .next t ∧ t.host.bootStep = 1 ∧ t.host.bootStat = 0 ∧
          t.root.netMode = true ∧ t.cores = [] ∧ t.regions = [] ∧ t.tiles = [] ∧ t.z = State.reset.z ∧ t.host.mem = s.host.mem ∧
          t.root.revokedKeys = s.root.revokedKeys ∧ t.root.identity = some (s.root.identity.getD Config.identityKey)) ∧
      (status < 0x100 → s.host.bootStat = 0 →
        (s.host.bootStep = 1 → ∃ t, exec (.resetPart status tiles links revoked) s = .next t ∧
          t.host.bootStep = (if status = 0x01 then 1 else 2) ∧ t.host.bootStat = (if status = 0x01 then 0x01 else 0) ∧ t.root = s.root) ∧
        (s.host.bootStep = 2 → ∃ t, exec (.resetPart status tiles links revoked) s = .next t ∧
          t.host.bootStep = (if s.firmwareStatus = 0 then 3 else 2) ∧ t.host.bootStat = s.firmwareStatus ∧
          (s.firmwareStatus = 0 → t.root.revokedKeys = s.root.revokedKeys ++ revoked)) ∧
        (s.host.bootStep = 3 → ∃ t, exec (.resetPart status tiles links revoked) s = .next t ∧ t.host.bootStep = 4 ∧ t.host.bootStat = 0 ∧
          (∀ x, x < 1024 → (t.tile x).fenced = ((s.tile x).fenced || tiles.contains x))) ∧
        (s.host.bootStep = 4 → ∃ t, exec (.resetPart status tiles links revoked) s = .next t ∧ t.host.bootStep = 5 ∧ t.host.bootStat = 0 ∧
          t.root.netMode = false ∧ t.cores = s.cores))) ∧
    (∀ message body, message ≤ 8 → ∃ t answer, exec (.spdmRequest message body) s = .next t ∧
      Claims.sends s t [.spdm message answer] ∧ t.cores = s.cores ∧
      (message = 3 → answer = leValue (sha512 Config.identityChain)) ∧
      (message = 6 → (body = 1 → answer = Config.bootRomDigest % 2 ^ 512) ∧
        (body = 2 → answer = leValue (sha512 (Config.firmware s.root.boots))))) ∧
    (∀ i, i < 64 → ((s.host.session = 2 ∧ ((s.iface i).st = 1 ∨ (s.iface i).st = 2)) →
        ∃ t, exec (.spdmRequest 9 i) s = .next t ∧ Claims.sends s t [.spdm 9 ((s.iface i).report i s.firmwareDigest)]) ∧
      (s.host.session ≠ 2 → exec (.spdmRequest 9 i) s = .next s)) ∧
    (∀ (l : Load), 3 ≤ s.host.bootStep →
      let load : Out := exec (.loaderServiceLoad l.pa l.size l.tctx l.own) s
      (s.root.load = none → ∃ t, load = .next t ∧ t.cores = s.cores ∧ t.z = s.z ∧
        ∃ m, t.root.load = some m ∧ m.pa = l.pa ∧ m.size = l.size ∧ m.tctx = l.tctx ∧ m.own = l.own ∧ m.got = [] ∧ m.img = none) ∧
      (s.root.load = some l →
        (l.img = none → l.got.length < l.size → ∃ t m, load = .next t ∧ t.root.load = some m ∧ t.cores = s.cores ∧ m.img = none ∧
          (∀ k, k < l.got.length → m.got[k]? = l.got[k]?) ∧ l.got.length < m.got.length ∧ m.got.length ≤ l.got.length + 8 ∧
          (l.pa + l.got.length) / 8 = (l.pa + m.got.length - 1) / 8) ∧
        (l.img = none → l.size ≤ l.got.length → s.skvStatus l.got l.own ≠ 0 → ∃ t, load = .next t ∧
          Claims.sends s t [.loaded (s.skvStatus l.got l.own)] ∧ t.root.load = none ∧ t.cores = s.cores ∧ t.z = s.z) ∧
        (∀ img, l.img = none → l.size ≤ l.got.length → s.skvStatus l.got l.own = 0 → s.loadTarget l.tctx l.got = some img →
          s.inFlight img.pbase img.size = false → ∃ t op, load = .next t ∧
            (∀ p, (t.core p).run = (s.core p).run ∧ (t.core p).x = (s.core p).x) ∧ t.host.sent = s.host.sent ∧
            t.root.load = some { l with img := some img, op := s.z.nextId } ∧ t.op s.z.nextId = some op ∧ op.party = leaseParty ∧
            op.scope = .device ∧ op.reqs.length = (loadReqs l.got img).length ∧
            ∀ (i : Nat) (r q : Req), op.reqs[i]? = some r → (loadReqs l.got img)[i]? = some q →
              r.kind = .write ∧ r.pa = q.pa ∧ r.size = q.size ∧ r.data = q.data ∧ r.key = img.key ∧ r.desc = q.desc) ∧
        (∀ img, l.img = some img → (s.op l.op).isSome = true → load = .next s) ∧
        (∀ img, l.img = some img → s.op l.op = none →
          ∃ t, load = .next t ∧ Claims.sends s t [.loaded 0] ∧ t.root.load = none ∧
            ∀ r ∈ seqRecs l.got, (∀ q ∈ seqRecs l.got, q.core = r.core → q = r) →
              (t.core r.core).run = .running ∧ (t.core r.core).pc = BitVec.ofNat 64 r.entry ∧ (t.core r.core).x = Core.reset.x ∧
                (t.core r.core).data = [] ∧ (t.core r.core).extents = [] ∧ (t.core r.core).codeBase = r.code ∧
                (t.core r.core).codeSize = r.csize ∧ t.clock r.core = [])))

/-! ### Links, the root's registers, errors -/

/-- O54. Peers, links and errors (R59, R143 to R146, R242 to R246, R318, R405, R465, R477, R494): a token's flits have the
spec's layout and give the token back at the link's end; a peer's token with a route is injected and any other is counted,
a reserved control byte at the colour's entry casement too, where it has one (log entry 48); a peer's write or atomic is
issued; an acknowledgement is taken off; a bad flit is asked for again, on a link of the fabric with every later token of
that link, and a link that keeps failing is reported (from the source that log entry 42 gives, a fabric link as 63: log
entry 78); a fenced tile ends its regions; errors are counted, poison their line and are recorded; the sills' entropy
tests set and clear their bits, and a failure is reported from the gallery or the root (log entry 42). The powers that
OPERATING_POINT_CHANGE moves are the model's choice (log entry 30). -/
def Obligations.LinksAndErrors : Prop :=
  ∀ (s : State),
    (∀ (route : RouteWord) (seq : BitVec 6) (k : Token),
      let head := fun (f : Flit) (type : BitVec 2) (pay : Word) => f.extractLsb' 0 64 = pay ∧ f.extractLsb' 64 64 = k.tag ∧
        f.extractLsb' 128 8 = k.ctl ∧ f.extractLsb' 136 6 = seq ∧ f.extractLsb' 142 2 = type ∧
        f.extractLsb' 144 16 = crc16 (route ++ f.extractLsb' 0 144)
      (k.wide = false → ∃ f, tokenFlits route seq k = [f] ∧ head f 0 k.word) ∧
      (k.wide = true → ∃ f beats, tokenFlits route seq k = f :: beats ∧ head f 1 0 ∧ beats.length = 4 ∧ ∀ (i : Nat) (b : Flit),
        beats[i]? = some b → b.extractLsb' 142 2 = 2 ∧ b.extractLsb' 136 6 = seq + 1 + BitVec.ofNat 6 i ∧
          b.extractLsb' 128 8 = BitVec.ofNat 8 i ∧ b.extractLsb' 0 128 = k.payload.extractLsb' (128 * i) 128 ∧
          b.extractLsb' 144 16 = crc16 (route ++ b.extractLsb' 0 144)) ∧
      (∀ w, Claims.fitsEdge w k → k.carried w route seq = some k)) ∧
    (∀ est island, ∃ t, exec (.operatingPointChange est island) s = .next t ∧ t.host.plimEst = est % 2 ^ 16 ∧
      (island < 16 → s.host.plimW < est →
        AMap.get 0 t.host.points island = min (AMap.get 0 s.host.points island + 1) 7) ∧
      (island < 20 → est ≤ s.host.plimW → est * 100 < 95 * s.host.plimW →
        AMap.get 0 t.host.points island = AMap.get 0 s.host.points island - 1) ∧
      (∀ i, i ≠ island → AMap.get 0 t.host.points i = AMap.get 0 s.host.points i) ∧ t.cores = s.cores) ∧
    (∀ port region tag ctl wide payload clock, port < 8 → s.linksUp = true → ctlKind ctl ≠ 3 → ctlMact ctl ≠ 3 →
      let colour := tagColour tag
      let heard := { s with host := { s.host with resends := AMap.erase s.host.resends port } }
      let tok := { injToken colour (s.region region).ctx (ctlMact ctl) wide tag payload.toNat clock with ctl := ctl }
      (s.incoming port region colour = true → ((s.region region).colour colour).state = 1 →
        ∀ tt ctx e, s.injection region colour tok = .ready tt ctx e →
        exec (.peerTokenArrival port region tag ctl wide payload clock) s = .next (heard.sendOn tt ctx e tok)) ∧
      (s.incoming port region colour = false → exec (.peerTokenArrival port region tag ctl wide payload clock) s =
        .next { s with host := { heard.host with linkErr := AMap.modify 0 s.host.linkErr port (· + 1) } })) ∧
    (∀ port region tag ctl wide payload clock, port < 8 → s.linksUp = true → ctlKind ctl = 3 ∨ ctlMact ctl = 3 →
      s.incoming port region (tagColour tag) = true →
      let (r, k) := (s.region region, (s.region region).colour (tagColour tag))
      ∃ t, exec (.peerTokenArrival port region tag ctl wide payload clock) s = .next t ∧ t.cores = s.cores ∧ t.flights = s.flights ∧
        AMap.get 0 t.host.linkErr port = AMap.get 0 s.host.linkErr port + 1 ∧
        (r.state = .unloaded ∨ k.state = 0 → t.tiles = s.tiles) ∧
        (r.state ≠ .unloaded → k.state ≠ 0 → (AMap.get GatCnt.zero (t.tctx (r.phys k.ntile) r.ctx).gatcnt k.nslot).bad =
          min ((AMap.get GatCnt.zero (s.tctx (r.phys k.ntile) r.ctx).gatcnt k.nslot).bad + 1) 0xFFFFFFFF)) ∧
    (∀ port pa size data cmp clock, port < 8 → s.linksUp = true → 1 ≤ size → pa % 8 + size ≤ 8 → s.paExists pa = true →
      (∀ a ∈ s.z.ops, a.party ≠ peerParty port ∧ a.core ≠ some (peerParty port) ∧ a.id < s.z.nextId) →
      (s.core (peerParty port)).firing.trace.dep = false → (s.core (peerParty port)).firing.trace.reads = [] →
      (∃ t w, exec (.peerMemoryRequest port 0 pa size data cmp clock) s = .next t ∧ t.z.writes = s.z.writes ++ [w] ∧
        w.party = peerParty port ∧ w.pa = s.redirect pa ∧ w.size = size ∧ w.data = data % 2 ^ (8 * size) ∧ w.key = 0 ∧
        w.stamp.dom = 16 + port / 2 ∧ t.cores = s.cores) ∧
      (∀ fn, 1 ≤ fn → fn ≤ 12 → ∃ t op r, exec (.peerMemoryRequest port fn pa size data cmp clock) s = .next t ∧
        t.z.ops = s.z.ops ++ [op] ∧ op.party = peerParty port ∧ op.amo = fn - 1 ∧ op.cmp = cmp ∧ op.sink = .peer port ∧
        op.reqs = [r] ∧ r.kind = .atomic ∧ r.pa = s.redirect pa ∧ r.size = size ∧ r.data = data % 2 ^ (8 * size) ∧
        r.state = .issued)) ∧
    (∀ id who, ∃ t, exec (.systemScopeAcknowledge id who) s = .next t ∧ (∀ w ∈ t.z.writes, w.id = id → who ∉ w.acks) ∧
      (∀ o ∈ t.z.ops, o.id = id → who ∉ o.acks) ∧ (∀ w ∈ s.z.writes, w.id ≠ id → w.finished = false → w ∈ t.z.writes) ∧
      (∀ o ∈ s.z.ops, o.id ≠ id → o ∈ t.z.ops) ∧ t.z.views = s.z.views ∧ t.cores = s.cores) ∧
    (∀ link num, link < 64 ∨ s.hasFlit link num = true → ∃ t, exec (.crcMismatch link num) s = .next t ∧
      Claims.sends s t (if link < 64 then [.resend link num] else []) ∧ t.cores = s.cores ∧
      (64 ≤ link → t.flights.length = s.flights.length ∧ ∀ (i : Nat) (f g : Flight), s.flights[i]? = some f → t.flights[i]? = some g →
        g = { f with discarded := g.discarded } ∧ (f.discarded = true → g.discarded = true) ∧
        (edgeLink f.region f.src f.edge = link → f.hasFlit num = true → g.discarded = true) ∧
        (g.discarded = true → ∀ (j : Nat) (x y : Flight), i < j → s.flights[j]? = some x → t.flights[j]? = some y → f.discarded = false →
          edgeLink x.region x.src x.edge = link → y.discarded = true)) ∧
      AMap.get 0 t.host.retries link = AMap.get 0 s.host.retries link + 1 ∧
      (∀ k, AMap.find s.host.resends link = some (num, k) → AMap.find t.host.resends link = some (num, k + 1)) ∧
      (AMap.find s.host.resends link = none → AMap.find t.host.resends link = some (num, 1))) ∧
    (∀ link num k, AMap.find s.host.resends link = some (num, k) → 64 ≤ k →
      ∃ t, exec (.linkFailed link) s = .next t ∧ AMap.find t.host.resends link = none ∧
        Claims.reports t (if link < 8 then 19 + link else if link = 8 then 27 else 16) 3
          (min link 63 + min (AMap.get 0 s.host.retries link) 0xFFFFFFFF * 2 ^ 32)) ∧
    (∀ tile, tile < 1024 → ∃ t, exec (.tfence tile) s = .next t ∧ (t.tile tile).fenced = true ∧
      (∀ u, u ≠ tile → (t.tile u).fenced = (s.tile u).fenced) ∧ Claims.reports t 16 4 tile ∧
      ∀ n, (n, s.region n) ∈ s.regions → (s.region n).state ≠ .unloaded → tile ∈ (s.region n).sites → (t.region n).state = .unloaded) ∧
    (∀ value : Word, let (lo, hi) := (value.toNat % 256, value.toNat / 256 % 256)
      ∃ t, exec (.netctlWrite value) s = .next t ∧ t.cores = s.cores ∧
      (1 ≤ lo → lo ≤ hi → t.root.netWmin = lo ∧ t.root.netWmax = hi ∧ t.root.netThr = value.toNat / 2 ^ 16 % 256 ∧
        t.root.netMode = value.getLsbD 24 ∧ ∀ x, (t.tile x).window t.root = max lo (min hi (s.tile x).win)) ∧
      (lo = 0 ∨ hi < lo → t = s)) ∧
    (∃ t, exec .merrstRead s = .next t ∧ t.root.merrCe = 0 ∧ t.root.merrUe = 0 ∧ t.root.merrOvf = s.root.merrOvf ∧
      t.root.merrHead = s.root.merrHead) ∧
    (∃ t, exec .merrstOvfClear s = .next t ∧ t.root.merrOvf = false ∧ t.root.merrCe = s.root.merrCe ∧ t.root.merrUe = s.root.merrUe) ∧
    (∃ t, exec .gdropRead s = .next t ∧ t.root.gdrop = 0 ∧ t.cores = s.cores) ∧
    (∀ g, g < 16 → let k := (s.gal g).sillst
      (∃ t, exec (.sillstRead g) s = .next t ∧ (t.gal g).sillst = { k with spec := 0, efc := 0 }) ∧
      (∃ t, exec (.sillstEfailClear g) s = .next t ∧ (t.gal g).sillst = { k with efail := false })) ∧
    (∀ src test, src ≤ 16 → test ≤ 2 → let k := (s.gal src).sillst
      (∃ t, exec (.entropyHealthFailure src test) s = .next t ∧ (t.gal src).sillst.efail = true ∧ (t.gal src).sillst.eok = false ∧
        (t.gal src).sillst.efc = min (k.efc + 1) 0xFFFF ∧ Claims.reports t src 8 (src + test * 2 ^ 8)) ∧
      (∃ t, exec (.entropyStartupPass src) s = .next t ∧ (t.gal src).sillst = { k with eok := true } ∧
        ∀ g, g ≠ src → t.gal g = s.gal g)) ∧
    (∃ t, exec .correctedError s = .next t ∧ t.root.merrCe = min (s.root.merrCe + 1) 0xFFFF ∧ t.z = s.z ∧ t.host = s.host) ∧
    (∀ level views addr, level ≤ 6 → ∃ t e, exec (.uncorrectableError level views addr) s = .next t ∧
      t.root.merrUe = min (s.root.merrUe + 1) 0xFFFF ∧ t.root.merrHead = (s.root.merrHead + 1) % 256 ∧
      (s.root.merrHeld = 256 → t.root.merrOvf = true) ∧ t.host.events.getLast? = some e ∧ e.src = 18 ∧ e.kind = 2 ∧
      e.data % 2 ^ 52 = addr % 2 ^ 52 ∧ e.data / 2 ^ 52 % 16 = level ∧ e.data / 2 ^ 56 % 256 = 2 ∧
      (level = 0 ∨ level = 1 ∨ level = 4 ∨ level = 5 → ∀ d, d < 20 → d ≠ 16 → views.testBit d = true →
        (t.view d).poisoned addr = true) ∧
      (level = 3 → AMap.get 0 (t.tile (addr / 2 ^ 32 % 2 ^ 20)).locPoison (addr % 2 ^ 21 / 64) ≠ 0)) ∧
    (∀ addr, s.paExists addr = true → 0x1000000000 ≤ addr → ∃ t e, exec (.cxlPoisonReport addr) s = .next t ∧
      (∀ d, d < 20 → d ≠ 16 → (t.view d).poisoned addr = true) ∧ t.root.merrUe = min (s.root.merrUe + 1) 0xFFFF ∧
      t.host.events.getLast? = some e ∧ e.src = 18 ∧ e.kind = 2 ∧ e.data / 2 ^ 52 % 16 = 5 ∧ e.data / 2 ^ 56 % 256 = 3)

/-! ### The memory machine, the lease service -/

/-- O55. Issue, delivery, atomics and replies (R40, R47 to R49, R52 to R56, R144, R219, R315, R319, R482, R483): a request
issues once its arcs are met, the earlier requests of its own operation to the same bytes are complete, its tile's window
is open and, in mode 1, no earlier request of the tile to the unit waits; a write takes the next number of its domain and
stamps its clock with it; a read is served from its domain's view, and one that is an arc source merges the clock of what
it read; a view applies a delivered write once it has applied the write's causal past, byte by byte where the stamp is the
greater, and then serves every WAITV whose condition it meets; an atomic reads and writes at its home; a reply moves the
tile's window; a copy engine reads and writes units of 8 bytes, and what it writes to local memory waits for its
completion (R51, R226); a fence and an operation complete into their registers. That a read is served in the step in which
it issues (log entry 7), that delivery and application are one step (log entry 8), what a read that is served without a
merge leaves (log entry 9) and that a copy's local writes wait for its completion (log entry 68) are the model's choices.
-/
def Obligations.MemoryMachine : Prop :=
  ∀ (s : State),
    -- issue
    (∀ id i merge o r, s.op id = some o → o.reqs[i]? = some r → r.state = .buffered → domainOf o.party < 20 →
      ((r.kind ≠ .fence ∧ s.mayInject o i r.pa r.size = false) ∨ s.arcsMet o = false ∨ s.portTurn o = false ∨ s.reqOrdered o i r = false →
        exec (.zaluloIssue id i merge) s = .next s) ∧
      ((r.kind = .fence ∨ s.mayInject o i r.pa r.size = true) → s.arcsMet o = true → s.portTurn o = true → s.reqOrdered o i r = true →
        let d := domainOf o.party
        (r.kind = .write → ∃ t w, exec (.zaluloIssue id i merge) s = .next t ∧ t.z.writes = s.z.writes ++ [w] ∧ w.party = o.party ∧
          w.pa = r.pa ∧ w.size = r.size ∧ w.data = r.data ∧ w.stamp.dom = d ∧ w.stamp.num = AMap.get 0 s.z.counters d + 1 ∧
          AMap.get 0 t.z.counters d = w.stamp.num ∧ clockAt w.stamp.clock d = w.stamp.num ∧
          (∀ k, k < 20 → k ≠ d → clockAt w.stamp.clock k = clockAt (s.opClock o) k) ∧ w.delivered = [] ∧ w.applied = [] ∧
          (∀ o2, t.op id = some o2 → t.opClock o2 = w.stamp.clock) ∧ t.z.views = s.z.views ∧ t.cores = s.cores) ∧
        (r.kind = .read → o.cond = none → ∃ t o2 v, exec (.zaluloIssue id i merge) s = .next t ∧ t.op id = some o2 ∧
          o2.reqs[i]? = some { r with state := .served v ((s.view d).poisoned r.pa) } ∧
          v % 2 ^ (8 * r.size) = View.bytes s.root.keys (s.view d) r.key r.pa r.size ∧
          t.opClock o2 = (if merge || o.eager || s.arcSource o then clockMerge (s.opClock o) ((s.view d).clockOf r.pa r.size) else s.opClock o) ∧
          t.z.views = s.z.views ∧ t.z.writes = s.z.writes) ∧
        (r.kind = .atomic ∨ r.kind = .fence → ∃ t o2, exec (.zaluloIssue id i merge) s = .next t ∧ t.op id = some o2 ∧
          o2.reqs[i]? = some { r with state := .issued } ∧ t.z.views = s.z.views ∧
          (r.kind = .fence → o2.waits = (s.z.writes.filter (fun w => w.party == o.party)).map (fun w => w.id))))) ∧
    -- delivery
    (∀ w d, d < 20 → w ∈ s.z.writes → (∀ x ∈ s.z.writes, x.id = w.id → x = w) → (∀ x ∈ s.z.writes, x.id ≠ w.id → d ∉ x.delivered) →
      d ∉ w.applied → ∃ t, exec (.zaluloDeliver w.id d) s = .next t ∧
        ((∀ x ∈ s.z.ops, x.cond = none) → t.cores = s.cores ∧ t.z.ops = s.z.ops) ∧
        (t.view d ≠ s.view d → ∀ x ∈ t.z.ops, x.cond ≠ none → domainOf x.party = d → ∀ r rest, x.reqs = r :: rest → r.state = .issued →
          x.accepts (View.bytes s.root.keys (t.view d) r.key r.pa r.size + x.descBits (t.view d) r) ((t.view d).poisoned r.pa) = false) ∧
        (∀ k, k ≠ d → t.view k = s.view k) ∧
        ((∃ x ∈ s.z.writes, x.id ≠ w.id ∧ clockLe x.stamp.clock w.stamp.clock = true ∧ d ∉ x.applied) → t.view d = s.view d) ∧
        ((∀ x ∈ s.z.writes, x.id ≠ w.id → clockLe x.stamp.clock w.stamp.clock = true → d ∈ x.applied) →
          Memory.wf (s.view d).mem = true → w.pa + w.size ≤ 2 ^ 52 →
          (∀ k, k < w.size → w.be.testBit k = true → Memory.read (t.view d).mem (w.pa + k) =
            if Stamp.lt ((s.view d).stampAt (w.pa + k)) w.stamp then BitVec.ofNat 8 (w.data >>> (8 * k))
            else Memory.read (s.view d).mem (w.pa + k)) ∧
          ∀ a, a < 2 ^ 52 → a < w.pa ∨ w.pa + w.size ≤ a → Memory.read (t.view d).mem a = Memory.read (s.view d).mem a)) ∧
    -- atomics
    (∀ id i merge o r, s.op id = some o → o.reqs[i]? = some r → r.state = .issued → r.kind = .atomic →
      let h := s.homeDomain r.pa
      let m := View.bytes s.root.keys (s.view h) r.key r.pa r.size
      let (mw, b) := (BitVec.ofNat 64 m, BitVec.ofNat 64 r.data)
      pastApplied s.z.writes s.z.nextId (s.opClock o) h = true → (s.view h).poisoned r.pa = false →
      (o.amo = 10 → mw ≠ BitVec.ofNat 64 o.cmp → ∃ t o2, exec (.zaluloAtomic id i merge) s = .next t ∧ t.op id = some o2 ∧
        o2.reqs[i]? = some { r with state := .performed m none } ∧ t.z.views = s.z.views ∧ t.z.writes = s.z.writes) ∧
      (∀ x : Word, (o.amo, x) ∈ [(0, mw + b), (2, if mw.toInt < b.toInt then mw else b), (3, if mw.toInt < b.toInt then b else mw),
          (4, if mw.toNat < b.toNat then mw else b), (5, if mw.toNat < b.toNat then b else mw), (6, mw &&& b), (7, mw ||| b),
          (8, mw ^^^ b), (9, b), (11, if b = 0 ∨ mw.toNat < b.toNat - 1 then mw + 1 else 0)] ∨
          (o.amo = 10 ∧ mw = BitVec.ofNat 64 o.cmp ∧ x = b) →
        ∃ t o2 w, exec (.zaluloAtomic id i merge) s = .next t ∧ t.op id = some o2 ∧
          o2.reqs[i]? = some { r with state := .performed m (some w.id) } ∧ w ∈ t.z.writes ∧ w.id = s.z.nextId ∧ w.pa = r.pa ∧
          w.size = r.size ∧ w.data = x.toNat % 2 ^ (8 * r.size) ∧ w.stamp.dom = h ∧ h ∈ w.applied)) ∧
    -- replies
    (∀ id i marked o r tt, s.op id = some o → o.tile = some tt → o.reqs[i]? = some r → r.kind ≠ .fence → r.replied = false →
      s.reqDone o r = true →
      let (w, since) := ((s.tile tt).window s.root, min 255 ((s.tile tt).sinceHalf + 1))
      let mark : Bool := marked || decide (s.root.netThr = 0)
      ∃ t, exec (.memoryReply id i marked) s = .next t ∧ t.z.views = s.z.views ∧ t.cores = s.cores ∧
        (mark = true → s.root.netMode = false → w ≤ since → (t.tile tt).win = max (w / 2) s.root.netWmin) ∧
        (mark = true → s.root.netMode = false → since < w → (t.tile tt).win = w) ∧
        (mark = false ∨ s.root.netMode = true → (t.tile tt).win =
          if w ≤ (s.tile tt).unmarked + 1 then min (w + 1) s.root.netWmax else w) ∧
        (s.stale o = false → ∃ o2, t.op id = some o2 ∧
          o2.reqs = if o.unit then o.reqs.eraseIdx i else o.reqs.set i { r with replied := true }) ∧
        (s.stale o = true → t.root.gdrop = min (s.root.gdrop + 1) 0xFFFFFFFF)) ∧
    -- the read-only cache
    (∀ g col unit key, g < 16 →
      (∃ t e, exec (.roCacheFill g col unit key) s = .next t ∧ t.roEntry g col (unit / 8 * 8) key = some e ∧
        e.value = View.bytes s.root.keys (s.view g) key (unit / 8 * 8) 8 ∧ e.poisoned = (s.view g).poisoned (unit / 8 * 8) ∧
        t.z.views = s.z.views) ∧
      (∃ t, exec (.roCacheDrop g col unit) s = .next t ∧ t.roEntry g col (unit / 8 * 8) key = none ∧ t.z.views = s.z.views)) ∧
    -- completion
    (∀ id o p, s.op id = some o → o.core = some p → o.id = id → o.sink = .discard → (s.core p).run ≠ .ending →
      (o.isFence = true → s.opReady o = true → ∃ t, exec (.fenceComplete id) s = .next t ∧ (∀ x ∈ t.z.ops, x.id ≠ id) ∧
        (o.done ≠ 0 → (t.core p).rx o.done = completion o.status o.doneResult ∧ (t.core p).pendingX o.done = false))) ∧
    (∀ id o p d n signed, s.cmd id = none → s.op id = some o → o.id = id → o.core = some p → o.isFence = false →
      s.completable o = true → o.sink = .xreg d n signed → d ≠ 0 → d ≠ o.done → (s.core p).run ≠ .ending →
      (o.badAddr = none → isQueue p d = false → ∃ t, exec (.doneCompletion id) s = .next t ∧ (∀ x ∈ t.z.ops, x.id ≠ id) ∧
        (t.core p).rx d = extendBytes n signed o.firstValue ∧ (t.core p).pendingX d = false ∧
        (o.done ≠ 0 → (t.core p).rx o.done = completion o.status o.doneResult ∧ (t.core p).pendingX o.done = false)) ∧
      (∀ va, o.badAddr = some va → isActor p = false → (s.core p).trap.act = false → (s.core p).trap.tvecSet = true →
        ∃ t, exec (.doneCompletion id) s = .next t ∧ (t.core p).trap.code = 0x05 ∧ (t.core p).trap.tval = BitVec.ofNat 64 va ∧
          (t.core p).trap.tepc = o.pc ∧ (t.core p).trap.act = true ∧ (t.core p).pc = (s.core p).trap.tvec &&& ~~~(3 : Word))) ∧
    -- copies and streams
    (∀ id c o i u, s.copies.find? (fun c => c.op == id) = some c → s.op id = some o → s.arcsMet o = true → o.pending = true →
      c.op = id → (∀ q n f, c.kind ≠ .pop q n f) → (∀ q n f g, c.kind ≠ .push q n f g) →
      (c.source i = some u → c.fromDevice = true → AMap.has c.buf u = false →
        let (a, n) := spanIn c.sourceRanges u
        ∀ pa key stb, s.translate (permitting c.extents .read) a n .read = some (pa, key, stb) →
        s.mayInject o o.reqs.length pa n = true →
        ∃ t c2 x, exec (.copyEngineTransfer id i false) s = .next t ∧ t.copies.find? (fun c => c.op == id) = some c2 ∧
          AMap.find c2.buf u = some x ∧ x.poison = (s.view (domainOf o.party)).poisoned pa ∧
          x.value = View.bytes s.root.keys (s.view (domainOf o.party)) key pa n * 2 ^ (8 * (a % 8)) ∧ t.z.views = s.z.views) ∧
      (∀ x, c.dest i = some u → c.done.contains i = false → c.piece u = some x → c.toDevice = true →
        let (a, n, p) := ((spanIn c.destRanges u).1, (spanIn c.destRanges u).2, c.padded u x)
        ∀ pa key stb, s.translate (permitting c.extents .write) a n .write = some (pa, key, stb) → fullBytes p.bits = someBytes p.bits →
        let unit := pa - (a - 8 * u)
        s.mayInject o o.reqs.length unit 8 = true →
        ∃ t w, exec (.copyEngineTransfer id i true) s = .next t ∧ t.z.writes = s.z.writes ++ [w] ∧ w.pa = unit ∧
          w.size = 8 ∧ w.be = someBytes p.bits ∧ w.data = p.value ∧ (w.poison = true ↔ p.bad ≠ []) ∧ w.party = o.party) ∧
      (∀ x, c.dest i = some u → c.done.contains i = false → c.piece u = some x → c.toDevice = false →
        ∃ t c2, exec (.copyEngineTransfer id i true) s = .next t ∧ t.tiles = s.tiles ∧ t.cores = s.cores ∧ t.z.writes = s.z.writes ∧
          t.copies.find? (fun c => c.op == id) = some c2 ∧ c2.done = i :: c.done)) ∧
    (∀ id merge j o, s.streams.find? (fun j => j.op == id) = some j → s.op id = some o → o.id = id → s.arcsMet o = true →
      o.pending = true → j.fail = none → j.stage = none → j.writes = [] → j.count ≤ j.next →
      (j.fn ≠ 1 → ∃ t o2, exec (.streamUnitTransfer id merge) s = .next t ∧ t.op id = some o2 ∧ o2.pending = false ∧
        o2.result = j.count ∧ t.cores = s.cores) ∧
      (j.fn = 1 → isQueue j.core j.d = false → j.d ≠ 0 → ∃ t o2, exec (.streamUnitTransfer id merge) s = .next t ∧
        t.op id = some o2 ∧ o2.pending = false ∧ (t.core j.core).rx j.d = reduceResult j.f (recElem j.ha) j.acc ∧
        (t.core j.core).pendingX j.d = false))

/-- O56. The lease service (R133, R134, R136 to R139, R338, R339, R471): a waiting LEASE is granted, or refused with its
code; an UNLEASE and a zeroise end when no admitted instance holds the lease; a migration marks the leaf, copies the lines
written since, and moves every view's lines with their values at its commit, or is abandoned after eight rounds; an old
frame is released, scrubbed in every view once no write to it is on its way, and freed, and so is a frame that nothing
holds or uses any more (log entry 57). -/
def Obligations.LeaseServiceEvents : Prop :=
  ∀ (s : State),
    (∀ id c row slt x, s.cmd id = some c → c.kind = .lease row slt →
      let r := s.region c.region
      let k := r.colour c.colour
      r.state ≠ .unloaded → r.gen = c.gen → (r.image.row c.colour).isSome = true → s.rowFrozen c.region c.colour row = false →
      (k.state = 1 → k.tctx = rowTctx row ∧ k.key = rowKey row) → k.lease.bind s.lease = none →
      (s.tryLease c.region c.colour (rowTctx row) (rowKey row) c.id = .granted x →
        ∃ t l, exec (.leaseComplete id) s = .next t ∧ t.ls.leases = s.ls.leases ++ [l] ∧ l.num = s.ls.next ∧
          l.region = c.region ∧ l.colour = c.colour ∧ l.tctx = rowTctx row ∧ l.key = rowKey row ∧ l.extents = x ∧ l.revoked = false ∧
          t.ls.next = s.ls.next + 1 ∧ ((t.region c.region).colour c.colour).lease = some s.ls.next ∧
          Claims.finished s t c 0 s.ls.next) ∧
      (∀ status, s.tryLease c.region c.colour (rowTctx row) (rowKey row) c.id = .refused status →
        ∃ t, exec (.leaseComplete id) s = .next t ∧ t.ls = s.ls ∧ Claims.finished s t c status 0) ∧
      (s.tryLease c.region c.colour (rowTctx row) (rowKey row) c.id = .waits → exec (.leaseComplete id) s = .next s)) ∧
    (∀ id c n, s.cmd id = some c → c.kind = .unlease n →
      ((s.lease n).isSome = true → s.leaseInUse n = true → exec (.unleaseEnd id) s = .next s) ∧
      (s.lease n = none → ∃ t, exec (.unleaseEnd id) s = .next t ∧ Claims.finished s t c 0x2B 0) ∧
      ((s.lease n).isSome = true → s.leaseInUse n = false → ∃ t, exec (.unleaseEnd id) s = .next t ∧ (∀ l ∈ t.ls.leases, l.num ≠ n) ∧
        Claims.finished s t c 0 0)) ∧
    (∀ id c slot, s.cmd id = some c → c.kind = .keyz slot →
      (∀ l ∈ s.ls.leases, l.revoked = true → l.names slot = true → s.leaseInUse l.num = false) →
      ∃ t, exec (.keyzZeroise id) s = .next t ∧ AMap.find t.root.keys slot = none ∧
        (∀ k, k ≠ slot → AMap.find t.root.keys k = AMap.find s.root.keys k) ∧ Claims.finished s t c 0 0) ∧
    (∀ tctx va frame tier at_ e size, s.pageWalk tctx va = .leaf at_ e size → at_ % 8 = 0 → e < 2 ^ 64 → e.testBit 7 = false →
      s.frameLeased (pteFrame e) size = false → frame % size = 0 → tier = tierOf frame → s.rangeExists frame size = true →
      s.frameHeld frame size = false → s.frameLeased frame size = false →
      ∃ t m w, exec (.migrationStart tctx va frame tier) s = .next t ∧ t.ls.migrations = s.ls.migrations ++ [m] ∧
        m.src = pteFrame e ∧ m.dst = frame ∧ m.size = size ∧ m.tier = tier ∧ m.round = 0 ∧
        w ∈ t.z.writes ∧ w.pa = at_ ∧ w.size = 8 ∧ w.data = e + 2 ^ 7) ∧
    (∀ id m, s.ls.migrations.find? (fun m => m.id == id) = some m →
      (m.round < 8 → ∃ t m2, exec (.migrationRound id) s = .next t ∧ t.ls.migrations.find? (fun m => m.id == id) = some m2 ∧
        m2.round = m.round + 1 ∧ t.markedLines m2 = [] ∧ t.z = s.z) ∧
      (1 ≤ m.round → (s.markedLines m).length ≤ 256 → s.frameLeased m.src m.size = false → s.foreignWrite m = false → ∃ t, exec (.migrationCommit id) s = .next t ∧
        (∀ x ∈ t.ls.migrations, x.id ≠ id) ∧ t.ls.redirects = s.ls.redirects ++ [(m.src, m.dst, m.size)] ∧
        t.z.ops.map (fun o => o.reqs.map (fun r => r.pa)) = s.z.ops.map (fun o => o.reqs.map (fun r =>
          if m.src ≤ r.pa ∧ r.pa < m.src + m.size then m.dst + (r.pa - m.src) else r.pa)) ∧
        ∀ d k key, d < 20 → d ≠ 16 → Memory.wf (s.view d).mem = true → k < m.size / 64 → m.src % 64 = 0 → m.dst % 64 = 0 →
          m.src + m.size ≤ 2 ^ 52 → m.dst + m.size ≤ 2 ^ 52 → m.src + m.size ≤ m.dst ∨ m.dst + m.size ≤ m.src →
          keyTag s.root.keys key = s.pageTag m →
          View.line t.root.keys (t.view d) key (m.dst / 64 + k) = View.line s.root.keys (s.view d) key (m.src / 64 + k)) ∧
      (8 ≤ m.round → 256 < (s.markedLines m).length → ∃ t, exec (.migrationAbandon id) s = .next t ∧
        (∀ x ∈ t.ls.migrations, x.id ≠ id) ∧ t.root.abandoned = s.root.abandoned + 1 ∧ t.ls.redirects = s.ls.redirects)) ∧
    (∀ o n size, s.ls.redirects.find? (fun r => r.1 == o) = some (o, n, size) →
      ∃ t, exec (.oldFrameRelease o) s = .next t ∧ (∀ r ∈ t.ls.redirects, ¬ (r.1 = o ∧ r.2.1 = n)) ∧
        t.ls.scrub = s.ls.scrub ++ [(o, size)] ∧ t.z = s.z) ∧
    (∀ f, s.ls.redirects.find? (fun r => r.1 == f) = none → s.canFree f = true →
      ∃ t, exec (.oldFrameRelease f) s = .next t ∧ t.ls.scrub = s.ls.scrub ++ [(f, 65536)] ∧ t.z = s.z) ∧
    (∀ b n, s.ls.scrub.find? (fun f => f.1 == b) = some (b, n) → b % 64 = 0 → n % 64 = 0 → b + n ≤ 2 ^ 52 → s.inFlight b n = false →
      ∃ t, exec (.frameScrub b) s = .next t ∧ (∀ f ∈ t.ls.scrub, f.1 ≠ b) ∧ t.ls.free = s.ls.free ++ [(b, n)] ∧
        (∀ d line key, d < 20 → b ≤ 64 * line → 64 * line < b + n →
          View.line t.root.keys (t.view d) key line = 0 ∧ (t.view d).descriptor line = (0x00, 0x7F) ∧
          (t.view d).poisoned (64 * line) = false) ∧
        ∀ g col pa key, g < 16 → b ≤ pa → pa < b + n → t.roEntry g col pa key = none)

/-! ### The fabric's operators -/

/-- O57. Matching and the operators (R249, R252, R264, R266, R267, R281 to R301): an arriving token, one event (log entry
10), completes its set or takes an entry; a set fires once, its result carries its tag and leaves on its slot's edge; the
lanes that MAP, NRM, LUT and a closing RED send are those of their functions, for sets without poison, and STE, MRG and
TAG send the payload that they take; a reduction's accumulator stands in the entry of its first token (log entry 12); JON
compares heads and GEN emits its sequence; a request of LDM or STM, its result and completion; a stalled colour's tokens
go to the sump and come back (log entry 79). Slots whose edge carries predicates (log entry 14) are left out. -/
def Obligations.Operators : Prop :=
  ∀ (s : State),
    -- arrival
    (∀ region src e colour f,
      let r := s.region region
      let (tt, buf) := s.edgeEnd region src e
      let c := s.tctx tt r.ctx
      let w := (s.tctx (r.phys src) r.ctx).edge e
      s.flights.find? (fun f => f.on region src e && tagColour f.tok.tag == colour) = some f → Claims.fitsEdge w f.tok →
      f.discarded = false → f.sent + crossing w f.tok ≤ s.cycle → f.late = none → s.transomAt region (edgeDstT w) = false →
      f.gen = r.gen → c.live = true → (r.colour colour).state ≠ 3 → s.swapHolds tt = false → s.due = [] →
      (c.portOf buf = none → ∃ t h, exec (.tokenArrival [(region, src, e, colour)]) s = .next t ∧ t.cycle = s.cycle + 1 ∧
        h.tok = f.tok ∧ AMap.get [] (t.tctx tt r.ctx).buffers buf = AMap.get [] c.buffers buf ++ [h]) ∧
      (∀ slot port, c.portOf buf = some (slot, port) → port < 4 → c.headOf buf colour = none → ctlMact f.tok.ctl = 0 →
        c.bucketHit f.tok.tag slot = false → waKind (c.wordA slot) ∉ [1, 5, 6, 8, 11] →
        (c.complete slot port s.cycle f.tok = some [] →
          ∃ t x, exec (.tokenArrival [(region, src, e, colour)]) s = .next t ∧ (t.tctx tt r.ctx).ready = c.ready ++ [x] ∧
            x.slot = slot ∧ x.colour = colour ∧ x.toks.map (fun k => k.tok) = [f.tok] ∧ (t.tctx tt r.ctx).headOf buf colour = none) ∧
        (c.complete slot port s.cycle f.tok = none → s.canEnter tt r.ctx colour 1 = true →
          ∃ t en, exec (.tokenArrival [(region, src, e, colour)]) s = .next t ∧ (t.tctx tt r.ctx).store = c.store ++ [en] ∧
            en.kind = .token ∧ en.slot = slot ∧ en.port = port ∧ en.tok = f.tok ∧ (t.tctx tt r.ctx).ready = c.ready))) ∧
    -- operators that make one result
    (∀ tile slot colour x,
      let ctx := s.activeCtx tile
      let c := s.tctx tile ctx
      let (a, b, tag) := (c.wordA slot, c.wordB slot, x.lead.tag)
      let sends := fun (t : State) (which kind : Nat) (last wide : Bool) (payload : Nat) =>
        Claims.sent s t tile ctx (waOut a which) (Claims.outToken c slot x tag kind last wide payload)
      x.poison = none → Claims.hasOut c slot 0 →
      (Claims.mayFire s tile slot colour 0 x →
        let wide := x.toks.head?.any (fun k => k.tok.wide)
        ∃ t p, exec (.mapFiring tile slot colour) s = .next t ∧ Claims.setGone s t tile x ∧ sends t 0 0 x.last wide p ∧
          (waFunc a ≠ 32 → waFunc a ≠ 36 → ∀ i, i < payLanes (typeOf (waType a)) wide → payLane (typeOf (waType a)) wide p i =
            (let arg := fun k => Claims.mapArg a b wide x k i
             mapLane (waFunc a) (rndOf (b.toNat % 8)) (typeOf (waType a)) (arg 0) (arg 1) (arg 2)) % 2 ^ payLaneBits (typeOf (waType a)) wide) ∧
          (waFunc a = 32 → ∀ f g, f = typeOf (waType a) → g = typeOf (b.toNat / 2 ^ 3 % 2 ^ 5) →
            ∀ i, i < min (payLanes f wide) (payLanes g wide) → payLane g wide p i =
              (convert f g (rndOf (b.toNat % 8)) (Claims.mapArg a b wide x 0 i % 2 ^ elemBits f)).bits % 2 ^ payLaneBits g wide) ∧
          let arg := fun (k i : Nat) => payLane (typeOf (waType a)) wide ((x.toks.map (fun k => k.tok.payload.toNat)).getD k 0) i
          (waFunc a = 36 → p = (x.toks.map (fun k => k.tok.payload.toNat)).getD 0 0) ∧
          (b.getLsbD 8 = false → b.getLsbD 9 = false → ∀ i, i < payLanes (typeOf (waType a)) wide →
            let out := payLane (typeOf (waType a)) wide p i
            (waFunc a = 9 → out = (arg 0 i &&& arg 1 i) % 2 ^ elemBits (typeOf (waType a))) ∧ (waFunc a = 10 → out = (arg 0 i ||| arg 1 i) % 2 ^ elemBits (typeOf (waType a))) ∧
            (waFunc a = 11 → out = (arg 0 i ^^^ arg 1 i) % 2 ^ elemBits (typeOf (waType a))) ∧ (waFunc a = 35 → out = if arg 2 i = 0 then arg 1 i else arg 0 i) ∧
            (waFunc a = 0 → isFloatType (typeOf (waType a)) = false → typeOf (waType a) ≠ .csp →
              out = (arg 0 i + arg 1 i) % 2 ^ elemBits (typeOf (waType a))))) ∧
      (Claims.mayFire s tile slot colour 2 x → ∃ t p, exec (.nrmFiring tile slot colour) s = .next t ∧ Claims.setGone s t tile x ∧
        sends t 0 0 x.last false p ∧ ∀ i, i < 2 → payLane (typeOf (waFunc a)) false p i =
          cspResolve (typeOf (waFunc a)) (cspOfBits (x.lead.payload.extractLsb' (256 * i) 256)) %
            2 ^ payLaneBits (typeOf (waFunc a)) false) ∧
      (Claims.mayFire s tile slot colour 3 x → let f := typeOf (waType a)
        ∃ t p, exec (.lutFiring tile slot colour) s = .next t ∧ Claims.setGone s t tile x ∧ sends t 0 0 x.last x.lead.wide p ∧
        ∀ i, i < payLanes f x.lead.wide → payLane f x.lead.wide p i =
          lutLane b (AMap.get [] c.luts (b.toNat / 2 ^ 40 % 2 ^ 3)) f (payLane f x.lead.wide x.lead.payload.toNat i) %
            2 ^ payLaneBits f x.lead.wide) ∧
      (∀ d q, x.on 0 = some d → x.on 3 = some q →
        (Claims.mayFire s tile slot colour 4 x → waFunc a = 0 → q.payload.getLsbD 0 = true →
          ∃ t, exec (.steFiring tile slot colour) s = .next t ∧ Claims.setGone s t tile x ∧ sends t 0 0 x.last d.wide d.payload.toNat) ∧
        (Claims.mayIssue s tile slot colour 4 x [] → waFunc a = 0 → q.payload.getLsbD 0 = false →
          ∃ t, exec (.steFiring tile slot colour) s = .next t ∧ Claims.setGone s t tile x ∧
            ((∀ u v e, AMap.get [] (s.tctx u v).stage e = []) → t.flights = s.flights)) ∧
        (∀ k, k = (if q.payload.getLsbD 0 then 0 else 1) → Claims.mayIssue s tile slot colour 4 x [k] → waFunc a = 1 →
          Claims.hasOut c slot k → ∃ t, exec (.steFiring tile slot colour) s = .next t ∧ Claims.setGone s t tile x ∧
            sends t k 0 x.last d.wide d.payload.toNat)) ∧
      (Claims.mayFire s tile slot colour 5 x → ∀ k, x.toks.find? (fun k => k.port != 3) = some k → ∃ t out,
        exec (.mrgFiring tile slot colour) s = .next t ∧ Claims.setGone s t tile x ∧ Claims.sent s t tile ctx (waOut a 0) out ∧
        out.tag = tag ∧ out.payload = BitVec.ofNat 512 k.tok.payload.toNat ∧ out.wide = k.tok.wide ∧
        ctlLast out.ctl = ctlLast k.tok.ctl ∧ ctlKind out.ctl = ctlKind k.tok.ctl) ∧
      (let (k, l) := (b.toNat % 8, x.lead)
       let tagged := fun (w : Word) (last : Bool) => ∃ t, exec (.tagFiring tile slot colour) s = .next t ∧ Claims.setGone s t tile x ∧
         Claims.sent s t tile ctx (waOut a 0) (Claims.outToken c slot x w 0 last l.wide l.payload.toNat)
       (∀ e, Claims.mayFire s tile slot colour 8 x → waFunc a = 0 → (c.store ++ c.sumped).find? (fun e => e.isCounter slot l.tag) = some e →
         e.kind.next < 2 ^ fieldW c.tagw k → tagged (setField c.tagw k e.kind.next l.tag) (ctlLast l.ctl)) ∧
       (Claims.mayFire s tile slot colour 8 x → waFunc a = 1 → l.payload.toNat < 2 ^ fieldW c.tagw k →
         tagged (setField c.tagw k l.payload.toNat l.tag) (ctlLast l.ctl)) ∧
       (Claims.mayFire s tile slot colour 8 x → waFunc a = 2 → (b.getLsbD 3 = true → ctlLast l.ctl = true) →
         tagged (clearFrom c.tagw k l.tag) (!b.getLsbD 3 && ctlLast l.ctl)) ∧
       (Claims.mayIssue s tile slot colour 8 x [] → waFunc a = 2 → b.getLsbD 3 = true → ctlLast l.ctl = false →
         ∃ t, exec (.tagFiring tile slot colour) s = .next t ∧ Claims.setGone s t tile x ∧
           ((∀ u v e, AMap.get [] (s.tctx u v).stage e = []) → t.flights = s.flights)))) ∧
    -- reductions, sequences, comparisons
    (∀ tile slot colour x,
      let ctx := s.activeCtx tile
      let c := s.tctx tile ctx
      let (a, b, outer) := (c.wordA slot, c.wordB slot, outerTag c slot x.lead.tag)
      (Claims.mayIssue s tile slot colour 1 x [] → redClosed b (c.redNext slot x) = false → x.seq < s.serial →
        (∀ y ∈ c.store ++ c.sumped, y.isToken = true → y.seq ≠ (c.redAcc slot x).seq) →
        ∃ t, exec (.redFiring tile slot colour) s = .next t ∧ Claims.setGone s t tile x ∧
          (∀ acc, c.accOf slot outer = some acc → acc ∈ c.store → c.redNext slot x ∈ (t.tctx tile ctx).store) ∧
          (c.accOf slot outer = none → c.redNext slot x ∈ (t.tctx tile ctx).store)) ∧
      (Claims.mayFire s tile slot colour 1 x → redClosed b (c.redNext slot x) = true → Claims.hasOut c slot 0 →
        ∃ t out, exec (.redFiring tile slot colour) s = .next t ∧ Claims.setGone s t tile x ∧
          Claims.sent s t tile ctx (waOut a 0) out ∧ out.tag = outer ∧
          (x.poison = none → ctlPoison (c.redAcc slot x).tok.ctl = false → c.spoiled.contains (slot, outer) = false →
            ctlPoison out.ctl = false ∧ out.wide = x.lead.wide ∧
            ((c.redAcc slot x).kind.next = 0 → out.payload = x.lead.payload) ∧
            ((c.redAcc slot x).kind.next ≠ 0 → waType a ≠ 16 → let f := typeOf (waType a)
              ∀ i, i < payLanes f x.lead.wide → payLane f x.lead.wide out.payload.toNat i =
                redNode (waFunc a) f (rndOf (b.toNat / 2 ^ 19 % 2 ^ 3)) (b.getLsbD 22)
                  (payLane f x.lead.wide (c.redAcc slot x).tok.payload.toNat i) (payLane f x.lead.wide x.lead.payload.toNat i) %
                    2 ^ payLaneBits f x.lead.wide)) ∧
          ∀ acc, c.accOf slot outer = some acc → (∀ y ∈ c.sumped, y.seq ≠ acc.seq) → ∀ y ∈ (t.tctx tile ctx).store, y.seq ≠ acc.seq)) ∧
    (∀ tile slot colour x,
      let ctx := s.activeCtx tile
      let c := s.tctx tile ctx
      let (a, b) := (c.wordA slot, c.wordB slot)
      (Claims.mayFire s tile slot colour 7 x → AMap.has c.gens slot = false → ∃ t, exec (.genTrigger tile slot colour) s = .next t ∧
        Claims.setGone s t tile x ∧ AMap.find (t.tctx tile ctx).gens slot = some { trigger := x.lead, count := 0 }) ∧
      (∀ g, AMap.find c.gens slot = some g → c.live = true → AMap.get 0 c.issuedAt slot ≤ s.cycle → Claims.hasOut c slot 0 → ctlPoison g.trigger.ctl = false →
        (∀ k, k < 2 → waOut a k ≠ 0xFF → AMap.get [] c.stage (waOut a k) = []) →
        let total := b.toNat % 2 ^ 16 * (b.toNat / 2 ^ 16 % 2 ^ 16)
        ∃ t out, exec (.genEmit tile slot) s = .next t ∧ Claims.sent s t tile ctx (waOut a 0) out ∧ out.tag = g.trigger.tag ∧
          ctlLast out.ctl = decide (total ≤ g.count + 1) ∧ (waFunc a = 0 → out.payload = BitVec.ofNat 512 g.count) ∧
          AMap.find (t.tctx tile ctx).gens slot = (if total ≤ g.count + 1 then none else some { g with count := g.count + 1 }))) ∧
    (∀ tile slot tag ea eb x,
      let ctx := s.activeCtx tile
      let c := s.tctx tile ctx
      let w := BitVec.ofNat 64 tag
      s.slotRuns tile ctx = true → AMap.has c.slots slot = true → waKind (c.wordA slot) = 6 →
      s.turnOk c slot (tagColour w) (agedColours (c.jonSets slot)) = true →
      firstSet ((c.jonSets slot).filter (fun y => y.colour == tagColour w)) = some x → x.lead.tag = w →
      c.jonHead slot 0 w = some ea → c.jonHead slot 1 w = some eb → ctlLast ea.tok.ctl = false → ctlLast eb.tok.ctl = false →
      c.sumped = [] → ea.seq ≠ eb.seq → c.jons.find? (fun r => r.slot == slot && r.tag == w) = none →
      ∃ t, exec (.jonComparison tile slot tag) s = .next t ∧ AMap.get 0 (t.tctx tile ctx).lastFire (tagColour w) = s.cycle ∧
        (jonCoord ea.tok ≤ jonCoord eb.tok → ∀ y ∈ (t.tctx tile ctx).store, y.seq ≠ ea.seq) ∧
        (jonCoord eb.tok ≤ jonCoord ea.tok → ∀ y ∈ (t.tctx tile ctx).store, y.seq ≠ eb.seq) ∧
        (ctlPoison ea.tok.ctl = false → ctlPoison eb.tok.ctl = false → jonCoord ea.tok = jonCoord eb.tok →
          ∃ j p, (t.tctx tile ctx).jons.find? (fun r => r.slot == slot && r.tag == w) = some j ∧ j.held = some p ∧
            p.1.payload.toNat = jonValue ea.tok * 2 ^ 32 + jonValue eb.tok ∧ p.2.payload.toNat = jonCoord ea.tok ∧ p.1.tag = w)) ∧
    -- LDM and STM
    (∀ tile slot colour x,
      let ctx := s.activeCtx tile
      let c := s.tctx tile ctx
      let (a, b) := (c.wordA slot, c.wordB slot)
      let k := s.instOfTag c.region x.lead.tag
      x.poison = none →
      (Claims.mayFire s tile slot colour 9 x →
        let va := (x.lead.word + BitVec.ofInt 64 (BitVec.ofNat 32 (b.toNat % 2 ^ 32)).toInt).toNat
        let n := if c.ldmWide slot then 64 else 8
        ∀ pa key stb, va % n = 0 → s.translate ((s.inst k).elim [] (fun i => i.extents)) va n .read = some (pa, key, stb) →
        ∃ t op, exec (.ldmFiring tile slot colour) s = .next t ∧ Claims.setGone s t tile x ∧ t.z.ops = s.z.ops ++ [op] ∧
          op.party = slotParty tile ctx slot ∧ op.inst = some k ∧ op.tile = some tile ∧
          op.sink = .ldm tile ctx slot x.lead.tag x.last (c.ldmWide slot) (waFunc a % 2 == 1) ∧
          op.reqs.map (fun r => (r.va, r.pa, r.size)) = (unitPieces va n).map (fun p => (va + p.1, pa + p.1, p.2)) ∧
          ∀ r ∈ op.reqs, r.kind = (if 2 ≤ waFunc a && stb then .readOnly else .read) ∧ r.key = key) ∧
      (Claims.mayFire s tile slot colour 10 x → ∀ d0 d1, x.on 0 = some d0 → x.on 1 = some d1 →
        let va := (d0.word + BitVec.ofInt 64 (BitVec.ofNat 32 (b.toNat % 2 ^ 32)).toInt).toNat
        let n := if waFunc a = 0 then (if d1.wide then 64 else 8) else if waFunc a = 2 then 4 else 8
        ∀ pa key stb, va % n = 0 → s.translate ((s.inst k).elim [] (fun i => i.extents)) va n
          (if waFunc a = 0 then .write else .atomic) = some (pa, key, stb) →
        ∃ t op, exec (.stmFiring tile slot colour) s = .next t ∧ Claims.setGone s t tile x ∧ t.z.ops = s.z.ops ++ [op] ∧
          op.party = slotParty tile ctx slot ∧ op.sink = .stm tile ctx slot x.lead.tag x.last ∧
          (waFunc a = 0 → op.reqs.map (fun r => (r.pa, r.size, r.data)) = (unitPieces va n).map (fun p =>
            (pa + p.1, p.2, (d1.payload.toNat >>> (8 * p.1)) % 2 ^ (8 * p.2)))) ∧
          (waFunc a ≠ 0 → op.amo = waFunc a - 1 ∧ op.reqs.map (fun r => (r.pa, r.size, r.data)) =
            [(pa, n, d1.payload.toNat % 2 ^ (8 * n))]))) ∧
    (∀ id o tt ctx slot tag, s.op id = some o → o.id = id → s.opReady o = true → o.answered = true → s.stale o = false →
      let c := s.tctx tt ctx
      (∀ last wide, o.sink = .ldm tt ctx slot tag last wide false → ∃ t, exec (.ldmResult id) s = .next t ∧
        (∀ x ∈ t.z.ops, x.id ≠ id) ∧
        (∀ w, c.outs = [w] → w.slot = slot → w.colour = tagColour tag → w.op = some id → Claims.hasOut c slot 0 → o.badLine = none →
          ∃ out, Claims.sent s t tt ctx (waOut (c.wordA slot) 0) out ∧ out.tag = tag ∧ out.wide = wide ∧
            out.payload = BitVec.ofNat 512 o.readData ∧ ctlLast out.ctl = last ∧ ctlPoison out.ctl = false)) ∧
      (∀ last, o.sink = .stm tt ctx slot tag last → ∃ t, exec (.stmCompletion id) s = .next t ∧ (∀ x ∈ t.z.ops, x.id ≠ id) ∧
        (∀ w, c.outs = [w] → w.slot = slot → w.colour = tagColour tag → w.op = some id → Claims.hasOut c slot 0 → o.badLine = none →
          ∃ out, Claims.sent s t tt ctx (waOut (c.wordA slot) 0) out ∧ out.tag = tag ∧ ctlKind out.ctl = 2 ∧
            out.payload = BitVec.ofNat 512 (if waFunc (c.wordA slot) = 0 then o.result else o.firstValue)))) ∧
    -- the sump
    (∀ tile ctx colour, let c := s.tctx tile ctx
      (∀ e ∈ c.store, e.colour = colour → e.spill = none) → c.live = true → s.stalled c colour = true →
      ∃ t, exec (.stallSpill tile ctx colour false) s = .next t ∧ AMap.get 0 (t.tctx tile ctx).lastSpill colour = s.cycle ∧
        ∀ e ∈ c.store, (s.spillChoice c colour).contains e.seq = true → { e with spill := some s.cycle } ∈ (t.tctx tile ctx).store) ∧
    (∀ tile ctx e addr cap, let c := s.tctx tile ctx
      c.store = [e] → e.spill.isSome = true → e.kind = .token → AMap.get (0, 0) c.sumps e.colour = (addr, cap) → 0 < cap → c.sumped = [] →
      Memory.wf (s.tile tile).loc = true →
      ∃ t, exec (.stallSpill tile ctx e.colour true) s = .next t ∧ (t.tctx tile ctx).store = [] ∧
        (t.tctx tile ctx).sumped = [{ e with spill := some 0, edge := none }] ∧
        Memory.readN (t.tile tile).loc addr 8 = e.tok.tag.toNat ∧
        Memory.readN (t.tile tile).loc (addr + 8) 1 = e.tok.ctl.toNat) ∧
    (∀ tile ctx buf colour slot port h e, let c := s.tctx tile ctx
      c.portOf buf = some (slot, port) → c.headOf buf colour = some h → c.live = true → s.swapHolds tile = false →
      waKind (c.wordA slot) ∉ [1, 5, 6, 8, 11] → ctlMact h.tok.ctl = 0 → c.sumped = [e] → e.slot = slot → e.tok.tag = h.tok.tag →
      e.port ≠ port → e.kind = .token → ctlMact e.tok.ctl = 0 → c.store = [] → (waPorts (c.wordA slot)).filter (fun p => p != port) = [e.port] →
      port < 4 → e.port < 4 → 0 < s.cycle → (∀ y ∈ c.ready, y.seq < s.serial) →
      ∃ t x, exec (.sumpRefill tile ctx buf colour) s = .next t ∧ (t.tctx tile ctx).sumped = [] ∧
        (t.tctx tile ctx).ready = c.ready ++ [x] ∧ x.on port = some h.tok ∧ x.on e.port = some e.tok)

/-! ### Instances and firings -/

/-- O58. The life of an instance (R241, R255 to R261, R309, R341, R342, R344, R351): a start token waits in its colour's
louvre or is dropped; an admission draws the lowest free F0, makes the instance and sends its tag on; results are counted,
a done token ends the instance (which verdict stands: log entry 24), late tokens are dropped; the sweep removes what
carries its tag, each tile's in one step (log entry 15); the completion says how many results there were and how long it
took, and retires it; the stream units walk its ports. Firings and quanta (R24, R30, R31, R148, R150, R154, R155, R158,
R349, R350): a firing starts at its binding's entry with its five registers and its tokens reserved; one over its budget
in a region that is being pre-empted is saved; one over the watchdog's count ends with its instance; a quantum that runs
out starts anew or stops its region, and the tiles go to the configuration that waits. -/
def Obligations.InstancesAndFirings : Prop :=
  (∀ (s : State),
     (∀ tile slot colour x k,
       let ctx := s.activeCtx tile
       let region := (s.tctx tile ctx).region
       let cnt := fun (u : State) => AMap.get GatCnt.zero (u.tctx tile ctx).gatcnt slot
       (s.casementSet tile ctx slot colour 0 = some (x, k) →
         (ctlKind k.tok.ctl ≠ 3 → ctlMact k.tok.ctl ≠ 3 → s.serves tile ctx slot colour false = true →
           ((s.region region).colour colour).state = 1 → ∃ t h, exec (.gatEntryFiring tile slot colour) s = .next t ∧
             h.tok = k.tok ∧ ((t.region region).colour colour).louvre = ((s.region region).colour colour).louvre ++ [h]) ∧
         (ctlKind k.tok.ctl ≠ 3 → ctlMact k.tok.ctl ≠ 3 → ((s.region region).colour colour).state ≠ 1 → k.tok.launch = none →
           ∃ t, exec (.gatEntryFiring tile slot colour) s = .next t ∧ (cnt t).drop = min ((cnt s).drop + 1) 0xFFFFFFFF) ∧
         (ctlKind k.tok.ctl = 3 ∨ ctlMact k.tok.ctl = 3 → ∃ t, exec (.gatEntryFiring tile slot colour) s = .next t ∧
           (cnt t).bad = min ((cnt s).bad + 1) 0xFFFFFFFF)) ∧
       (s.exitSet tile ctx slot colour k.port = some (x, k) →
         (k.port = 0 → s.exitInst tile ctx slot k.tok = none → ∃ t, exec (.exitResultForward tile slot colour) s = .next t ∧
           (cnt t).late = min ((cnt s).late + 1) 0xFFFFFFFF) ∧
         (∀ key i, s.exitInst tile ctx slot k.tok = some (key, i) → s.inst key = some i →
           (k.port = 0 → ctlPoison k.tok.ctl = false → ∃ t i2, exec (.exitResultForward tile slot colour) s = .next t ∧
             t.inst key = some i2 ∧ i2.results = i.results + 1 ∧ i2.verdict = i.verdict) ∧
           (k.port = 0 → ctlPoison k.tok.ctl = true → ∃ t i2 v, exec (.exitResultForward tile slot colour) s = .next t ∧
             t.inst key = some i2 ∧ i2.verdict = some v ∧ v.err = true ∧ v.payload.toNat % 2 ^ 16 = 0x0105) ∧
           (k.port = 1 → ∃ t i2 v, exec (.exitDoneFiring tile slot colour) s = .next t ∧ t.inst key = some i2 ∧
             i2.verdict = some v ∧ v.err = false ∧ v.payload = 0 ∧ i2.results = i.results)))) ∧
     (∀ region colour h rest x v,
       let r := s.region region
       let k := r.colour colour
       let tt := r.phys k.ntile
       k.louvre = h :: rest → s.slotOpen tt r.ctx k.nslot = true → ctlMact h.tok.ctl = 0 → k.state = 1 → r.admitting = true →
       s.draining region = false → r.admitted colour + r.heldDone colour < k.quota →
       (∀ p ∈ r.image.ports, AMap.has k.binds p.1 = true) → s.admitExtents r k = some x → r.draw colour = some v →
       ∃ t i, exec (.louvreAdmit region colour) s = .next t ∧ (t.region region).insts = r.insts ++ [i] ∧ i.colour = colour ∧ i.f0 = v ∧
         i.tag = setField r.image.tagw 0 v (mkTag colour (tagCtx h.tok.tag) 0) ∧ i.extents = x ∧ i.verdict = none ∧ i.results = 0 ∧
         i.admitted = s.cycle ∧ ((t.region region).colour colour).louvre = rest ∧
         ((t.region region).colour colour).drawn = k.drawn ++ [v] ∧
         (Claims.hasOut (s.tctx tt r.ctx) k.nslot 0 → Claims.sent s t tt r.ctx (waOut ((s.tctx tt r.ctx).wordA k.nslot) 0)
           { h.tok with tag := i.tag, launch := none })) ∧
     (∀ region colour f0 tile i v,
       let r := s.region region
       let key : InstKey := { region := region, colour := colour, f0 := f0 }
       let tt := r.phys tile
       s.inst key = some i → i.verdict = some v →
       (tile < r.tileCount → (∀ w ∈ s.swaps, w.step ≠ .transfer) → (∀ j, j < 4 → (s.core (256 + 4 * tt + j)).run = .empty) →
         i.swept.contains tile = false → s.instBusy key i = false → ∃ t i2, exec (.sweepAcknowledge region colour f0 tile) s = .next t ∧ t.inst key = some i2 ∧
           i2.sweep = some ((i.sweep.getD (upTo r.tileCount)).filter (fun n => n != tile)) ∧
           (∀ e ∈ (t.tctx tt r.ctx).store, e.swept r.image.tagw colour f0 = false) ∧
           (∀ e ∈ (t.tctx tt r.ctx).sumped, e.swept r.image.tagw colour f0 = false)) ∧
       (i.sweep = some [] → s.instBusy key i = false → (∀ j ∈ r.insts, j.colour = colour → j.fired = none) →
         waOut ((s.tctx (r.phys (r.colour colour).xtile) r.ctx).wordA (r.colour colour).xslot) 1 = 0xFF →
         ∃ t tok, exec (.completionEmit region colour f0) s = .next t ∧ (t.region region).queue = r.queue ++ [tok] ∧
           tok.tag = i.tag ∧ ctlErr tok.ctl = v.err ∧ ctlKind tok.ctl = 2 ∧ (v.err = true → tok.payload = v.payload) ∧
           (v.err = false → tok.payload.toNat = i.results % 2 ^ 32 + min (s.cycle - i.admitted) 0xFFFFFFFF * 2 ^ 32) ∧
           t.inst key = none ∧ (t.region region).retired = r.retired + 1 ∧
           ((t.region region).colour colour).drawn = (r.colour colour).drawn.filter (fun n => n != f0))) ∧
     (∀ region colour f0 port v,
       let r := s.region region
       let key : InstKey := { region := region, colour := colour, f0 := f0 }
       let tt := r.phys v.ltile
       let h := v.bind.record f0
       let l := walkLoc h v.run.next
       let quiet : Prop := (s.core (portParty tt)).firing.trace.dep = false ∧ (s.core (portParty tt)).firing.trace.reads = []
       (s.portView key port false = some v → s.portReady port tt r.ctx v = true → recordMisaligned h = false →
         (∀ o ∈ s.z.ops, o.tile ≠ some tt ∧ o.party ≠ portParty tt ∧ o.core ≠ some (portParty tt) ∧ o.id ≠ s.z.nextId) → quiet →
         ∀ pa k stb, s.translate v.inst.extents l.addr l.bytes .read = some (pa, k, stb) →
         (unitPieces pa l.bytes).length ≤ (s.tile tt).window s.root →
         ∃ t i p, exec (.streamPortRead region colour f0 port) s = .next t ∧ t.inst key = some i ∧
           i.ports.find? (fun p => p.port == port) = some p ∧ p.next = v.run.next + 1 ∧
           p.ended = decide (recCount h ≤ v.run.next + 1)) ∧
       (s.portView key port true = some v → (s.tile tt).fenced = false → s.swapHolds tt = false →
         (∀ tok rest, v.ripe f0 = none → v.run.toks = tok :: rest →
           (recCount h ≤ v.run.next → ∃ t, exec (.streamPortWrite region colour f0 port) s = .next t ∧
             AMap.get 0 ((t.region region).colour colour).discards port =
               min (AMap.get 0 (r.colour colour).discards port + 1) 0xFFFFFFFF ∧ t.z = s.z) ∧
           (v.run.next < recCount h → recordMisaligned h = false →
             ∀ pa k stb, s.translate v.inst.extents l.addr l.bytes .write = some (pa, k, stb) →
             ∃ t i p, exec (.streamPortWrite region colour f0 port) s = .next t ∧ t.inst key = some i ∧
               i.ports.find? (fun p => p.port == port) = some p ∧ p.next = v.run.next + 1 ∧
               p.units = ((v.job f0).store pa k (laneAt (recElem h) tok.payload v.run.hand % 2 ^ elemBits (recElem h))).writes ∧
               t.z.writes = s.z.writes)) ∧
         (∀ u, v.ripe f0 = some u → fullBytes u.bits = someBytes u.bits →
           (∀ o ∈ s.z.ops, o.tile ≠ some tt ∧ o.party ≠ portParty tt ∧ o.core ≠ some (portParty tt) ∧ o.id ≠ s.z.nextId) → quiet →
           1 ≤ (s.tile tt).window s.root → ∃ t w, exec (.streamPortWrite region colour f0 port) s = .next t ∧ t.z.writes = s.z.writes ++ [w] ∧
             w.pa = u.pa ∧ w.size = 8 ∧ w.be = someBytes u.bits ∧ w.desc = (if u.pa % 64 < 8 then u.desc else none) ∧
             w.party = portParty tt ∧ ∀ k, k < 64 → u.bits.testBit k = true → w.data.testBit k = u.value.testBit k)))) ∧
  (∀ (s : State),
     (∀ tile slot bnd colour b hs,
       let ctx := s.activeCtx tile
       let c := s.tctx tile ctx
       let p := 256 + 4 * tile + slot
       slot < 4 → (s.core p).run = .empty → AMap.has c.saved slot = false → AMap.find c.binds bnd = some b →
       s.readySet tile ctx bnd colour = some hs → s.coreOpen tile ctx = true → s.oldestReady tile ctx colour hs = true →
       s.turnOk c 24 colour (s.readyColours tile ctx) = true →
       ∃ t, exec (.actorFiringIssue tile slot bnd colour) s = .next t ∧ (t.core p).run = .running ∧
         (t.core p).pc = BitVec.ofNat 64 (c.codeBase + b.entry) ∧ (t.core p).rx 1 = BitVec.ofNat 64 (c.areaOf colour) ∧
         (∀ h rest, hs = h :: rest → (t.core p).rx 2 = h.tok.tag) ∧ (t.core p).rx 3 = BitVec.ofNat 64 (c.scratchBase slot) ∧
         (t.core p).rx 4 = BitVec.ofNat 64 c.scr ∧
         (t.core p).rx 5 = BitVec.ofNat 64 (c.ltile * 2 ^ 16 + ctx * 2 ^ 10 + slot * 2 ^ 8 + bnd) ∧
         (∀ r : RegField, 6 ≤ r.toNat → (t.core p).rx r = 0) ∧ (t.core p).firing.colour = colour ∧ (t.core p).firing.bnd = bnd ∧
         AMap.get 0 (t.tctx tile ctx).lastFire colour = s.cycle ∧
         ∀ buf hs2, (buf, hs2) ∈ (t.tctx tile ctx).buffers → ∀ h ∈ hs2, hs.any (fun x => x.seq == h.seq) = true →
           h.reserved = some slot) ∧
     (∀ p, isActor p = true → (s.region (s.core p).firing.region).preempting = true → 2048 ≤ s.fcyc p → s.suspendable p = true →
       (∃ r, s.parkWalk p = .ok r) →
       ∃ t f, exec (.firingBudgetSuspend p) s = .next t ∧ t.core p = Core.reset ∧
         AMap.find (t.tctx (tileOf p) (s.core p).firing.ctx).saved (slotOf p) = some f ∧ f.colour = (s.core p).firing.colour ∧
         f.bnd = (s.core p).firing.bnd ∧ f.tag = (s.core p).firing.tag) ∧
     (∀ p, isActor p = true → (s.core p).run ≠ .empty → (s.core p).run ≠ .ending → 2 ^ 24 ≤ s.fcyc p →
       ∃ t, exec (.watchdogExpiry p) s = .next t ∧ Claims.slotOver s t p ∧
         ∀ i, s.inst (s.firingInst p) = some i → i.verdict = none → ∃ i2 v, t.inst (s.firingInst p) = some i2 ∧
           i2.verdict = some v ∧ v.err = true ∧ v.payload.toNat % 2 ^ 16 = 0x0007) ∧
     (∀ n, let r := s.region n
       r.quantum ≠ 0 → r.qStart + r.quantum ≤ s.cycle → (r.state = .active ∨ r.state = .armed) → r.preempting = false →
       (s.takers n = [] → ∃ t, exec (.quantumExpiry n) s = .next t ∧ t = s.modRegion n (fun r => { r with qStart := s.cycle })) ∧
       (s.takers n ≠ [] → ∃ t, exec (.quantumExpiry n) s = .next t ∧ (t.region n).preempting = true ∧
         ∀ tt ∈ r.sites, (t.tctx tt r.ctx).state = .suspending)) ∧
     (∀ n, let r := s.region n
       r.preempting = true → (∀ tt ∈ r.sites, s.tileStopped tt r.ctx = true) →
       (s.chooseTaker n = none → ∃ t, exec (.blockSchedulerActivate n) s = .next t ∧ (t.region n).preempting = false ∧
         (t.region n).qStart = s.cycle ∧ (t.region n).state = r.state) ∧
       (∀ m, s.chooseTaker n = some m → m ≠ n → ∃ t, exec (.blockSchedulerActivate n) s = .next t ∧
         (t.region n).preempting = false ∧
         ((t.region n).state = .loaded ∨ (t.region n).state = .suspended ∨ (t.region n).state = .parked) ∧
         (t.region m).preempting = false ∧ (t.region m).qStart = s.cycle ∧
         (t.region m).state = (if (s.region m).state = .parked ∨ (s.region m).state = .suspended then .armed else .active))))

/-! ### Waiting commands -/

/-- O59. Waiting commands complete (R57, R256, R307, R310, R312, R330, R331, R336, R337, R342, R344, R347, R348): each
event's command, once what it waits for has come, has its effect and completes with its status and result. The model's
own, and no rule of the spec: the turns in which CFGLD reads, checks and ends, and the status of one whose region is
unloaded meanwhile (log entry 23), what CKILL's finish waits for and discards (log entry 31), and that admission stays
closed while another BARR waits (log entry 32). -/
def Obligations.WaitingCommandsComplete : Prop :=
  ∀ (s : State) (id : Nat) (c : Cmd), s.cmd id = some c →
    (∀ src any addr d, c.kind = .await src any addr d → (s.core c.core).run ≠ .empty → d ≠ 0 → d ≠ c.done →
      (∀ tok, src ≠ 0 → (s.core c.core).inbox[s.awaitPlace c]? = some tok →
        ∃ t, exec (.awaitTake id) s = .next t ∧ (t.core c.core).rx d = tok.tag ∧ (t.core c.core).pendingX d = false ∧
          (c.done = 0 → (t.core c.core).inbox = (s.core c.core).inbox.eraseIdx (s.awaitPlace c)) ∧ Claims.finished s t c 0 (if ctlErr tok.ctl then 1 else 0)) ∧
      (∀ tok, (src = 0 ∨ (src ≠ 1 ∧ (s.core c.core).inbox[s.awaitPlace c]? = none)) → (s.region c.region).state ≠ .unloaded → s.awaitPick c = some tok →
        ∃ t, exec (.awaitTake id) s = .next t ∧ (t.core c.core).rx d = tok.tag ∧ (t.core c.core).pendingX d = false ∧
          (t.region c.region).queue = dropFirst c.accepts (s.region c.region).queue ∧
          Claims.finished s t c 0 (if ctlErr tok.ctl then 1 else 0))) ∧
    (∀ l, s.launch id = some l → l.injected = false → s.launchFirst c.gal l = true →
      let k := (s.region l.region).colour l.colour
      (k.state = 1 → (k.lease.bind s.lease).isSome = true → s.injWaiting l.region l.colour s.z.nextId = false →
        ∀ tt ctx e, s.injection l.region l.colour l.tok = .ready tt ctx e →
        ∃ t, exec (.pendingLaunchProcess id) s = .next t ∧ t.flights = (s.sendOn tt ctx e l.tok).flights ∧
          (∀ x, t.launch id = some x → x.injected = true) ∧ t.cmds = s.cmds) ∧
      (k.state ≠ 1 → ∃ t, exec (.pendingLaunchProcess id) s = .next t ∧ t.launch id = none ∧ Claims.finished s t c 0x24 0)) ∧
    (∀ base origin, c.kind = .cfgld base origin false → (s.region c.region).state = .unloaded → s.genLive c.region = false →
      let img := imgOf c.got (base % 8)
      let h := readHeader img
      (∀ va pa key, cfgldUnit base c.got = some va → s.imageFault c.core va 8 = none → s.imagePlace c.core va = some (pa, key) →
        s.ownWrite c pa 8 = false → ∃ t, exec (.cfgldComplete id) s = .next t ∧
          t.cmd id = some { c with got := c.got ++ [s.imageUnit c.core va] } ∧ t.regions = s.regions ∧ t.tiles = s.tiles ∧ t.z = s.z) ∧
      (∀ va e, cfgldUnit base c.got = some va → s.imageFault c.core va 8 = some e →
        exec (.cfgldComplete id) s = .next (s.loadTrap c e)) ∧
      (cfgldUnit base c.got = none →
      (s.loadStatus c origin img h ≠ 0 →
        ∃ t, exec (.cfgldComplete id) s = .next t ∧ t.regions = s.regions ∧ Claims.finished s t c (s.loadStatus c origin img h) 0) ∧
      (s.loadStatus c origin img h = 0 → ∃ t, exec (.cfgldComplete id) s = .next t ∧ (t.region c.region).state = .loaded ∧
        (t.region c.region).gen = ((s.region c.region).gen + 1) % 256 ∧ (t.region c.region).ctx = h.ctx ∧
        (t.region c.region).origin = origin ∧ (t.region c.region).insts = [] ∧
        (∀ l, l < h.nt → (t.tctx ((t.region c.region).phys l) h.ctx).state = .loading) ∧
        t.cmd id = some { c with kind := .cfgld base origin true }))) ∧
    (∀ base origin, c.kind = .cfgld base origin true →
      let r := s.region c.region
      let loading := r.state = .loaded ∧ ∀ tt ∈ r.sites, (s.tctx tt r.ctx).state = .loading
      (loading → ∃ t, exec (.cfgldComplete id) s = .next t ∧ (∀ tt ∈ r.sites, (t.tctx tt r.ctx).state = .loaded) ∧
        Claims.finished s t c 0 r.tileCount) ∧
      (¬ loading → ∃ t, exec (.cfgldComplete id) s = .next t ∧ t.tiles = s.tiles ∧
        Claims.finished s t c (if r.gen = (c.gen + 1) % 256 then 0x21 else 0x28) 0)) ∧
    (c.kind = .cfgsw → s.drainDone c.region = true →
      (∀ k ∈ s.occupants c.region, (s.region k).quantum = 0 ∨ s.cycle < (s.region k).qStart + (s.region k).quantum) →
      (s.isLoaded c.region c.ctx = false → ∃ t, exec (.cfgswFlip id) s = .next t ∧ t.regions = s.regions ∧
        Claims.finished s t c 0x21 0) ∧
      (s.isLoaded c.region c.ctx = true → s.occupants c.region = [] → isActor c.core = false →
        ((s.certify c.region).1 = 0 → ∃ t, exec (.cfgswFlip id) s = .next t ∧
          (t.region c.region).state = (if (s.region c.region).state = .loaded then .active else .armed) ∧
          (∀ tt ∈ (s.region c.region).sites, (t.tctx tt (s.region c.region).ctx).state = .active) ∧ Claims.finished s t c 0 0) ∧
        ((s.certify c.region).1 ≠ 0 → ∃ t, exec (.cfgswFlip id) s = .next t ∧ t.regions = s.regions ∧
          Claims.finished s t c (s.certify c.region).1 (s.certify c.region).2))) ∧
    (∀ e l d, c.kind = .cfged e l d →
      let r := s.region c.region
      let tt := r.phys l
      let k := s.tctx tt r.ctx
      let w := k.edge e
      let dt := r.phys (edgeDstT w)
      let sum := (((s.loadedOn dt).map (fun x => x.dsum)).sum + d) - edgeDepth w
      let need := ((AMap.find r.image.tiles l).elim 0 (fun x => AMap.get 0 x.we e)) * r.image.quotaAll
      AMap.get 0 k.spent e = 0 → r.state ≠ .suspended → r.preempting = false → s.swapHolds dt = false → s.swapHolds tt = false →
      1 ≤ d → d < 4096 →
      (sum ≤ 16384 → need ≤ d → ∃ t, exec (.cfgedApply id) s = .next t ∧ edgeDepth ((t.tctx tt r.ctx).edge e) = d ∧
        edgeDstT ((t.tctx tt r.ctx).edge e) = edgeDstT w ∧ edgeDstS ((t.tctx tt r.ctx).edge e) = edgeDstS w ∧
        edgeWide ((t.tctx tt r.ctx).edge e) = edgeWide w ∧ Claims.finished s t c 0 0) ∧
      (16384 < sum → ∃ t, exec (.cfgedApply id) s = .next t ∧ (t.tctx tt r.ctx).edge e = w ∧
        Claims.finished s t c 0x10 (certResult (edgeDstT w) 0)) ∧
      (sum ≤ 16384 → d < need → ∃ t, exec (.cfgedApply id) s = .next t ∧ (t.tctx tt r.ctx).edge e = w ∧
        Claims.finished s t c 0x14 (certResult l e))) ∧
    (∀ n, c.kind = .cclose n → ((s.region c.region).colour c.colour).state = 2 → (s.region c.region).admitted c.colour = 0 →
      (∀ x ∈ s.cmds, x.id ≠ id → x.kind.awaits false = false) →
      ∃ t, exec (.ccloseFinish id) s = .next t ∧ ((t.region c.region).colour c.colour).state = 0 ∧
        (∀ l, ((s.region c.region).colour c.colour).lease = some l → ∀ y ∈ t.ls.leases, y.num ≠ l) ∧ Claims.finished s t c 0 n) ∧
    (∀ n, c.kind = .ckill n → isActor c.core = false → (∀ x ∈ s.cmds, x.id ≠ id → x.region ≠ c.region ∨ x.colour ≠ c.colour) →
      ((s.region c.region).sites.foldl (fun st tt => st.killOn tt (s.region c.region).ctx c.region c.colour) s).colourQuiet
        c.region c.colour = true →
      ∃ t, exec (.ckillFinish id) s = .next t ∧ ((t.region c.region).colour c.colour).state = 0 ∧
        (t.region c.region).admitted c.colour = 0 ∧ ((t.region c.region).colour c.colour).drawn = [] ∧
        Claims.finished s t c 0 ((s.region c.region).admitted c.colour)) ∧
    (∀ before, c.kind = .barr before → (s.region c.region).state = .armed → (s.region c.region).insts = [] → s.boundaryDone c.region s.z.nextId = true →
      ∃ t, exec (.barrReopen id) s = .next t ∧
        (t.region c.region).barred = s.cmds.any (fun x => x.id != c.id && x.region == c.region && x.kind.isBarr) ∧
        Claims.finished s t c 0 ((s.region c.region).retired - before)) ∧
    (∀ port serial, c.kind = .unbind port serial →
      ((s.region c.region).holdsBind c.colour port serial = true → exec (.unbindComplete id) s = .next s) ∧
      ((s.region c.region).holdsBind c.colour port serial = false →
        ∃ t, exec (.unbindComplete id) s = .next t ∧ t.regions = s.regions ∧ Claims.finished s t c 0 0))

/-! ### Matrix nodes, selection, swaps -/

/-- O60. Nodes, walks and swaps (R356, R359, R361, R365 to R373, R376, R378, R386, R390, R391, R397, R400, R418 to R428,
R433): an owner takes a bank; the operation at a queue's front takes effect and leaves; a chain takes a node, runs its
passes and sends its drain tokens; a channel is taken and its walk goes on; an instant begins the chosen swaps and halves
the tables; a swap reaches its boundary or is abandoned, changes the occupants' places, forwards what came late and ends.
The model's own, and no rule of the spec: that an instant halves the tables where it chooses no swap, and what moves with
an occupant at the flip (log entry 36), and how a transom holds the tokens that reach the new site directly (log entry
37). -/
def Obligations.NodesAndSwaps : Prop :=
  ∀ (s : State),
    (∀ p, isActor p = true → s.atCode p 0x5C 0 = true → (s.firingCtx p).mxs = none → (s.firingCtx p).bank.owner = .none →
      ∃ t, exec (.mxBankAcquire p) s = .next t ∧ (t.tctx (tileOf p) (s.core p).firing.ctx).bank = { Bank.taken with owner := .core p }) ∧
    (∀ tile ctx q rest,
      let c := s.tctx tile ctx
      let k := c.bank
      let bank := fun (t : State) => (t.tctx tile ctx).bank
      k.queue = q :: rest → c.nodeRuns = true → k.discard = false → k.leaving = false →
      (∀ a b hold w m o, q.op = .mul a b hold w → q.memOp = some m → s.op m = some o → s.arcsMet o = true →
        let cut := a.length * (8 * (rowLines w false).length)
        (o.reqs = [] → s.rowRevoked (s.extentsOf q.core) (rowBytes w false) .read a = none →
          s.rowRevoked (s.extentsOf q.core) (rowBytes w true) .read b = none → ∃ t o2, exec (.mxPass tile ctx) s = .next t ∧
            bank t = k ∧ t.op m = some o2 ∧ o2.reqs = passReads w a b) ∧
        (o.reqs ≠ [] → s.fetched o = false → exec (.mxPass tile ctx) s = .next s) ∧
        (o.reqs ≠ [] → s.fetched o = true → ∃ t o2, exec (.mxPass tile ctx) s = .next t ∧ (bank t).queue = rest ∧
          (bank t).acc = (k.runPass w hold (rowsOf w false a.length (o.reqs.take cut)) (rowsOf w true b.length (o.reqs.drop cut))).acc ∧
          (bank t).held.map (fun h => h.1) = some (mxcClass w) ∧ t.op m = some o2 ∧ o2.pending = false ∧ o2.status = 0 ∧
          o2.result = k.enabledCount)) ∧
      (∀ w st, q.op = .cfg w st → ∃ t, exec (.mxQueueOperation tile ctx) s = .next t ∧
        bank t = { k with word := w, stride := st, queue := rest }) ∧
      (q.op = .zero → ∃ t, exec (.mxQueueOperation tile ctx) s = .next t ∧
        bank t = { k with acc := [], clock := [], queue := rest } ∧ (q.done ≠ 0 → (t.core q.core).rx q.done = completion 0 0)) ∧
      (∀ r cl, q.op = .msk r cl → ∃ t, exec (.mxQueueOperation tile ctx) s = .next t ∧
        bank t = { k with rowMask := r, colMask := cl, queue := rest }) ∧
      (∀ a, q.op = .mpb a →
        let block := s.asyncRead q.core q.before s.unseen a 144
        s.blockFault q.core a block = none → ∃ t, exec (.mxQueueOperation tile ctx) s = .next t ∧ (bank t).queue = rest ∧
          (bank t).rowMask = BitVec.ofNat 32 (block >>> 1024) ∧ (bank t).colMask = BitVec.ofNat 32 (block >>> 1056) ∧
          (bank t).policy = block / 2 ^ 1088 % 256 ∧ (q.done ≠ 0 → (t.core q.core).rx q.done = completion 0 144)) ∧
      (∀ d row form, q.op = .drainRegs d row form → s.memOpOpen q = true → drnFmt form ≠ 3 →
        (∀ j, j < 32 → (k.drained row j).poisoned = false) → ∃ t, exec (.mxDrainRun tile ctx) s = .next t ∧
          (form.getLsbD 8 = false → (bank t).queue = rest ∧ (bank t).acc = (if form.getLsbD 7 then [] else k.acc)) ∧
          (t.core q.core).rv (vreg d) = BitVec.ofNat 512 (k.tokenData (drnFmt form) row 0).1 ∧
          (drnFmt form = 0 → (t.core q.core).rv (vreg d + 1) = BitVec.ofNat 512 (k.tokenData 0 row 1).1)) ∧
      (∀ rows form m o, q.op = .drainMem rows form → q.memOp = some m → s.op m = some o → o.pending = true → s.memOpOpen q = true →
        s.rowRevoked (s.extentsOf q.core) (32 * drainSize (drnFmt form)) .write rows = none →
        ∃ t o2, exec (.mxDrainRun tile ctx) s = .next t ∧ t.op m = some o2 ∧ o2.pending = false ∧ o2.result = 1024 ∧
          o2.reqs = k.drainWrites (drnFmt form) rows ∧
          o2.status = (if (upTo 1024).any (fun e => (k.drained (e / 32) (e % 32)).poisoned) then 0x03 else 0))) ∧
    (∀ tile ctx r,
      let c := s.tctx tile ctx
      let bank := fun (t : State) => (t.tctx tile ctx).bank
      c.mxs = some r →
      (∀ colour n, chainLength (c.chainTokens r colour) = some n → s.slotRuns tile ctx = true → c.bank.owner = .none →
        s.turnOk c 25 colour (agedColours (c.chainSets r)) = true → ∃ t, exec (.chainStart tile ctx colour) s = .next t ∧
          (bank t).owner = .colour colour ∧ (bank t).chain = n ∧ (bank t).word = r.word ∧ (bank t).stride = r.stride ∧ (bank t).acc = []) ∧
      (∀ colour h rest, c.bank.owner = .colour colour → c.nodeRuns = true → 1 ≤ c.bank.chain → c.chainTokens r colour = h :: rest →
        let ended := fun (t : State) => (t.tctx tile ctx).passes = c.passes - 1 ∧ (bank t).chain = c.bank.chain - 1 ∧
          (bank t).owner = c.bank.owner ∧ ∀ g ∈ (t.tctx tile ctx).chainTokens r colour, g.seq ≠ h.seq
        let hold := adrHold h.tok
        (c.bank.chainOp = none → c.state = .active → ctlPoison h.tok.ctl = true → ∃ t, exec (.chainPass tile ctx) s = .next t ∧ ended t) ∧
        (c.bank.chainOp = none → c.state = .active → ctlPoison h.tok.ctl = false → (hold = true → c.bank.held.map (fun y => y.1) = some (mxcClass r.word)) →
          ∀ ra rb, s.passRows (s.instExtents (s.instOf c.region h.tok.tag)) r.word r.stride (adrBase h.tok false) (adrBase h.tok true)
            hold = .ok (ra, rb) → ∃ t o, exec (.chainPass tile ctx) s = .next t ∧ t.z.ops = s.z.ops ++ [o] ∧
              o.reqs = passReads r.word ra rb ∧ (bank t).chainOp = some o.id ∧ (bank t).chain = c.bank.chain) ∧
        (∀ m o, c.bank.chainOp = some m → s.op m = some o → s.opReady o = true → s.fetched o = true →
          let nA := if hold then 0 else 32
          let cut := nA * (8 * (rowLines r.word false).length)
          ∃ t, exec (.chainPass tile ctx) s = .next t ∧ ended t ∧ (bank t).chainOp = none ∧
            (bank t).acc = (c.bank.runPass r.word hold (rowsOf r.word false nA (o.reqs.take cut))
              (rowsOf r.word true 32 (o.reqs.drop cut))).acc)) ∧
      (∀ tok e, c.bank.drain = some (tok, e) → c.state = .active → c.canSend r.outEdge 5 = true →
        ∃ t out, exec (.chainDrain tile ctx) s = .next t ∧ Claims.sent s t tile ctx r.outEdge out ∧ out.wide = true ∧
          out.tag = setField c.tagw r.fld e tok.tag ∧
          (e + 1 = 32 * drainTokens (adrFmt tok) → bank t = Bank.taken) ∧
          (e + 1 ≠ 32 * drainTokens (adrFmt tok) → (bank t).drain = some (tok, e + 1) ∧ (bank t).acc = c.bank.acc))) ∧
    (∀ p ch, s.channelTurn p = true → (isActor p = false ∨ (s.core p).run ≠ .empty) → ch < 8 →
      (s.channel (s.galleryOf p) ch).owner = none → (∀ k, k < ch → (s.channel (s.galleryOf p) k).owner ≠ none) →
      ∃ t, exec (.qsChannelAcquire p) s = .next t ∧ (t.channel (s.galleryOf p) ch).owner = some p ∧
        (t.channel (s.galleryOf p) ch).walk = none) ∧
    (∀ g ch p w j o area, (s.channel g ch).owner = some p → (s.channel g ch).walk = some w → (s.channel g ch).job = some j →
      s.op j.op = some o → s.arcsMet o = true → s.place p w.area w.areaBytes .write = some area →
      (w.tp = true → s.chanWritePending o.scope (domainOf o.party) area.pa w.areaBytes = false) →
      let n := w.chunkEnd - w.pos
      let reads := fun (t : State) (rs : List Req) => (t.channel g ch).job = some { j with reading := true } ∧
        ∃ o2, t.op o.id = some o2 ∧ o2.reqs = o.reqs.filter (fun r => !s.reqDone o r) ++ rs
      (∀ col, (∀ m va, j.what ≠ .mask m va) → w.tp = false → s.place p w.src w.colBytes .read = some col →
        (j.reading = false → w.chunkReads area (some col) none ≠ [] → ∃ t, exec (.qsTransposeChunk g ch) s = .next t ∧
          reads t (w.chunkReads area (some col) none)) ∧
        (j.reading = true → s.readsDone o = true → w.chunkEnd < w.count → ∃ t w2, exec (.qsTransposeChunk g ch) s = .next t ∧
          (t.channel g ch).walk = some w2 ∧ w2.pos = w.chunkEnd ∧ w2.tp = false ∧
          (t.channel g ch).job = some { j with reading := false })) ∧
      ((∀ m va, j.what ≠ .mask m va) → w.tp = true → w.cfg.wgt = false →
        (j.reading = false → w.chunkReads area none none ≠ [] → ∃ t, exec (.qsPlaneStep g ch) s = .next t ∧
          reads t (w.chunkReads area none none)) ∧
        (j.reading = true → s.readsDone o = true → w.chunkEnd < w.count →
          let bits := readBytes (o.reads.take (unitPieces (w.area + w.pln * w.ps + w.pos / 8) ((n + 7) / 8)).length)
          ∃ t w2, exec (.qsPlaneStep g ch) s = .next t ∧ (t.channel g ch).walk = some w2 ∧ w2.pos = w.chunkEnd ∧ w2.pln = w.pln ∧
            w2.pcnt = w.pcnt + (upTo n).countP (fun k => w.isCand (w.pos + k) && (bits.testBit k == !w.cfg.asc)))) ∧
      (∀ va vec, j.what = .mask 1 va → s.place p va w.ps .write = some vec → s.readsDone o = true →
        ∃ t, exec (.qsPlaneStep g ch) s = .next t ∧ (t.channel g ch).job = none ∧
          ∀ o2, t.op o.id = some o2 → o2.pending = false ∧ o2.result = w.countIf w.isCand)) ∧
    -- swaps
    (∀ n, let r := s.region n
      r.state ≠ .unloaded → r.policy.enabled = true → r.policy.clock + 2 ^ r.policy.ivl ≤ s.cycle →
      ∃ t, exec (.swapInstant n) s = .next t ∧ (t.region n).policy.clock = r.policy.clock + 2 ^ r.policy.ivl ∧
        (t.region n).policy.phase = (r.policy.phase + 1) % 4 ∧ t.swaps.length = s.swaps.length + (s.chosen n).length ∧
        (s.chosen n = [] → r.sites.Nodup → ∀ tt ∈ r.sites,
          ((s.tctx tt r.ctx).live = true → (t.tile tt).traffic = halveTable (s.tile tt).traffic) ∧
          (t.tctx tt r.ctx).cooldown = (s.tctx tt r.ctx).cooldown - 1)) ∧
    (∀ id w, s.swap id = some w →
      (w.step = .boundary → s.cycle < w.start + 8192 → s.atBoundary w.lo = true → s.atBoundary w.hi = true → ∃ t, exec (.swapBoundaryReached id) s = .next t ∧
        t.swap id = some { w with step := .transfer } ∧ t.tiles = s.tiles) ∧
      (w.step = .boundary → w.start + 8192 ≤ s.cycle → id < s.serial → ∃ t, exec (.swapBoundaryTimeout id) s = .next t ∧
        t.swap id = none ∧ ((AMap.get { recs := [], lost := 0 } t.rings w.region).recs.getLast?).map (fun x => x.kind % 2) = some 1) ∧
      (w.step = .transfer → w.lo ≠ w.hi → w.la ≠ w.lb → ∃ t, exec (.swapFlip id) s = .next t ∧
        (let r := s.region w.region
         t.swap id = some { w with step := .transom, holds := [w.la, w.lb] } ∧ (t.region w.region).phys w.la = w.hi ∧
          (t.region w.region).phys w.lb = w.lo ∧ (t.tctx w.hi r.ctx).store = (s.tctx w.lo r.ctx).store ∧
          (t.tctx w.lo r.ctx).store = (s.tctx w.hi r.ctx).store ∧ (t.tctx w.hi r.ctx).ready = (s.tctx w.lo r.ctx).ready ∧
          (t.tile w.hi).traffic = (s.tile w.lo).traffic ∧ (t.tctx w.hi r.ctx).bank = (s.tctx w.hi r.ctx).bank)) ∧
      (∀ src e colour f, w.step = .transom → s.flights.find? (fun f => f.late == some id && f.region == w.region && f.src == src &&
          f.edge == e && tagColour f.tok.tag == colour) = some f →
        (∀ g, s.flights.find? (fun g => g.late == some id && g.arrived && s.flightDest g == s.flightDest f) = some g → g = f) →
        let r := s.region w.region
        let (tt, buf) := s.edgeEnd w.region src e
        Claims.fitsEdge ((s.tctx (r.phys src) r.ctx).edge e) f.tok → f.gen = r.gen → (s.tctx tt r.ctx).state ≠ .empty → (r.colour colour).state ≠ 3 → (s.tctx tt r.ctx).portOf buf = none →
        ∃ t h, exec (.transomForward id src e colour) s = .next t ∧ t.cycle = s.cycle + (if f.tok.wide then 2 else 1) ∧
          h.tok = f.tok ∧ AMap.get [] (t.tctx tt r.ctx).buffers buf = AMap.get [] (s.tctx tt r.ctx).buffers buf ++ [h]) ∧
      (∀ l, w.step = .transom → (∀ f ∈ s.flights, f.late = some id → s.flightDest f ≠ l) →
        (w.holds = [l] → id < s.serial → ∃ t, exec (.transomClose id l) s = .next t ∧ t.swap id = none) ∧
        (∀ m, l ≠ m → w.holds = [l, m] → ∃ t, exec (.transomClose id l) s = .next t ∧ t.swap id = some { w with holds := [m] })))
end

