-- ==== Sys2Proof/Laws/AMap.lean ====
section
/-! SUPPORT. The laws of sparse data by key: a read after a write, the rising order of the keys. -/

namespace Sys2Proof.Machine

variable {α : Type}

theorem AMap.find_put_same (m : AMap α) (k : Nat) (v : α) : AMap.find (AMap.put m k v) k = some v := by
  induction m with
  | nil => simp [AMap.put, AMap.find]
  | cons p rest ih =>
    obtain ⟨a, w⟩ := p
    unfold AMap.put
    split
    · simp [AMap.find]
    · split
      · simp [AMap.find]
      · have : ¬ a = k := fun e => by omega
        simp [AMap.find, this, ih]

theorem AMap.find_put_ne (m : AMap α) {k q : Nat} (v : α) (h : q ≠ k) : AMap.find (AMap.put m k v) q = AMap.find m q := by
  have hk : ¬ k = q := fun e => h e.symm
  induction m with
  | nil => simp [AMap.put, AMap.find, hk]
  | cons p rest ih =>
    obtain ⟨a, w⟩ := p
    unfold AMap.put
    split
    · simp [AMap.find, hk]
    · split
      · rename_i _ e
        subst e
        simp [AMap.find, hk]
      · by_cases e : a = q <;> simp [AMap.find, e, ih]

theorem AMap.get_put_same (d : α) (m : AMap α) (k : Nat) (v : α) : AMap.get d (AMap.put m k v) k = v := by
  simp [AMap.get, AMap.find_put_same]

theorem AMap.get_put_ne (m : AMap α) {k q : Nat} {d : α} (v : α) (h : q ≠ k) :
    AMap.get d (AMap.put m k v) q = AMap.get d m q := by
  simp [AMap.get, AMap.find_put_ne m v h]

theorem AMap.find_erase_same (m : AMap α) (k : Nat) : AMap.find (AMap.erase m k) k = none := by
  induction m with
  | nil => rfl
  | cons p rest ih =>
    obtain ⟨a, w⟩ := p
    unfold AMap.erase at *
    by_cases e : a = k <;> simp [AMap.find, e, ih]

theorem AMap.find_erase_ne (m : AMap α) {k q : Nat} (h : q ≠ k) : AMap.find (AMap.erase m k) q = AMap.find m q := by
  induction m with
  | nil => rfl
  | cons p rest ih =>
    obtain ⟨a, w⟩ := p
    unfold AMap.erase at *
    by_cases e : a = k
    · have : ¬ k = q := fun x => h x.symm
      simp [AMap.find, e, ih, this]
    · rw [List.filter_cons_of_pos (by simpa using e)]
      simp only [AMap.find, ih]

/-- A value of the map after a write is the written one or was there before. -/
theorem AMap.mem_put {m : AMap α} {k : Nat} {v : α} {p : Nat × α} (h : p ∈ AMap.put m k v) : p = (k, v) ∨ p ∈ m := by
  induction m with
  | nil => simpa [AMap.put] using h
  | cons q rest ih =>
    obtain ⟨a, w⟩ := q
    unfold AMap.put at h
    split at h
    · rcases List.mem_cons.1 h with e | e
      · exact .inl e
      · exact .inr e
    · split at h
      · rcases List.mem_cons.1 h with e | e
        · exact .inl e
        · exact .inr (List.mem_cons_of_mem _ e)
      · rcases List.mem_cons.1 h with e | e
        · exact .inr (e ▸ List.mem_cons_self ..)
        · rcases ih e with e | e
          · exact .inl e
          · exact .inr (List.mem_cons_of_mem _ e)

/-- What is found is in the map. -/
theorem AMap.find_mem {m : AMap α} {k : Nat} {v : α} (h : AMap.find m k = some v) : (k, v) ∈ m := by
  induction m with
  | nil => simp [AMap.find] at h
  | cons p rest ih =>
    obtain ⟨a, w⟩ := p
    by_cases e : a = k
    · simp [AMap.find, e] at h
      simp [e, h]
    · simp [AMap.find, e] at h
      exact List.mem_cons_of_mem _ (ih h)

end Sys2Proof.Machine
end

