-- ==== Sys2Proof/Laws/State.lean ====
section
/-! SUPPORT. What each update of the state leaves alone, field by field, and what it makes of the part that it changes; the
reads of a register after a write. -/

namespace Sys2Proof.Machine

variable (s : State)

/-! ### One lemma for each field that an update leaves alone -/


@[simp] theorem State.setCore_cycle (p : Nat) (c : Core) : (s.setCore p c).cycle = s.cycle := rfl
@[simp] theorem State.setCore_cur (p : Nat) (c : Core) : (s.setCore p c).cur = s.cur := rfl
@[simp] theorem State.setCore_sched (p : Nat) (c : Core) : (s.setCore p c).sched = s.sched := rfl
@[simp] theorem State.setCore_unseen (p : Nat) (c : Core) : (s.setCore p c).unseen = s.unseen := rfl
@[simp] theorem State.setCore_freeCount (p : Nat) (c : Core) : (s.setCore p c).freeCount = s.freeCount := rfl
@[simp] theorem State.setCore_z (p : Nat) (c : Core) : (s.setCore p c).z = s.z := rfl
@[simp] theorem State.setCore_tiles (p : Nat) (c : Core) : (s.setCore p c).tiles = s.tiles := rfl
@[simp] theorem State.setCore_gals (p : Nat) (c : Core) : (s.setCore p c).gals = s.gals := rfl
@[simp] theorem State.setCore_regions (p : Nat) (c : Core) : (s.setCore p c).regions = s.regions := rfl
@[simp] theorem State.setCore_ls (p : Nat) (c : Core) : (s.setCore p c).ls = s.ls := rfl
@[simp] theorem State.setCore_cmds (p : Nat) (c : Core) : (s.setCore p c).cmds = s.cmds := rfl
@[simp] theorem State.setCore_flights (p : Nat) (c : Core) : (s.setCore p c).flights = s.flights := rfl
@[simp] theorem State.setCore_due (p : Nat) (c : Core) : (s.setCore p c).due = s.due := rfl
@[simp] theorem State.setCore_dueAt (p : Nat) (c : Core) : (s.setCore p c).dueAt = s.dueAt := rfl
@[simp] theorem State.setCore_fresh (p : Nat) (c : Core) : (s.setCore p c).fresh = s.fresh := rfl
@[simp] theorem State.setCore_lastIssue (p : Nat) (c : Core) : (s.setCore p c).lastIssue = s.lastIssue := rfl
@[simp] theorem State.setCore_copies (p : Nat) (c : Core) : (s.setCore p c).copies = s.copies := rfl
@[simp] theorem State.setCore_streams (p : Nat) (c : Core) : (s.setCore p c).streams = s.streams := rfl
@[simp] theorem State.setCore_swaps (p : Nat) (c : Core) : (s.setCore p c).swaps = s.swaps := rfl
@[simp] theorem State.setCore_rings (p : Nat) (c : Core) : (s.setCore p c).rings = s.rings := rfl
@[simp] theorem State.setCore_root (p : Nat) (c : Core) : (s.setCore p c).root = s.root := rfl
@[simp] theorem State.setCore_host (p : Nat) (c : Core) : (s.setCore p c).host = s.host := rfl
@[simp] theorem State.setCore_serial (p : Nat) (c : Core) : (s.setCore p c).serial = s.serial := rfl

@[simp] theorem State.modCore_cycle (p : Nat) (f : Core → Core) : (s.modCore p f).cycle = s.cycle := rfl
@[simp] theorem State.modCore_cur (p : Nat) (f : Core → Core) : (s.modCore p f).cur = s.cur := rfl
@[simp] theorem State.modCore_sched (p : Nat) (f : Core → Core) : (s.modCore p f).sched = s.sched := rfl
@[simp] theorem State.modCore_unseen (p : Nat) (f : Core → Core) : (s.modCore p f).unseen = s.unseen := rfl
@[simp] theorem State.modCore_freeCount (p : Nat) (f : Core → Core) : (s.modCore p f).freeCount = s.freeCount := rfl
@[simp] theorem State.modCore_z (p : Nat) (f : Core → Core) : (s.modCore p f).z = s.z := rfl
@[simp] theorem State.modCore_tiles (p : Nat) (f : Core → Core) : (s.modCore p f).tiles = s.tiles := rfl
@[simp] theorem State.modCore_gals (p : Nat) (f : Core → Core) : (s.modCore p f).gals = s.gals := rfl
@[simp] theorem State.modCore_regions (p : Nat) (f : Core → Core) : (s.modCore p f).regions = s.regions := rfl
@[simp] theorem State.modCore_ls (p : Nat) (f : Core → Core) : (s.modCore p f).ls = s.ls := rfl
@[simp] theorem State.modCore_cmds (p : Nat) (f : Core → Core) : (s.modCore p f).cmds = s.cmds := rfl
@[simp] theorem State.modCore_flights (p : Nat) (f : Core → Core) : (s.modCore p f).flights = s.flights := rfl
@[simp] theorem State.modCore_due (p : Nat) (f : Core → Core) : (s.modCore p f).due = s.due := rfl
@[simp] theorem State.modCore_dueAt (p : Nat) (f : Core → Core) : (s.modCore p f).dueAt = s.dueAt := rfl
@[simp] theorem State.modCore_fresh (p : Nat) (f : Core → Core) : (s.modCore p f).fresh = s.fresh := rfl
@[simp] theorem State.modCore_lastIssue (p : Nat) (f : Core → Core) : (s.modCore p f).lastIssue = s.lastIssue := rfl
@[simp] theorem State.modCore_copies (p : Nat) (f : Core → Core) : (s.modCore p f).copies = s.copies := rfl
@[simp] theorem State.modCore_streams (p : Nat) (f : Core → Core) : (s.modCore p f).streams = s.streams := rfl
@[simp] theorem State.modCore_swaps (p : Nat) (f : Core → Core) : (s.modCore p f).swaps = s.swaps := rfl
@[simp] theorem State.modCore_rings (p : Nat) (f : Core → Core) : (s.modCore p f).rings = s.rings := rfl
@[simp] theorem State.modCore_root (p : Nat) (f : Core → Core) : (s.modCore p f).root = s.root := rfl
@[simp] theorem State.modCore_host (p : Nat) (f : Core → Core) : (s.modCore p f).host = s.host := rfl
@[simp] theorem State.modCore_serial (p : Nat) (f : Core → Core) : (s.modCore p f).serial = s.serial := rfl

@[simp] theorem State.setTile_cycle (t : Nat) (x : Tile) : (s.setTile t x).cycle = s.cycle := rfl
@[simp] theorem State.setTile_cur (t : Nat) (x : Tile) : (s.setTile t x).cur = s.cur := rfl
@[simp] theorem State.setTile_sched (t : Nat) (x : Tile) : (s.setTile t x).sched = s.sched := rfl
@[simp] theorem State.setTile_unseen (t : Nat) (x : Tile) : (s.setTile t x).unseen = s.unseen := rfl
@[simp] theorem State.setTile_freeCount (t : Nat) (x : Tile) : (s.setTile t x).freeCount = s.freeCount := rfl
@[simp] theorem State.setTile_cores (t : Nat) (x : Tile) : (s.setTile t x).cores = s.cores := rfl
@[simp] theorem State.setTile_z (t : Nat) (x : Tile) : (s.setTile t x).z = s.z := rfl
@[simp] theorem State.setTile_gals (t : Nat) (x : Tile) : (s.setTile t x).gals = s.gals := rfl
@[simp] theorem State.setTile_regions (t : Nat) (x : Tile) : (s.setTile t x).regions = s.regions := rfl
@[simp] theorem State.setTile_ls (t : Nat) (x : Tile) : (s.setTile t x).ls = s.ls := rfl
@[simp] theorem State.setTile_cmds (t : Nat) (x : Tile) : (s.setTile t x).cmds = s.cmds := rfl
@[simp] theorem State.setTile_flights (t : Nat) (x : Tile) : (s.setTile t x).flights = s.flights := rfl
@[simp] theorem State.setTile_due (t : Nat) (x : Tile) : (s.setTile t x).due = s.due := rfl
@[simp] theorem State.setTile_dueAt (t : Nat) (x : Tile) : (s.setTile t x).dueAt = s.dueAt := rfl
@[simp] theorem State.setTile_fresh (t : Nat) (x : Tile) : (s.setTile t x).fresh = s.fresh := rfl
@[simp] theorem State.setTile_lastIssue (t : Nat) (x : Tile) : (s.setTile t x).lastIssue = s.lastIssue := rfl
@[simp] theorem State.setTile_copies (t : Nat) (x : Tile) : (s.setTile t x).copies = s.copies := rfl
@[simp] theorem State.setTile_streams (t : Nat) (x : Tile) : (s.setTile t x).streams = s.streams := rfl
@[simp] theorem State.setTile_swaps (t : Nat) (x : Tile) : (s.setTile t x).swaps = s.swaps := rfl
@[simp] theorem State.setTile_rings (t : Nat) (x : Tile) : (s.setTile t x).rings = s.rings := rfl
@[simp] theorem State.setTile_root (t : Nat) (x : Tile) : (s.setTile t x).root = s.root := rfl
@[simp] theorem State.setTile_host (t : Nat) (x : Tile) : (s.setTile t x).host = s.host := rfl
@[simp] theorem State.setTile_serial (t : Nat) (x : Tile) : (s.setTile t x).serial = s.serial := rfl

@[simp] theorem State.modTile_cycle (t : Nat) (f : Tile → Tile) : (s.modTile t f).cycle = s.cycle := rfl
@[simp] theorem State.modTile_cur (t : Nat) (f : Tile → Tile) : (s.modTile t f).cur = s.cur := rfl
@[simp] theorem State.modTile_sched (t : Nat) (f : Tile → Tile) : (s.modTile t f).sched = s.sched := rfl
@[simp] theorem State.modTile_unseen (t : Nat) (f : Tile → Tile) : (s.modTile t f).unseen = s.unseen := rfl
@[simp] theorem State.modTile_freeCount (t : Nat) (f : Tile → Tile) : (s.modTile t f).freeCount = s.freeCount := rfl
@[simp] theorem State.modTile_cores (t : Nat) (f : Tile → Tile) : (s.modTile t f).cores = s.cores := rfl
@[simp] theorem State.modTile_z (t : Nat) (f : Tile → Tile) : (s.modTile t f).z = s.z := rfl
@[simp] theorem State.modTile_gals (t : Nat) (f : Tile → Tile) : (s.modTile t f).gals = s.gals := rfl
@[simp] theorem State.modTile_regions (t : Nat) (f : Tile → Tile) : (s.modTile t f).regions = s.regions := rfl
@[simp] theorem State.modTile_ls (t : Nat) (f : Tile → Tile) : (s.modTile t f).ls = s.ls := rfl
@[simp] theorem State.modTile_cmds (t : Nat) (f : Tile → Tile) : (s.modTile t f).cmds = s.cmds := rfl
@[simp] theorem State.modTile_flights (t : Nat) (f : Tile → Tile) : (s.modTile t f).flights = s.flights := rfl
@[simp] theorem State.modTile_due (t : Nat) (f : Tile → Tile) : (s.modTile t f).due = s.due := rfl
@[simp] theorem State.modTile_dueAt (t : Nat) (f : Tile → Tile) : (s.modTile t f).dueAt = s.dueAt := rfl
@[simp] theorem State.modTile_fresh (t : Nat) (f : Tile → Tile) : (s.modTile t f).fresh = s.fresh := rfl
@[simp] theorem State.modTile_lastIssue (t : Nat) (f : Tile → Tile) : (s.modTile t f).lastIssue = s.lastIssue := rfl
@[simp] theorem State.modTile_copies (t : Nat) (f : Tile → Tile) : (s.modTile t f).copies = s.copies := rfl
@[simp] theorem State.modTile_streams (t : Nat) (f : Tile → Tile) : (s.modTile t f).streams = s.streams := rfl
@[simp] theorem State.modTile_swaps (t : Nat) (f : Tile → Tile) : (s.modTile t f).swaps = s.swaps := rfl
@[simp] theorem State.modTile_rings (t : Nat) (f : Tile → Tile) : (s.modTile t f).rings = s.rings := rfl
@[simp] theorem State.modTile_root (t : Nat) (f : Tile → Tile) : (s.modTile t f).root = s.root := rfl
@[simp] theorem State.modTile_host (t : Nat) (f : Tile → Tile) : (s.modTile t f).host = s.host := rfl
@[simp] theorem State.modTile_serial (t : Nat) (f : Tile → Tile) : (s.modTile t f).serial = s.serial := rfl

@[simp] theorem State.setCtx_cycle (t c : Nat) (x : TileCtx) : (s.setCtx t c x).cycle = s.cycle := rfl
@[simp] theorem State.setCtx_cur (t c : Nat) (x : TileCtx) : (s.setCtx t c x).cur = s.cur := rfl
@[simp] theorem State.setCtx_sched (t c : Nat) (x : TileCtx) : (s.setCtx t c x).sched = s.sched := rfl
@[simp] theorem State.setCtx_unseen (t c : Nat) (x : TileCtx) : (s.setCtx t c x).unseen = s.unseen := rfl
@[simp] theorem State.setCtx_freeCount (t c : Nat) (x : TileCtx) : (s.setCtx t c x).freeCount = s.freeCount := rfl
@[simp] theorem State.setCtx_cores (t c : Nat) (x : TileCtx) : (s.setCtx t c x).cores = s.cores := rfl
@[simp] theorem State.setCtx_z (t c : Nat) (x : TileCtx) : (s.setCtx t c x).z = s.z := rfl
@[simp] theorem State.setCtx_gals (t c : Nat) (x : TileCtx) : (s.setCtx t c x).gals = s.gals := rfl
@[simp] theorem State.setCtx_regions (t c : Nat) (x : TileCtx) : (s.setCtx t c x).regions = s.regions := rfl
@[simp] theorem State.setCtx_ls (t c : Nat) (x : TileCtx) : (s.setCtx t c x).ls = s.ls := rfl
@[simp] theorem State.setCtx_cmds (t c : Nat) (x : TileCtx) : (s.setCtx t c x).cmds = s.cmds := rfl
@[simp] theorem State.setCtx_flights (t c : Nat) (x : TileCtx) : (s.setCtx t c x).flights = s.flights := rfl
@[simp] theorem State.setCtx_due (t c : Nat) (x : TileCtx) : (s.setCtx t c x).due = s.due := rfl
@[simp] theorem State.setCtx_dueAt (t c : Nat) (x : TileCtx) : (s.setCtx t c x).dueAt = s.dueAt := rfl
@[simp] theorem State.setCtx_fresh (t c : Nat) (x : TileCtx) : (s.setCtx t c x).fresh = s.fresh := rfl
@[simp] theorem State.setCtx_lastIssue (t c : Nat) (x : TileCtx) : (s.setCtx t c x).lastIssue = s.lastIssue := rfl
@[simp] theorem State.setCtx_copies (t c : Nat) (x : TileCtx) : (s.setCtx t c x).copies = s.copies := rfl
@[simp] theorem State.setCtx_streams (t c : Nat) (x : TileCtx) : (s.setCtx t c x).streams = s.streams := rfl
@[simp] theorem State.setCtx_swaps (t c : Nat) (x : TileCtx) : (s.setCtx t c x).swaps = s.swaps := rfl
@[simp] theorem State.setCtx_rings (t c : Nat) (x : TileCtx) : (s.setCtx t c x).rings = s.rings := rfl
@[simp] theorem State.setCtx_root (t c : Nat) (x : TileCtx) : (s.setCtx t c x).root = s.root := rfl
@[simp] theorem State.setCtx_host (t c : Nat) (x : TileCtx) : (s.setCtx t c x).host = s.host := rfl
@[simp] theorem State.setCtx_serial (t c : Nat) (x : TileCtx) : (s.setCtx t c x).serial = s.serial := rfl

@[simp] theorem State.modCtx_cycle (t c : Nat) (f : TileCtx → TileCtx) : (s.modCtx t c f).cycle = s.cycle := rfl
@[simp] theorem State.modCtx_cur (t c : Nat) (f : TileCtx → TileCtx) : (s.modCtx t c f).cur = s.cur := rfl
@[simp] theorem State.modCtx_sched (t c : Nat) (f : TileCtx → TileCtx) : (s.modCtx t c f).sched = s.sched := rfl
@[simp] theorem State.modCtx_unseen (t c : Nat) (f : TileCtx → TileCtx) : (s.modCtx t c f).unseen = s.unseen := rfl
@[simp] theorem State.modCtx_freeCount (t c : Nat) (f : TileCtx → TileCtx) : (s.modCtx t c f).freeCount = s.freeCount := rfl
@[simp] theorem State.modCtx_cores (t c : Nat) (f : TileCtx → TileCtx) : (s.modCtx t c f).cores = s.cores := rfl
@[simp] theorem State.modCtx_z (t c : Nat) (f : TileCtx → TileCtx) : (s.modCtx t c f).z = s.z := rfl
@[simp] theorem State.modCtx_gals (t c : Nat) (f : TileCtx → TileCtx) : (s.modCtx t c f).gals = s.gals := rfl
@[simp] theorem State.modCtx_regions (t c : Nat) (f : TileCtx → TileCtx) : (s.modCtx t c f).regions = s.regions := rfl
@[simp] theorem State.modCtx_ls (t c : Nat) (f : TileCtx → TileCtx) : (s.modCtx t c f).ls = s.ls := rfl
@[simp] theorem State.modCtx_cmds (t c : Nat) (f : TileCtx → TileCtx) : (s.modCtx t c f).cmds = s.cmds := rfl
@[simp] theorem State.modCtx_flights (t c : Nat) (f : TileCtx → TileCtx) : (s.modCtx t c f).flights = s.flights := rfl
@[simp] theorem State.modCtx_due (t c : Nat) (f : TileCtx → TileCtx) : (s.modCtx t c f).due = s.due := rfl
@[simp] theorem State.modCtx_dueAt (t c : Nat) (f : TileCtx → TileCtx) : (s.modCtx t c f).dueAt = s.dueAt := rfl
@[simp] theorem State.modCtx_fresh (t c : Nat) (f : TileCtx → TileCtx) : (s.modCtx t c f).fresh = s.fresh := rfl
@[simp] theorem State.modCtx_lastIssue (t c : Nat) (f : TileCtx → TileCtx) : (s.modCtx t c f).lastIssue = s.lastIssue := rfl
@[simp] theorem State.modCtx_copies (t c : Nat) (f : TileCtx → TileCtx) : (s.modCtx t c f).copies = s.copies := rfl
@[simp] theorem State.modCtx_streams (t c : Nat) (f : TileCtx → TileCtx) : (s.modCtx t c f).streams = s.streams := rfl
@[simp] theorem State.modCtx_swaps (t c : Nat) (f : TileCtx → TileCtx) : (s.modCtx t c f).swaps = s.swaps := rfl
@[simp] theorem State.modCtx_rings (t c : Nat) (f : TileCtx → TileCtx) : (s.modCtx t c f).rings = s.rings := rfl
@[simp] theorem State.modCtx_root (t c : Nat) (f : TileCtx → TileCtx) : (s.modCtx t c f).root = s.root := rfl
@[simp] theorem State.modCtx_host (t c : Nat) (f : TileCtx → TileCtx) : (s.modCtx t c f).host = s.host := rfl
@[simp] theorem State.modCtx_serial (t c : Nat) (f : TileCtx → TileCtx) : (s.modCtx t c f).serial = s.serial := rfl

@[simp] theorem State.modGal_cycle (g : Nat) (f : Gallery → Gallery) : (s.modGal g f).cycle = s.cycle := rfl
@[simp] theorem State.modGal_cur (g : Nat) (f : Gallery → Gallery) : (s.modGal g f).cur = s.cur := rfl
@[simp] theorem State.modGal_sched (g : Nat) (f : Gallery → Gallery) : (s.modGal g f).sched = s.sched := rfl
@[simp] theorem State.modGal_unseen (g : Nat) (f : Gallery → Gallery) : (s.modGal g f).unseen = s.unseen := rfl
@[simp] theorem State.modGal_freeCount (g : Nat) (f : Gallery → Gallery) : (s.modGal g f).freeCount = s.freeCount := rfl
@[simp] theorem State.modGal_cores (g : Nat) (f : Gallery → Gallery) : (s.modGal g f).cores = s.cores := rfl
@[simp] theorem State.modGal_z (g : Nat) (f : Gallery → Gallery) : (s.modGal g f).z = s.z := rfl
@[simp] theorem State.modGal_tiles (g : Nat) (f : Gallery → Gallery) : (s.modGal g f).tiles = s.tiles := rfl
@[simp] theorem State.modGal_regions (g : Nat) (f : Gallery → Gallery) : (s.modGal g f).regions = s.regions := rfl
@[simp] theorem State.modGal_ls (g : Nat) (f : Gallery → Gallery) : (s.modGal g f).ls = s.ls := rfl
@[simp] theorem State.modGal_cmds (g : Nat) (f : Gallery → Gallery) : (s.modGal g f).cmds = s.cmds := rfl
@[simp] theorem State.modGal_flights (g : Nat) (f : Gallery → Gallery) : (s.modGal g f).flights = s.flights := rfl
@[simp] theorem State.modGal_due (g : Nat) (f : Gallery → Gallery) : (s.modGal g f).due = s.due := rfl
@[simp] theorem State.modGal_dueAt (g : Nat) (f : Gallery → Gallery) : (s.modGal g f).dueAt = s.dueAt := rfl
@[simp] theorem State.modGal_fresh (g : Nat) (f : Gallery → Gallery) : (s.modGal g f).fresh = s.fresh := rfl
@[simp] theorem State.modGal_lastIssue (g : Nat) (f : Gallery → Gallery) : (s.modGal g f).lastIssue = s.lastIssue := rfl
@[simp] theorem State.modGal_copies (g : Nat) (f : Gallery → Gallery) : (s.modGal g f).copies = s.copies := rfl
@[simp] theorem State.modGal_streams (g : Nat) (f : Gallery → Gallery) : (s.modGal g f).streams = s.streams := rfl
@[simp] theorem State.modGal_swaps (g : Nat) (f : Gallery → Gallery) : (s.modGal g f).swaps = s.swaps := rfl
@[simp] theorem State.modGal_rings (g : Nat) (f : Gallery → Gallery) : (s.modGal g f).rings = s.rings := rfl
@[simp] theorem State.modGal_root (g : Nat) (f : Gallery → Gallery) : (s.modGal g f).root = s.root := rfl
@[simp] theorem State.modGal_host (g : Nat) (f : Gallery → Gallery) : (s.modGal g f).host = s.host := rfl
@[simp] theorem State.modGal_serial (g : Nat) (f : Gallery → Gallery) : (s.modGal g f).serial = s.serial := rfl

@[simp] theorem State.modRegion_cycle (r : Nat) (f : Region → Region) : (s.modRegion r f).cycle = s.cycle := rfl
@[simp] theorem State.modRegion_cur (r : Nat) (f : Region → Region) : (s.modRegion r f).cur = s.cur := rfl
@[simp] theorem State.modRegion_sched (r : Nat) (f : Region → Region) : (s.modRegion r f).sched = s.sched := rfl
@[simp] theorem State.modRegion_unseen (r : Nat) (f : Region → Region) : (s.modRegion r f).unseen = s.unseen := rfl
@[simp] theorem State.modRegion_freeCount (r : Nat) (f : Region → Region) : (s.modRegion r f).freeCount = s.freeCount := rfl
@[simp] theorem State.modRegion_cores (r : Nat) (f : Region → Region) : (s.modRegion r f).cores = s.cores := rfl
@[simp] theorem State.modRegion_z (r : Nat) (f : Region → Region) : (s.modRegion r f).z = s.z := rfl
@[simp] theorem State.modRegion_tiles (r : Nat) (f : Region → Region) : (s.modRegion r f).tiles = s.tiles := rfl
@[simp] theorem State.modRegion_gals (r : Nat) (f : Region → Region) : (s.modRegion r f).gals = s.gals := rfl
@[simp] theorem State.modRegion_ls (r : Nat) (f : Region → Region) : (s.modRegion r f).ls = s.ls := rfl
@[simp] theorem State.modRegion_cmds (r : Nat) (f : Region → Region) : (s.modRegion r f).cmds = s.cmds := rfl
@[simp] theorem State.modRegion_flights (r : Nat) (f : Region → Region) : (s.modRegion r f).flights = s.flights := rfl
@[simp] theorem State.modRegion_due (r : Nat) (f : Region → Region) : (s.modRegion r f).due = s.due := rfl
@[simp] theorem State.modRegion_dueAt (r : Nat) (f : Region → Region) : (s.modRegion r f).dueAt = s.dueAt := rfl
@[simp] theorem State.modRegion_fresh (r : Nat) (f : Region → Region) : (s.modRegion r f).fresh = s.fresh := rfl
@[simp] theorem State.modRegion_lastIssue (r : Nat) (f : Region → Region) : (s.modRegion r f).lastIssue = s.lastIssue := rfl
@[simp] theorem State.modRegion_copies (r : Nat) (f : Region → Region) : (s.modRegion r f).copies = s.copies := rfl
@[simp] theorem State.modRegion_streams (r : Nat) (f : Region → Region) : (s.modRegion r f).streams = s.streams := rfl
@[simp] theorem State.modRegion_swaps (r : Nat) (f : Region → Region) : (s.modRegion r f).swaps = s.swaps := rfl
@[simp] theorem State.modRegion_rings (r : Nat) (f : Region → Region) : (s.modRegion r f).rings = s.rings := rfl
@[simp] theorem State.modRegion_root (r : Nat) (f : Region → Region) : (s.modRegion r f).root = s.root := rfl
@[simp] theorem State.modRegion_host (r : Nat) (f : Region → Region) : (s.modRegion r f).host = s.host := rfl
@[simp] theorem State.modRegion_serial (r : Nat) (f : Region → Region) : (s.modRegion r f).serial = s.serial := rfl

@[simp] theorem State.modColour_cycle (r c : Nat) (f : Colour → Colour) : (s.modColour r c f).cycle = s.cycle := rfl
@[simp] theorem State.modColour_cur (r c : Nat) (f : Colour → Colour) : (s.modColour r c f).cur = s.cur := rfl
@[simp] theorem State.modColour_sched (r c : Nat) (f : Colour → Colour) : (s.modColour r c f).sched = s.sched := rfl
@[simp] theorem State.modColour_unseen (r c : Nat) (f : Colour → Colour) : (s.modColour r c f).unseen = s.unseen := rfl
@[simp] theorem State.modColour_freeCount (r c : Nat) (f : Colour → Colour) : (s.modColour r c f).freeCount = s.freeCount := rfl
@[simp] theorem State.modColour_cores (r c : Nat) (f : Colour → Colour) : (s.modColour r c f).cores = s.cores := rfl
@[simp] theorem State.modColour_z (r c : Nat) (f : Colour → Colour) : (s.modColour r c f).z = s.z := rfl
@[simp] theorem State.modColour_tiles (r c : Nat) (f : Colour → Colour) : (s.modColour r c f).tiles = s.tiles := rfl
@[simp] theorem State.modColour_gals (r c : Nat) (f : Colour → Colour) : (s.modColour r c f).gals = s.gals := rfl
@[simp] theorem State.modColour_ls (r c : Nat) (f : Colour → Colour) : (s.modColour r c f).ls = s.ls := rfl
@[simp] theorem State.modColour_cmds (r c : Nat) (f : Colour → Colour) : (s.modColour r c f).cmds = s.cmds := rfl
@[simp] theorem State.modColour_flights (r c : Nat) (f : Colour → Colour) : (s.modColour r c f).flights = s.flights := rfl
@[simp] theorem State.modColour_due (r c : Nat) (f : Colour → Colour) : (s.modColour r c f).due = s.due := rfl
@[simp] theorem State.modColour_dueAt (r c : Nat) (f : Colour → Colour) : (s.modColour r c f).dueAt = s.dueAt := rfl
@[simp] theorem State.modColour_fresh (r c : Nat) (f : Colour → Colour) : (s.modColour r c f).fresh = s.fresh := rfl
@[simp] theorem State.modColour_lastIssue (r c : Nat) (f : Colour → Colour) : (s.modColour r c f).lastIssue = s.lastIssue := rfl
@[simp] theorem State.modColour_copies (r c : Nat) (f : Colour → Colour) : (s.modColour r c f).copies = s.copies := rfl
@[simp] theorem State.modColour_streams (r c : Nat) (f : Colour → Colour) : (s.modColour r c f).streams = s.streams := rfl
@[simp] theorem State.modColour_swaps (r c : Nat) (f : Colour → Colour) : (s.modColour r c f).swaps = s.swaps := rfl
@[simp] theorem State.modColour_rings (r c : Nat) (f : Colour → Colour) : (s.modColour r c f).rings = s.rings := rfl
@[simp] theorem State.modColour_root (r c : Nat) (f : Colour → Colour) : (s.modColour r c f).root = s.root := rfl
@[simp] theorem State.modColour_host (r c : Nat) (f : Colour → Colour) : (s.modColour r c f).host = s.host := rfl
@[simp] theorem State.modColour_serial (r c : Nat) (f : Colour → Colour) : (s.modColour r c f).serial = s.serial := rfl

@[simp] theorem State.modInst_cycle (k : InstKey) (f : Inst → Inst) : (s.modInst k f).cycle = s.cycle := rfl
@[simp] theorem State.modInst_cur (k : InstKey) (f : Inst → Inst) : (s.modInst k f).cur = s.cur := rfl
@[simp] theorem State.modInst_sched (k : InstKey) (f : Inst → Inst) : (s.modInst k f).sched = s.sched := rfl
@[simp] theorem State.modInst_unseen (k : InstKey) (f : Inst → Inst) : (s.modInst k f).unseen = s.unseen := rfl
@[simp] theorem State.modInst_freeCount (k : InstKey) (f : Inst → Inst) : (s.modInst k f).freeCount = s.freeCount := rfl
@[simp] theorem State.modInst_cores (k : InstKey) (f : Inst → Inst) : (s.modInst k f).cores = s.cores := rfl
@[simp] theorem State.modInst_z (k : InstKey) (f : Inst → Inst) : (s.modInst k f).z = s.z := rfl
@[simp] theorem State.modInst_tiles (k : InstKey) (f : Inst → Inst) : (s.modInst k f).tiles = s.tiles := rfl
@[simp] theorem State.modInst_gals (k : InstKey) (f : Inst → Inst) : (s.modInst k f).gals = s.gals := rfl
@[simp] theorem State.modInst_ls (k : InstKey) (f : Inst → Inst) : (s.modInst k f).ls = s.ls := rfl
@[simp] theorem State.modInst_cmds (k : InstKey) (f : Inst → Inst) : (s.modInst k f).cmds = s.cmds := rfl
@[simp] theorem State.modInst_flights (k : InstKey) (f : Inst → Inst) : (s.modInst k f).flights = s.flights := rfl
@[simp] theorem State.modInst_due (k : InstKey) (f : Inst → Inst) : (s.modInst k f).due = s.due := rfl
@[simp] theorem State.modInst_dueAt (k : InstKey) (f : Inst → Inst) : (s.modInst k f).dueAt = s.dueAt := rfl
@[simp] theorem State.modInst_fresh (k : InstKey) (f : Inst → Inst) : (s.modInst k f).fresh = s.fresh := rfl
@[simp] theorem State.modInst_lastIssue (k : InstKey) (f : Inst → Inst) : (s.modInst k f).lastIssue = s.lastIssue := rfl
@[simp] theorem State.modInst_copies (k : InstKey) (f : Inst → Inst) : (s.modInst k f).copies = s.copies := rfl
@[simp] theorem State.modInst_streams (k : InstKey) (f : Inst → Inst) : (s.modInst k f).streams = s.streams := rfl
@[simp] theorem State.modInst_swaps (k : InstKey) (f : Inst → Inst) : (s.modInst k f).swaps = s.swaps := rfl
@[simp] theorem State.modInst_rings (k : InstKey) (f : Inst → Inst) : (s.modInst k f).rings = s.rings := rfl
@[simp] theorem State.modInst_root (k : InstKey) (f : Inst → Inst) : (s.modInst k f).root = s.root := rfl
@[simp] theorem State.modInst_host (k : InstKey) (f : Inst → Inst) : (s.modInst k f).host = s.host := rfl
@[simp] theorem State.modInst_serial (k : InstKey) (f : Inst → Inst) : (s.modInst k f).serial = s.serial := rfl

@[simp] theorem State.setVerdict_cycle (k : InstKey) (g : Word) (e : Bool) (v : Vec) : (s.setVerdict k g e v).cycle = s.cycle := rfl
@[simp] theorem State.setVerdict_cur (k : InstKey) (g : Word) (e : Bool) (v : Vec) : (s.setVerdict k g e v).cur = s.cur := rfl
@[simp] theorem State.setVerdict_sched (k : InstKey) (g : Word) (e : Bool) (v : Vec) : (s.setVerdict k g e v).sched = s.sched := rfl
@[simp] theorem State.setVerdict_unseen (k : InstKey) (g : Word) (e : Bool) (v : Vec) : (s.setVerdict k g e v).unseen = s.unseen := rfl
@[simp] theorem State.setVerdict_freeCount (k : InstKey) (g : Word) (e : Bool) (v : Vec) : (s.setVerdict k g e v).freeCount = s.freeCount := rfl
@[simp] theorem State.setVerdict_cores (k : InstKey) (g : Word) (e : Bool) (v : Vec) : (s.setVerdict k g e v).cores = s.cores := rfl
@[simp] theorem State.setVerdict_z (k : InstKey) (g : Word) (e : Bool) (v : Vec) : (s.setVerdict k g e v).z = s.z := rfl
@[simp] theorem State.setVerdict_tiles (k : InstKey) (g : Word) (e : Bool) (v : Vec) : (s.setVerdict k g e v).tiles = s.tiles := rfl
@[simp] theorem State.setVerdict_gals (k : InstKey) (g : Word) (e : Bool) (v : Vec) : (s.setVerdict k g e v).gals = s.gals := rfl
@[simp] theorem State.setVerdict_ls (k : InstKey) (g : Word) (e : Bool) (v : Vec) : (s.setVerdict k g e v).ls = s.ls := rfl
@[simp] theorem State.setVerdict_cmds (k : InstKey) (g : Word) (e : Bool) (v : Vec) : (s.setVerdict k g e v).cmds = s.cmds := rfl
@[simp] theorem State.setVerdict_flights (k : InstKey) (g : Word) (e : Bool) (v : Vec) : (s.setVerdict k g e v).flights = s.flights := rfl
@[simp] theorem State.setVerdict_due (k : InstKey) (g : Word) (e : Bool) (v : Vec) : (s.setVerdict k g e v).due = s.due := rfl
@[simp] theorem State.setVerdict_dueAt (k : InstKey) (g : Word) (e : Bool) (v : Vec) : (s.setVerdict k g e v).dueAt = s.dueAt := rfl
@[simp] theorem State.setVerdict_fresh (k : InstKey) (g : Word) (e : Bool) (v : Vec) : (s.setVerdict k g e v).fresh = s.fresh := rfl
@[simp] theorem State.setVerdict_lastIssue (k : InstKey) (g : Word) (e : Bool) (v : Vec) : (s.setVerdict k g e v).lastIssue = s.lastIssue := rfl
@[simp] theorem State.setVerdict_copies (k : InstKey) (g : Word) (e : Bool) (v : Vec) : (s.setVerdict k g e v).copies = s.copies := rfl
@[simp] theorem State.setVerdict_streams (k : InstKey) (g : Word) (e : Bool) (v : Vec) : (s.setVerdict k g e v).streams = s.streams := rfl
@[simp] theorem State.setVerdict_swaps (k : InstKey) (g : Word) (e : Bool) (v : Vec) : (s.setVerdict k g e v).swaps = s.swaps := rfl
@[simp] theorem State.setVerdict_rings (k : InstKey) (g : Word) (e : Bool) (v : Vec) : (s.setVerdict k g e v).rings = s.rings := rfl
@[simp] theorem State.setVerdict_root (k : InstKey) (g : Word) (e : Bool) (v : Vec) : (s.setVerdict k g e v).root = s.root := rfl
@[simp] theorem State.setVerdict_host (k : InstKey) (g : Word) (e : Bool) (v : Vec) : (s.setVerdict k g e v).host = s.host := rfl
@[simp] theorem State.setVerdict_serial (k : InstKey) (g : Word) (e : Bool) (v : Vec) : (s.setVerdict k g e v).serial = s.serial := rfl

@[simp] theorem State.tick_cur (n : Nat) : (s.tick n).cur = s.cur := rfl
@[simp] theorem State.tick_sched (n : Nat) : (s.tick n).sched = s.sched := rfl
@[simp] theorem State.tick_unseen (n : Nat) : (s.tick n).unseen = s.unseen := rfl
@[simp] theorem State.tick_freeCount (n : Nat) : (s.tick n).freeCount = s.freeCount := rfl
@[simp] theorem State.tick_cores (n : Nat) : (s.tick n).cores = s.cores := rfl
@[simp] theorem State.tick_z (n : Nat) : (s.tick n).z = s.z := rfl
@[simp] theorem State.tick_tiles (n : Nat) : (s.tick n).tiles = s.tiles := rfl
@[simp] theorem State.tick_gals (n : Nat) : (s.tick n).gals = s.gals := rfl
@[simp] theorem State.tick_regions (n : Nat) : (s.tick n).regions = s.regions := rfl
@[simp] theorem State.tick_ls (n : Nat) : (s.tick n).ls = s.ls := rfl
@[simp] theorem State.tick_cmds (n : Nat) : (s.tick n).cmds = s.cmds := rfl
@[simp] theorem State.tick_flights (n : Nat) : (s.tick n).flights = s.flights := rfl
@[simp] theorem State.tick_due (n : Nat) : (s.tick n).due = s.due := rfl
@[simp] theorem State.tick_dueAt (n : Nat) : (s.tick n).dueAt = s.dueAt := rfl
@[simp] theorem State.tick_fresh (n : Nat) : (s.tick n).fresh = s.fresh := rfl
@[simp] theorem State.tick_lastIssue (n : Nat) : (s.tick n).lastIssue = s.lastIssue := rfl
@[simp] theorem State.tick_copies (n : Nat) : (s.tick n).copies = s.copies := rfl
@[simp] theorem State.tick_streams (n : Nat) : (s.tick n).streams = s.streams := rfl
@[simp] theorem State.tick_swaps (n : Nat) : (s.tick n).swaps = s.swaps := rfl
@[simp] theorem State.tick_rings (n : Nat) : (s.tick n).rings = s.rings := rfl
@[simp] theorem State.tick_root (n : Nat) : (s.tick n).root = s.root := rfl
@[simp] theorem State.tick_host (n : Nat) : (s.tick n).host = s.host := rfl
@[simp] theorem State.tick_serial (n : Nat) : (s.tick n).serial = s.serial := rfl

@[simp] theorem State.bump_cycle : (s.bump).cycle = s.cycle := rfl
@[simp] theorem State.bump_cur : (s.bump).cur = s.cur := rfl
@[simp] theorem State.bump_sched : (s.bump).sched = s.sched := rfl
@[simp] theorem State.bump_unseen : (s.bump).unseen = s.unseen := rfl
@[simp] theorem State.bump_freeCount : (s.bump).freeCount = s.freeCount := rfl
@[simp] theorem State.bump_cores : (s.bump).cores = s.cores := rfl
@[simp] theorem State.bump_z : (s.bump).z = s.z := rfl
@[simp] theorem State.bump_tiles : (s.bump).tiles = s.tiles := rfl
@[simp] theorem State.bump_gals : (s.bump).gals = s.gals := rfl
@[simp] theorem State.bump_regions : (s.bump).regions = s.regions := rfl
@[simp] theorem State.bump_ls : (s.bump).ls = s.ls := rfl
@[simp] theorem State.bump_cmds : (s.bump).cmds = s.cmds := rfl
@[simp] theorem State.bump_flights : (s.bump).flights = s.flights := rfl
@[simp] theorem State.bump_due : (s.bump).due = s.due := rfl
@[simp] theorem State.bump_dueAt : (s.bump).dueAt = s.dueAt := rfl
@[simp] theorem State.bump_fresh : (s.bump).fresh = s.fresh := rfl
@[simp] theorem State.bump_lastIssue : (s.bump).lastIssue = s.lastIssue := rfl
@[simp] theorem State.bump_copies : (s.bump).copies = s.copies := rfl
@[simp] theorem State.bump_streams : (s.bump).streams = s.streams := rfl
@[simp] theorem State.bump_swaps : (s.bump).swaps = s.swaps := rfl
@[simp] theorem State.bump_rings : (s.bump).rings = s.rings := rfl
@[simp] theorem State.bump_root : (s.bump).root = s.root := rfl
@[simp] theorem State.bump_host : (s.bump).host = s.host := rfl

@[simp] theorem State.atCycle_cur (n : Nat) : (s.atCycle n).cur = s.cur := rfl
@[simp] theorem State.atCycle_sched (n : Nat) : (s.atCycle n).sched = s.sched := rfl
@[simp] theorem State.atCycle_unseen (n : Nat) : (s.atCycle n).unseen = s.unseen := rfl
@[simp] theorem State.atCycle_freeCount (n : Nat) : (s.atCycle n).freeCount = s.freeCount := rfl
@[simp] theorem State.atCycle_cores (n : Nat) : (s.atCycle n).cores = s.cores := rfl
@[simp] theorem State.atCycle_z (n : Nat) : (s.atCycle n).z = s.z := rfl
@[simp] theorem State.atCycle_tiles (n : Nat) : (s.atCycle n).tiles = s.tiles := rfl
@[simp] theorem State.atCycle_gals (n : Nat) : (s.atCycle n).gals = s.gals := rfl
@[simp] theorem State.atCycle_regions (n : Nat) : (s.atCycle n).regions = s.regions := rfl
@[simp] theorem State.atCycle_ls (n : Nat) : (s.atCycle n).ls = s.ls := rfl
@[simp] theorem State.atCycle_cmds (n : Nat) : (s.atCycle n).cmds = s.cmds := rfl
@[simp] theorem State.atCycle_flights (n : Nat) : (s.atCycle n).flights = s.flights := rfl
@[simp] theorem State.atCycle_due (n : Nat) : (s.atCycle n).due = s.due := rfl
@[simp] theorem State.atCycle_dueAt (n : Nat) : (s.atCycle n).dueAt = s.dueAt := rfl
@[simp] theorem State.atCycle_fresh (n : Nat) : (s.atCycle n).fresh = s.fresh := rfl
@[simp] theorem State.atCycle_lastIssue (n : Nat) : (s.atCycle n).lastIssue = s.lastIssue := rfl
@[simp] theorem State.atCycle_copies (n : Nat) : (s.atCycle n).copies = s.copies := rfl
@[simp] theorem State.atCycle_streams (n : Nat) : (s.atCycle n).streams = s.streams := rfl
@[simp] theorem State.atCycle_swaps (n : Nat) : (s.atCycle n).swaps = s.swaps := rfl
@[simp] theorem State.atCycle_rings (n : Nat) : (s.atCycle n).rings = s.rings := rfl
@[simp] theorem State.atCycle_root (n : Nat) : (s.atCycle n).root = s.root := rfl
@[simp] theorem State.atCycle_host (n : Nat) : (s.atCycle n).host = s.host := rfl
@[simp] theorem State.atCycle_serial (n : Nat) : (s.atCycle n).serial = s.serial := rfl

@[simp] theorem State.freeWord_cycle : (s.freeWord.2).cycle = s.cycle := rfl
@[simp] theorem State.freeWord_cur : (s.freeWord.2).cur = s.cur := rfl
@[simp] theorem State.freeWord_sched : (s.freeWord.2).sched = s.sched := rfl
@[simp] theorem State.freeWord_unseen : (s.freeWord.2).unseen = s.unseen := rfl
@[simp] theorem State.freeWord_cores : (s.freeWord.2).cores = s.cores := rfl
@[simp] theorem State.freeWord_z : (s.freeWord.2).z = s.z := rfl
@[simp] theorem State.freeWord_tiles : (s.freeWord.2).tiles = s.tiles := rfl
@[simp] theorem State.freeWord_gals : (s.freeWord.2).gals = s.gals := rfl
@[simp] theorem State.freeWord_regions : (s.freeWord.2).regions = s.regions := rfl
@[simp] theorem State.freeWord_ls : (s.freeWord.2).ls = s.ls := rfl
@[simp] theorem State.freeWord_cmds : (s.freeWord.2).cmds = s.cmds := rfl
@[simp] theorem State.freeWord_flights : (s.freeWord.2).flights = s.flights := rfl
@[simp] theorem State.freeWord_due : (s.freeWord.2).due = s.due := rfl
@[simp] theorem State.freeWord_dueAt : (s.freeWord.2).dueAt = s.dueAt := rfl
@[simp] theorem State.freeWord_fresh : (s.freeWord.2).fresh = s.fresh := rfl
@[simp] theorem State.freeWord_lastIssue : (s.freeWord.2).lastIssue = s.lastIssue := rfl
@[simp] theorem State.freeWord_copies : (s.freeWord.2).copies = s.copies := rfl
@[simp] theorem State.freeWord_streams : (s.freeWord.2).streams = s.streams := rfl
@[simp] theorem State.freeWord_swaps : (s.freeWord.2).swaps = s.swaps := rfl
@[simp] theorem State.freeWord_rings : (s.freeWord.2).rings = s.rings := rfl
@[simp] theorem State.freeWord_root : (s.freeWord.2).root = s.root := rfl
@[simp] theorem State.freeWord_host : (s.freeWord.2).host = s.host := rfl
@[simp] theorem State.freeWord_serial : (s.freeWord.2).serial = s.serial := rfl

@[simp] theorem State.freeVec_cycle : (s.freeVec.2).cycle = s.cycle := rfl
@[simp] theorem State.freeVec_cur : (s.freeVec.2).cur = s.cur := rfl
@[simp] theorem State.freeVec_sched : (s.freeVec.2).sched = s.sched := rfl
@[simp] theorem State.freeVec_unseen : (s.freeVec.2).unseen = s.unseen := rfl
@[simp] theorem State.freeVec_cores : (s.freeVec.2).cores = s.cores := rfl
@[simp] theorem State.freeVec_z : (s.freeVec.2).z = s.z := rfl
@[simp] theorem State.freeVec_tiles : (s.freeVec.2).tiles = s.tiles := rfl
@[simp] theorem State.freeVec_gals : (s.freeVec.2).gals = s.gals := rfl
@[simp] theorem State.freeVec_regions : (s.freeVec.2).regions = s.regions := rfl
@[simp] theorem State.freeVec_ls : (s.freeVec.2).ls = s.ls := rfl
@[simp] theorem State.freeVec_cmds : (s.freeVec.2).cmds = s.cmds := rfl
@[simp] theorem State.freeVec_flights : (s.freeVec.2).flights = s.flights := rfl
@[simp] theorem State.freeVec_due : (s.freeVec.2).due = s.due := rfl
@[simp] theorem State.freeVec_dueAt : (s.freeVec.2).dueAt = s.dueAt := rfl
@[simp] theorem State.freeVec_fresh : (s.freeVec.2).fresh = s.fresh := rfl
@[simp] theorem State.freeVec_lastIssue : (s.freeVec.2).lastIssue = s.lastIssue := rfl
@[simp] theorem State.freeVec_copies : (s.freeVec.2).copies = s.copies := rfl
@[simp] theorem State.freeVec_streams : (s.freeVec.2).streams = s.streams := rfl
@[simp] theorem State.freeVec_swaps : (s.freeVec.2).swaps = s.swaps := rfl
@[simp] theorem State.freeVec_rings : (s.freeVec.2).rings = s.rings := rfl
@[simp] theorem State.freeVec_root : (s.freeVec.2).root = s.root := rfl
@[simp] theorem State.freeVec_host : (s.freeVec.2).host = s.host := rfl
@[simp] theorem State.freeVec_serial : (s.freeVec.2).serial = s.serial := rfl

@[simp] theorem State.mergeClock_cycle (p : Nat) (c : Clock) : (s.mergeClock p c).cycle = s.cycle := rfl
@[simp] theorem State.mergeClock_cur (p : Nat) (c : Clock) : (s.mergeClock p c).cur = s.cur := rfl
@[simp] theorem State.mergeClock_sched (p : Nat) (c : Clock) : (s.mergeClock p c).sched = s.sched := rfl
@[simp] theorem State.mergeClock_unseen (p : Nat) (c : Clock) : (s.mergeClock p c).unseen = s.unseen := rfl
@[simp] theorem State.mergeClock_freeCount (p : Nat) (c : Clock) : (s.mergeClock p c).freeCount = s.freeCount := rfl
@[simp] theorem State.mergeClock_cores (p : Nat) (c : Clock) : (s.mergeClock p c).cores = s.cores := rfl
@[simp] theorem State.mergeClock_tiles (p : Nat) (c : Clock) : (s.mergeClock p c).tiles = s.tiles := rfl
@[simp] theorem State.mergeClock_gals (p : Nat) (c : Clock) : (s.mergeClock p c).gals = s.gals := rfl
@[simp] theorem State.mergeClock_regions (p : Nat) (c : Clock) : (s.mergeClock p c).regions = s.regions := rfl
@[simp] theorem State.mergeClock_ls (p : Nat) (c : Clock) : (s.mergeClock p c).ls = s.ls := rfl
@[simp] theorem State.mergeClock_cmds (p : Nat) (c : Clock) : (s.mergeClock p c).cmds = s.cmds := rfl
@[simp] theorem State.mergeClock_flights (p : Nat) (c : Clock) : (s.mergeClock p c).flights = s.flights := rfl
@[simp] theorem State.mergeClock_due (p : Nat) (c : Clock) : (s.mergeClock p c).due = s.due := rfl
@[simp] theorem State.mergeClock_dueAt (p : Nat) (c : Clock) : (s.mergeClock p c).dueAt = s.dueAt := rfl
@[simp] theorem State.mergeClock_fresh (p : Nat) (c : Clock) : (s.mergeClock p c).fresh = s.fresh := rfl
@[simp] theorem State.mergeClock_lastIssue (p : Nat) (c : Clock) : (s.mergeClock p c).lastIssue = s.lastIssue := rfl
@[simp] theorem State.mergeClock_copies (p : Nat) (c : Clock) : (s.mergeClock p c).copies = s.copies := rfl
@[simp] theorem State.mergeClock_streams (p : Nat) (c : Clock) : (s.mergeClock p c).streams = s.streams := rfl
@[simp] theorem State.mergeClock_swaps (p : Nat) (c : Clock) : (s.mergeClock p c).swaps = s.swaps := rfl
@[simp] theorem State.mergeClock_rings (p : Nat) (c : Clock) : (s.mergeClock p c).rings = s.rings := rfl
@[simp] theorem State.mergeClock_root (p : Nat) (c : Clock) : (s.mergeClock p c).root = s.root := rfl
@[simp] theorem State.mergeClock_host (p : Nat) (c : Clock) : (s.mergeClock p c).host = s.host := rfl
@[simp] theorem State.mergeClock_serial (p : Nat) (c : Clock) : (s.mergeClock p c).serial = s.serial := rfl

@[simp] theorem State.mergeDone_cycle (p : Nat) (c : Clock) : (s.mergeDone p c).cycle = s.cycle := rfl
@[simp] theorem State.mergeDone_cur (p : Nat) (c : Clock) : (s.mergeDone p c).cur = s.cur := rfl
@[simp] theorem State.mergeDone_sched (p : Nat) (c : Clock) : (s.mergeDone p c).sched = s.sched := rfl
@[simp] theorem State.mergeDone_unseen (p : Nat) (c : Clock) : (s.mergeDone p c).unseen = s.unseen := rfl
@[simp] theorem State.mergeDone_freeCount (p : Nat) (c : Clock) : (s.mergeDone p c).freeCount = s.freeCount := rfl
@[simp] theorem State.mergeDone_cores (p : Nat) (c : Clock) : (s.mergeDone p c).cores = s.cores := rfl
@[simp] theorem State.mergeDone_tiles (p : Nat) (c : Clock) : (s.mergeDone p c).tiles = s.tiles := rfl
@[simp] theorem State.mergeDone_gals (p : Nat) (c : Clock) : (s.mergeDone p c).gals = s.gals := rfl
@[simp] theorem State.mergeDone_regions (p : Nat) (c : Clock) : (s.mergeDone p c).regions = s.regions := rfl
@[simp] theorem State.mergeDone_ls (p : Nat) (c : Clock) : (s.mergeDone p c).ls = s.ls := rfl
@[simp] theorem State.mergeDone_cmds (p : Nat) (c : Clock) : (s.mergeDone p c).cmds = s.cmds := rfl
@[simp] theorem State.mergeDone_flights (p : Nat) (c : Clock) : (s.mergeDone p c).flights = s.flights := rfl
@[simp] theorem State.mergeDone_due (p : Nat) (c : Clock) : (s.mergeDone p c).due = s.due := rfl
@[simp] theorem State.mergeDone_dueAt (p : Nat) (c : Clock) : (s.mergeDone p c).dueAt = s.dueAt := rfl
@[simp] theorem State.mergeDone_fresh (p : Nat) (c : Clock) : (s.mergeDone p c).fresh = s.fresh := rfl
@[simp] theorem State.mergeDone_lastIssue (p : Nat) (c : Clock) : (s.mergeDone p c).lastIssue = s.lastIssue := rfl
@[simp] theorem State.mergeDone_copies (p : Nat) (c : Clock) : (s.mergeDone p c).copies = s.copies := rfl
@[simp] theorem State.mergeDone_streams (p : Nat) (c : Clock) : (s.mergeDone p c).streams = s.streams := rfl
@[simp] theorem State.mergeDone_swaps (p : Nat) (c : Clock) : (s.mergeDone p c).swaps = s.swaps := rfl
@[simp] theorem State.mergeDone_rings (p : Nat) (c : Clock) : (s.mergeDone p c).rings = s.rings := rfl
@[simp] theorem State.mergeDone_root (p : Nat) (c : Clock) : (s.mergeDone p c).root = s.root := rfl
@[simp] theorem State.mergeDone_host (p : Nat) (c : Clock) : (s.mergeDone p c).host = s.host := rfl
@[simp] theorem State.mergeDone_serial (p : Nat) (c : Clock) : (s.mergeDone p c).serial = s.serial := rfl

@[simp] theorem State.zeroClock_cycle (p : Nat) : (s.zeroClock p).cycle = s.cycle := rfl
@[simp] theorem State.zeroClock_cur (p : Nat) : (s.zeroClock p).cur = s.cur := rfl
@[simp] theorem State.zeroClock_sched (p : Nat) : (s.zeroClock p).sched = s.sched := rfl
@[simp] theorem State.zeroClock_unseen (p : Nat) : (s.zeroClock p).unseen = s.unseen := rfl
@[simp] theorem State.zeroClock_freeCount (p : Nat) : (s.zeroClock p).freeCount = s.freeCount := rfl
@[simp] theorem State.zeroClock_cores (p : Nat) : (s.zeroClock p).cores = s.cores := rfl
@[simp] theorem State.zeroClock_tiles (p : Nat) : (s.zeroClock p).tiles = s.tiles := rfl
@[simp] theorem State.zeroClock_gals (p : Nat) : (s.zeroClock p).gals = s.gals := rfl
@[simp] theorem State.zeroClock_regions (p : Nat) : (s.zeroClock p).regions = s.regions := rfl
@[simp] theorem State.zeroClock_ls (p : Nat) : (s.zeroClock p).ls = s.ls := rfl
@[simp] theorem State.zeroClock_cmds (p : Nat) : (s.zeroClock p).cmds = s.cmds := rfl
@[simp] theorem State.zeroClock_flights (p : Nat) : (s.zeroClock p).flights = s.flights := rfl
@[simp] theorem State.zeroClock_due (p : Nat) : (s.zeroClock p).due = s.due := rfl
@[simp] theorem State.zeroClock_dueAt (p : Nat) : (s.zeroClock p).dueAt = s.dueAt := rfl
@[simp] theorem State.zeroClock_fresh (p : Nat) : (s.zeroClock p).fresh = s.fresh := rfl
@[simp] theorem State.zeroClock_lastIssue (p : Nat) : (s.zeroClock p).lastIssue = s.lastIssue := rfl
@[simp] theorem State.zeroClock_copies (p : Nat) : (s.zeroClock p).copies = s.copies := rfl
@[simp] theorem State.zeroClock_streams (p : Nat) : (s.zeroClock p).streams = s.streams := rfl
@[simp] theorem State.zeroClock_swaps (p : Nat) : (s.zeroClock p).swaps = s.swaps := rfl
@[simp] theorem State.zeroClock_rings (p : Nat) : (s.zeroClock p).rings = s.rings := rfl
@[simp] theorem State.zeroClock_root (p : Nat) : (s.zeroClock p).root = s.root := rfl
@[simp] theorem State.zeroClock_host (p : Nat) : (s.zeroClock p).host = s.host := rfl
@[simp] theorem State.zeroClock_serial (p : Nat) : (s.zeroClock p).serial = s.serial := rfl

@[simp] theorem State.retire_cur (f : Form) : (s.retire f).cur = s.cur := rfl
@[simp] theorem State.retire_sched (f : Form) : (s.retire f).sched = s.sched := rfl
@[simp] theorem State.retire_unseen (f : Form) : (s.retire f).unseen = s.unseen := rfl
@[simp] theorem State.retire_freeCount (f : Form) : (s.retire f).freeCount = s.freeCount := rfl
@[simp] theorem State.retire_z (f : Form) : (s.retire f).z = s.z := rfl
@[simp] theorem State.retire_tiles (f : Form) : (s.retire f).tiles = s.tiles := rfl
@[simp] theorem State.retire_gals (f : Form) : (s.retire f).gals = s.gals := rfl
@[simp] theorem State.retire_regions (f : Form) : (s.retire f).regions = s.regions := rfl
@[simp] theorem State.retire_ls (f : Form) : (s.retire f).ls = s.ls := rfl
@[simp] theorem State.retire_cmds (f : Form) : (s.retire f).cmds = s.cmds := rfl
@[simp] theorem State.retire_flights (f : Form) : (s.retire f).flights = s.flights := rfl
@[simp] theorem State.retire_due (f : Form) : (s.retire f).due = s.due := rfl
@[simp] theorem State.retire_dueAt (f : Form) : (s.retire f).dueAt = s.dueAt := rfl
@[simp] theorem State.retire_fresh (f : Form) : (s.retire f).fresh = s.fresh := rfl
@[simp] theorem State.retire_lastIssue (f : Form) : (s.retire f).lastIssue = s.lastIssue := rfl
@[simp] theorem State.retire_copies (f : Form) : (s.retire f).copies = s.copies := rfl
@[simp] theorem State.retire_streams (f : Form) : (s.retire f).streams = s.streams := rfl
@[simp] theorem State.retire_swaps (f : Form) : (s.retire f).swaps = s.swaps := rfl
@[simp] theorem State.retire_rings (f : Form) : (s.retire f).rings = s.rings := rfl
@[simp] theorem State.retire_root (f : Form) : (s.retire f).root = s.root := rfl
@[simp] theorem State.retire_host (f : Form) : (s.retire f).host = s.host := rfl
@[simp] theorem State.retire_serial (f : Form) : (s.retire f).serial = s.serial := rfl

@[simp] theorem State.writeX_cycle (r : RegField) (v : Word) : (s.writeX r v).cycle = s.cycle := rfl
@[simp] theorem State.writeX_cur (r : RegField) (v : Word) : (s.writeX r v).cur = s.cur := rfl
@[simp] theorem State.writeX_sched (r : RegField) (v : Word) : (s.writeX r v).sched = s.sched := rfl
@[simp] theorem State.writeX_unseen (r : RegField) (v : Word) : (s.writeX r v).unseen = s.unseen := rfl
@[simp] theorem State.writeX_freeCount (r : RegField) (v : Word) : (s.writeX r v).freeCount = s.freeCount := rfl
@[simp] theorem State.writeX_z (r : RegField) (v : Word) : (s.writeX r v).z = s.z := rfl
@[simp] theorem State.writeX_tiles (r : RegField) (v : Word) : (s.writeX r v).tiles = s.tiles := rfl
@[simp] theorem State.writeX_gals (r : RegField) (v : Word) : (s.writeX r v).gals = s.gals := rfl
@[simp] theorem State.writeX_regions (r : RegField) (v : Word) : (s.writeX r v).regions = s.regions := rfl
@[simp] theorem State.writeX_ls (r : RegField) (v : Word) : (s.writeX r v).ls = s.ls := rfl
@[simp] theorem State.writeX_cmds (r : RegField) (v : Word) : (s.writeX r v).cmds = s.cmds := rfl
@[simp] theorem State.writeX_flights (r : RegField) (v : Word) : (s.writeX r v).flights = s.flights := rfl
@[simp] theorem State.writeX_due (r : RegField) (v : Word) : (s.writeX r v).due = s.due := rfl
@[simp] theorem State.writeX_dueAt (r : RegField) (v : Word) : (s.writeX r v).dueAt = s.dueAt := rfl
@[simp] theorem State.writeX_fresh (r : RegField) (v : Word) : (s.writeX r v).fresh = s.fresh := rfl
@[simp] theorem State.writeX_lastIssue (r : RegField) (v : Word) : (s.writeX r v).lastIssue = s.lastIssue := rfl
@[simp] theorem State.writeX_copies (r : RegField) (v : Word) : (s.writeX r v).copies = s.copies := rfl
@[simp] theorem State.writeX_streams (r : RegField) (v : Word) : (s.writeX r v).streams = s.streams := rfl
@[simp] theorem State.writeX_swaps (r : RegField) (v : Word) : (s.writeX r v).swaps = s.swaps := rfl
@[simp] theorem State.writeX_rings (r : RegField) (v : Word) : (s.writeX r v).rings = s.rings := rfl
@[simp] theorem State.writeX_root (r : RegField) (v : Word) : (s.writeX r v).root = s.root := rfl
@[simp] theorem State.writeX_host (r : RegField) (v : Word) : (s.writeX r v).host = s.host := rfl
@[simp] theorem State.writeX_serial (r : RegField) (v : Word) : (s.writeX r v).serial = s.serial := rfl

@[simp] theorem State.postEvent_cycle (src kind data : Nat) : (s.postEvent src kind data).cycle = s.cycle := rfl
@[simp] theorem State.postEvent_cur (src kind data : Nat) : (s.postEvent src kind data).cur = s.cur := rfl
@[simp] theorem State.postEvent_sched (src kind data : Nat) : (s.postEvent src kind data).sched = s.sched := rfl
@[simp] theorem State.postEvent_unseen (src kind data : Nat) : (s.postEvent src kind data).unseen = s.unseen := rfl
@[simp] theorem State.postEvent_freeCount (src kind data : Nat) : (s.postEvent src kind data).freeCount = s.freeCount := rfl
@[simp] theorem State.postEvent_cores (src kind data : Nat) : (s.postEvent src kind data).cores = s.cores := rfl
@[simp] theorem State.postEvent_z (src kind data : Nat) : (s.postEvent src kind data).z = s.z := rfl
@[simp] theorem State.postEvent_tiles (src kind data : Nat) : (s.postEvent src kind data).tiles = s.tiles := rfl
@[simp] theorem State.postEvent_gals (src kind data : Nat) : (s.postEvent src kind data).gals = s.gals := rfl
@[simp] theorem State.postEvent_regions (src kind data : Nat) : (s.postEvent src kind data).regions = s.regions := rfl
@[simp] theorem State.postEvent_ls (src kind data : Nat) : (s.postEvent src kind data).ls = s.ls := rfl
@[simp] theorem State.postEvent_cmds (src kind data : Nat) : (s.postEvent src kind data).cmds = s.cmds := rfl
@[simp] theorem State.postEvent_flights (src kind data : Nat) : (s.postEvent src kind data).flights = s.flights := rfl
@[simp] theorem State.postEvent_due (src kind data : Nat) : (s.postEvent src kind data).due = s.due := rfl
@[simp] theorem State.postEvent_dueAt (src kind data : Nat) : (s.postEvent src kind data).dueAt = s.dueAt := rfl
@[simp] theorem State.postEvent_fresh (src kind data : Nat) : (s.postEvent src kind data).fresh = s.fresh := rfl
@[simp] theorem State.postEvent_lastIssue (src kind data : Nat) : (s.postEvent src kind data).lastIssue = s.lastIssue := rfl
@[simp] theorem State.postEvent_copies (src kind data : Nat) : (s.postEvent src kind data).copies = s.copies := rfl
@[simp] theorem State.postEvent_streams (src kind data : Nat) : (s.postEvent src kind data).streams = s.streams := rfl
@[simp] theorem State.postEvent_swaps (src kind data : Nat) : (s.postEvent src kind data).swaps = s.swaps := rfl
@[simp] theorem State.postEvent_rings (src kind data : Nat) : (s.postEvent src kind data).rings = s.rings := rfl
@[simp] theorem State.postEvent_serial (src kind data : Nat) : (s.postEvent src kind data).serial = s.serial := rfl

@[simp] theorem State.send_cycle (m : Sent) : (s.send m).cycle = s.cycle := rfl
@[simp] theorem State.send_cur (m : Sent) : (s.send m).cur = s.cur := rfl
@[simp] theorem State.send_sched (m : Sent) : (s.send m).sched = s.sched := rfl
@[simp] theorem State.send_unseen (m : Sent) : (s.send m).unseen = s.unseen := rfl
@[simp] theorem State.send_freeCount (m : Sent) : (s.send m).freeCount = s.freeCount := rfl
@[simp] theorem State.send_cores (m : Sent) : (s.send m).cores = s.cores := rfl
@[simp] theorem State.send_z (m : Sent) : (s.send m).z = s.z := rfl
@[simp] theorem State.send_tiles (m : Sent) : (s.send m).tiles = s.tiles := rfl
@[simp] theorem State.send_gals (m : Sent) : (s.send m).gals = s.gals := rfl
@[simp] theorem State.send_regions (m : Sent) : (s.send m).regions = s.regions := rfl
@[simp] theorem State.send_ls (m : Sent) : (s.send m).ls = s.ls := rfl
@[simp] theorem State.send_cmds (m : Sent) : (s.send m).cmds = s.cmds := rfl
@[simp] theorem State.send_flights (m : Sent) : (s.send m).flights = s.flights := rfl
@[simp] theorem State.send_due (m : Sent) : (s.send m).due = s.due := rfl
@[simp] theorem State.send_dueAt (m : Sent) : (s.send m).dueAt = s.dueAt := rfl
@[simp] theorem State.send_fresh (m : Sent) : (s.send m).fresh = s.fresh := rfl
@[simp] theorem State.send_lastIssue (m : Sent) : (s.send m).lastIssue = s.lastIssue := rfl
@[simp] theorem State.send_copies (m : Sent) : (s.send m).copies = s.copies := rfl
@[simp] theorem State.send_streams (m : Sent) : (s.send m).streams = s.streams := rfl
@[simp] theorem State.send_swaps (m : Sent) : (s.send m).swaps = s.swaps := rfl
@[simp] theorem State.send_rings (m : Sent) : (s.send m).rings = s.rings := rfl
@[simp] theorem State.send_root (m : Sent) : (s.send m).root = s.root := rfl
@[simp] theorem State.send_serial (m : Sent) : (s.send m).serial = s.serial := rfl

@[simp] theorem State.setView_cycle (d : Nat) (v : View) : (s.setView d v).cycle = s.cycle := rfl
@[simp] theorem State.setView_cur (d : Nat) (v : View) : (s.setView d v).cur = s.cur := rfl
@[simp] theorem State.setView_sched (d : Nat) (v : View) : (s.setView d v).sched = s.sched := rfl
@[simp] theorem State.setView_unseen (d : Nat) (v : View) : (s.setView d v).unseen = s.unseen := rfl
@[simp] theorem State.setView_freeCount (d : Nat) (v : View) : (s.setView d v).freeCount = s.freeCount := rfl
@[simp] theorem State.setView_cores (d : Nat) (v : View) : (s.setView d v).cores = s.cores := rfl
@[simp] theorem State.setView_tiles (d : Nat) (v : View) : (s.setView d v).tiles = s.tiles := rfl
@[simp] theorem State.setView_gals (d : Nat) (v : View) : (s.setView d v).gals = s.gals := rfl
@[simp] theorem State.setView_regions (d : Nat) (v : View) : (s.setView d v).regions = s.regions := rfl
@[simp] theorem State.setView_ls (d : Nat) (v : View) : (s.setView d v).ls = s.ls := rfl
@[simp] theorem State.setView_cmds (d : Nat) (v : View) : (s.setView d v).cmds = s.cmds := rfl
@[simp] theorem State.setView_flights (d : Nat) (v : View) : (s.setView d v).flights = s.flights := rfl
@[simp] theorem State.setView_due (d : Nat) (v : View) : (s.setView d v).due = s.due := rfl
@[simp] theorem State.setView_dueAt (d : Nat) (v : View) : (s.setView d v).dueAt = s.dueAt := rfl
@[simp] theorem State.setView_fresh (d : Nat) (v : View) : (s.setView d v).fresh = s.fresh := rfl
@[simp] theorem State.setView_lastIssue (d : Nat) (v : View) : (s.setView d v).lastIssue = s.lastIssue := rfl
@[simp] theorem State.setView_copies (d : Nat) (v : View) : (s.setView d v).copies = s.copies := rfl
@[simp] theorem State.setView_streams (d : Nat) (v : View) : (s.setView d v).streams = s.streams := rfl
@[simp] theorem State.setView_swaps (d : Nat) (v : View) : (s.setView d v).swaps = s.swaps := rfl
@[simp] theorem State.setView_rings (d : Nat) (v : View) : (s.setView d v).rings = s.rings := rfl
@[simp] theorem State.setView_root (d : Nat) (v : View) : (s.setView d v).root = s.root := rfl
@[simp] theorem State.setView_host (d : Nat) (v : View) : (s.setView d v).host = s.host := rfl
@[simp] theorem State.setView_serial (d : Nat) (v : View) : (s.setView d v).serial = s.serial := rfl

@[simp] theorem State.addOp_cycle (op : MemOp) (p : Nat) : (s.addOp op p).cycle = s.cycle := rfl
@[simp] theorem State.addOp_cur (op : MemOp) (p : Nat) : (s.addOp op p).cur = s.cur := rfl
@[simp] theorem State.addOp_sched (op : MemOp) (p : Nat) : (s.addOp op p).sched = s.sched := rfl
@[simp] theorem State.addOp_unseen (op : MemOp) (p : Nat) : (s.addOp op p).unseen = s.unseen := rfl
@[simp] theorem State.addOp_freeCount (op : MemOp) (p : Nat) : (s.addOp op p).freeCount = s.freeCount := rfl
@[simp] theorem State.addOp_cores (op : MemOp) (p : Nat) : (s.addOp op p).cores = s.cores := rfl
@[simp] theorem State.addOp_tiles (op : MemOp) (p : Nat) : (s.addOp op p).tiles = s.tiles := rfl
@[simp] theorem State.addOp_gals (op : MemOp) (p : Nat) : (s.addOp op p).gals = s.gals := rfl
@[simp] theorem State.addOp_regions (op : MemOp) (p : Nat) : (s.addOp op p).regions = s.regions := rfl
@[simp] theorem State.addOp_ls (op : MemOp) (p : Nat) : (s.addOp op p).ls = s.ls := rfl
@[simp] theorem State.addOp_cmds (op : MemOp) (p : Nat) : (s.addOp op p).cmds = s.cmds := rfl
@[simp] theorem State.addOp_flights (op : MemOp) (p : Nat) : (s.addOp op p).flights = s.flights := rfl
@[simp] theorem State.addOp_due (op : MemOp) (p : Nat) : (s.addOp op p).due = s.due := rfl
@[simp] theorem State.addOp_dueAt (op : MemOp) (p : Nat) : (s.addOp op p).dueAt = s.dueAt := rfl
@[simp] theorem State.addOp_fresh (op : MemOp) (p : Nat) : (s.addOp op p).fresh = s.fresh := rfl
@[simp] theorem State.addOp_lastIssue (op : MemOp) (p : Nat) : (s.addOp op p).lastIssue = s.lastIssue := rfl
@[simp] theorem State.addOp_copies (op : MemOp) (p : Nat) : (s.addOp op p).copies = s.copies := rfl
@[simp] theorem State.addOp_streams (op : MemOp) (p : Nat) : (s.addOp op p).streams = s.streams := rfl
@[simp] theorem State.addOp_swaps (op : MemOp) (p : Nat) : (s.addOp op p).swaps = s.swaps := rfl
@[simp] theorem State.addOp_rings (op : MemOp) (p : Nat) : (s.addOp op p).rings = s.rings := rfl
@[simp] theorem State.addOp_root (op : MemOp) (p : Nat) : (s.addOp op p).root = s.root := rfl
@[simp] theorem State.addOp_host (op : MemOp) (p : Nat) : (s.addOp op p).host = s.host := rfl
@[simp] theorem State.addOp_serial (op : MemOp) (p : Nat) : (s.addOp op p).serial = s.serial := rfl

@[simp] theorem State.modOp_cycle (id : Nat) (f : MemOp → MemOp) : (s.modOp id f).cycle = s.cycle := rfl
@[simp] theorem State.modOp_cur (id : Nat) (f : MemOp → MemOp) : (s.modOp id f).cur = s.cur := rfl
@[simp] theorem State.modOp_sched (id : Nat) (f : MemOp → MemOp) : (s.modOp id f).sched = s.sched := rfl
@[simp] theorem State.modOp_unseen (id : Nat) (f : MemOp → MemOp) : (s.modOp id f).unseen = s.unseen := rfl
@[simp] theorem State.modOp_freeCount (id : Nat) (f : MemOp → MemOp) : (s.modOp id f).freeCount = s.freeCount := rfl
@[simp] theorem State.modOp_cores (id : Nat) (f : MemOp → MemOp) : (s.modOp id f).cores = s.cores := rfl
@[simp] theorem State.modOp_tiles (id : Nat) (f : MemOp → MemOp) : (s.modOp id f).tiles = s.tiles := rfl
@[simp] theorem State.modOp_gals (id : Nat) (f : MemOp → MemOp) : (s.modOp id f).gals = s.gals := rfl
@[simp] theorem State.modOp_regions (id : Nat) (f : MemOp → MemOp) : (s.modOp id f).regions = s.regions := rfl
@[simp] theorem State.modOp_ls (id : Nat) (f : MemOp → MemOp) : (s.modOp id f).ls = s.ls := rfl
@[simp] theorem State.modOp_cmds (id : Nat) (f : MemOp → MemOp) : (s.modOp id f).cmds = s.cmds := rfl
@[simp] theorem State.modOp_flights (id : Nat) (f : MemOp → MemOp) : (s.modOp id f).flights = s.flights := rfl
@[simp] theorem State.modOp_due (id : Nat) (f : MemOp → MemOp) : (s.modOp id f).due = s.due := rfl
@[simp] theorem State.modOp_dueAt (id : Nat) (f : MemOp → MemOp) : (s.modOp id f).dueAt = s.dueAt := rfl
@[simp] theorem State.modOp_fresh (id : Nat) (f : MemOp → MemOp) : (s.modOp id f).fresh = s.fresh := rfl
@[simp] theorem State.modOp_lastIssue (id : Nat) (f : MemOp → MemOp) : (s.modOp id f).lastIssue = s.lastIssue := rfl
@[simp] theorem State.modOp_copies (id : Nat) (f : MemOp → MemOp) : (s.modOp id f).copies = s.copies := rfl
@[simp] theorem State.modOp_streams (id : Nat) (f : MemOp → MemOp) : (s.modOp id f).streams = s.streams := rfl
@[simp] theorem State.modOp_swaps (id : Nat) (f : MemOp → MemOp) : (s.modOp id f).swaps = s.swaps := rfl
@[simp] theorem State.modOp_rings (id : Nat) (f : MemOp → MemOp) : (s.modOp id f).rings = s.rings := rfl
@[simp] theorem State.modOp_root (id : Nat) (f : MemOp → MemOp) : (s.modOp id f).root = s.root := rfl
@[simp] theorem State.modOp_host (id : Nat) (f : MemOp → MemOp) : (s.modOp id f).host = s.host := rfl
@[simp] theorem State.modOp_serial (id : Nat) (f : MemOp → MemOp) : (s.modOp id f).serial = s.serial := rfl

@[simp] theorem State.removeOp_cycle (id : Nat) : (s.removeOp id).cycle = s.cycle := rfl
@[simp] theorem State.removeOp_cur (id : Nat) : (s.removeOp id).cur = s.cur := rfl
@[simp] theorem State.removeOp_sched (id : Nat) : (s.removeOp id).sched = s.sched := rfl
@[simp] theorem State.removeOp_unseen (id : Nat) : (s.removeOp id).unseen = s.unseen := rfl
@[simp] theorem State.removeOp_freeCount (id : Nat) : (s.removeOp id).freeCount = s.freeCount := rfl
@[simp] theorem State.removeOp_cores (id : Nat) : (s.removeOp id).cores = s.cores := rfl
@[simp] theorem State.removeOp_tiles (id : Nat) : (s.removeOp id).tiles = s.tiles := rfl
@[simp] theorem State.removeOp_gals (id : Nat) : (s.removeOp id).gals = s.gals := rfl
@[simp] theorem State.removeOp_regions (id : Nat) : (s.removeOp id).regions = s.regions := rfl
@[simp] theorem State.removeOp_ls (id : Nat) : (s.removeOp id).ls = s.ls := rfl
@[simp] theorem State.removeOp_cmds (id : Nat) : (s.removeOp id).cmds = s.cmds := rfl
@[simp] theorem State.removeOp_flights (id : Nat) : (s.removeOp id).flights = s.flights := rfl
@[simp] theorem State.removeOp_due (id : Nat) : (s.removeOp id).due = s.due := rfl
@[simp] theorem State.removeOp_dueAt (id : Nat) : (s.removeOp id).dueAt = s.dueAt := rfl
@[simp] theorem State.removeOp_fresh (id : Nat) : (s.removeOp id).fresh = s.fresh := rfl
@[simp] theorem State.removeOp_lastIssue (id : Nat) : (s.removeOp id).lastIssue = s.lastIssue := rfl
@[simp] theorem State.removeOp_copies (id : Nat) : (s.removeOp id).copies = s.copies := rfl
@[simp] theorem State.removeOp_streams (id : Nat) : (s.removeOp id).streams = s.streams := rfl
@[simp] theorem State.removeOp_swaps (id : Nat) : (s.removeOp id).swaps = s.swaps := rfl
@[simp] theorem State.removeOp_rings (id : Nat) : (s.removeOp id).rings = s.rings := rfl
@[simp] theorem State.removeOp_root (id : Nat) : (s.removeOp id).root = s.root := rfl
@[simp] theorem State.removeOp_host (id : Nat) : (s.removeOp id).host = s.host := rfl
@[simp] theorem State.removeOp_serial (id : Nat) : (s.removeOp id).serial = s.serial := rfl

@[simp] theorem State.addWrite_cycle (w : WriteRec) : (s.addWrite w).cycle = s.cycle := rfl
@[simp] theorem State.addWrite_cur (w : WriteRec) : (s.addWrite w).cur = s.cur := rfl
@[simp] theorem State.addWrite_sched (w : WriteRec) : (s.addWrite w).sched = s.sched := rfl
@[simp] theorem State.addWrite_unseen (w : WriteRec) : (s.addWrite w).unseen = s.unseen := rfl
@[simp] theorem State.addWrite_freeCount (w : WriteRec) : (s.addWrite w).freeCount = s.freeCount := rfl
@[simp] theorem State.addWrite_cores (w : WriteRec) : (s.addWrite w).cores = s.cores := rfl
@[simp] theorem State.addWrite_tiles (w : WriteRec) : (s.addWrite w).tiles = s.tiles := rfl
@[simp] theorem State.addWrite_gals (w : WriteRec) : (s.addWrite w).gals = s.gals := rfl
@[simp] theorem State.addWrite_regions (w : WriteRec) : (s.addWrite w).regions = s.regions := rfl
@[simp] theorem State.addWrite_ls (w : WriteRec) : (s.addWrite w).ls = s.ls := rfl
@[simp] theorem State.addWrite_cmds (w : WriteRec) : (s.addWrite w).cmds = s.cmds := rfl
@[simp] theorem State.addWrite_flights (w : WriteRec) : (s.addWrite w).flights = s.flights := rfl
@[simp] theorem State.addWrite_due (w : WriteRec) : (s.addWrite w).due = s.due := rfl
@[simp] theorem State.addWrite_dueAt (w : WriteRec) : (s.addWrite w).dueAt = s.dueAt := rfl
@[simp] theorem State.addWrite_fresh (w : WriteRec) : (s.addWrite w).fresh = s.fresh := rfl
@[simp] theorem State.addWrite_lastIssue (w : WriteRec) : (s.addWrite w).lastIssue = s.lastIssue := rfl
@[simp] theorem State.addWrite_copies (w : WriteRec) : (s.addWrite w).copies = s.copies := rfl
@[simp] theorem State.addWrite_streams (w : WriteRec) : (s.addWrite w).streams = s.streams := rfl
@[simp] theorem State.addWrite_swaps (w : WriteRec) : (s.addWrite w).swaps = s.swaps := rfl
@[simp] theorem State.addWrite_rings (w : WriteRec) : (s.addWrite w).rings = s.rings := rfl
@[simp] theorem State.addWrite_root (w : WriteRec) : (s.addWrite w).root = s.root := rfl
@[simp] theorem State.addWrite_serial (w : WriteRec) : (s.addWrite w).serial = s.serial := rfl

@[simp] theorem State.dropFinished_cycle : (s.dropFinished).cycle = s.cycle := rfl
@[simp] theorem State.dropFinished_cur : (s.dropFinished).cur = s.cur := rfl
@[simp] theorem State.dropFinished_sched : (s.dropFinished).sched = s.sched := rfl
@[simp] theorem State.dropFinished_unseen : (s.dropFinished).unseen = s.unseen := rfl
@[simp] theorem State.dropFinished_freeCount : (s.dropFinished).freeCount = s.freeCount := rfl
@[simp] theorem State.dropFinished_cores : (s.dropFinished).cores = s.cores := rfl
@[simp] theorem State.dropFinished_tiles : (s.dropFinished).tiles = s.tiles := rfl
@[simp] theorem State.dropFinished_gals : (s.dropFinished).gals = s.gals := rfl
@[simp] theorem State.dropFinished_regions : (s.dropFinished).regions = s.regions := rfl
@[simp] theorem State.dropFinished_ls : (s.dropFinished).ls = s.ls := rfl
@[simp] theorem State.dropFinished_cmds : (s.dropFinished).cmds = s.cmds := rfl
@[simp] theorem State.dropFinished_flights : (s.dropFinished).flights = s.flights := rfl
@[simp] theorem State.dropFinished_due : (s.dropFinished).due = s.due := rfl
@[simp] theorem State.dropFinished_dueAt : (s.dropFinished).dueAt = s.dueAt := rfl
@[simp] theorem State.dropFinished_fresh : (s.dropFinished).fresh = s.fresh := rfl
@[simp] theorem State.dropFinished_lastIssue : (s.dropFinished).lastIssue = s.lastIssue := rfl
@[simp] theorem State.dropFinished_copies : (s.dropFinished).copies = s.copies := rfl
@[simp] theorem State.dropFinished_streams : (s.dropFinished).streams = s.streams := rfl
@[simp] theorem State.dropFinished_swaps : (s.dropFinished).swaps = s.swaps := rfl
@[simp] theorem State.dropFinished_rings : (s.dropFinished).rings = s.rings := rfl
@[simp] theorem State.dropFinished_root : (s.dropFinished).root = s.root := rfl
@[simp] theorem State.dropFinished_host : (s.dropFinished).host = s.host := rfl
@[simp] theorem State.dropFinished_serial : (s.dropFinished).serial = s.serial := rfl

@[simp] theorem State.accrue_cycle (f : FFlags) : (s.accrue f).cycle = s.cycle := rfl
@[simp] theorem State.accrue_cur (f : FFlags) : (s.accrue f).cur = s.cur := rfl
@[simp] theorem State.accrue_sched (f : FFlags) : (s.accrue f).sched = s.sched := rfl
@[simp] theorem State.accrue_unseen (f : FFlags) : (s.accrue f).unseen = s.unseen := rfl
@[simp] theorem State.accrue_freeCount (f : FFlags) : (s.accrue f).freeCount = s.freeCount := rfl
@[simp] theorem State.accrue_z (f : FFlags) : (s.accrue f).z = s.z := rfl
@[simp] theorem State.accrue_tiles (f : FFlags) : (s.accrue f).tiles = s.tiles := rfl
@[simp] theorem State.accrue_gals (f : FFlags) : (s.accrue f).gals = s.gals := rfl
@[simp] theorem State.accrue_regions (f : FFlags) : (s.accrue f).regions = s.regions := rfl
@[simp] theorem State.accrue_ls (f : FFlags) : (s.accrue f).ls = s.ls := rfl
@[simp] theorem State.accrue_cmds (f : FFlags) : (s.accrue f).cmds = s.cmds := rfl
@[simp] theorem State.accrue_flights (f : FFlags) : (s.accrue f).flights = s.flights := rfl
@[simp] theorem State.accrue_due (f : FFlags) : (s.accrue f).due = s.due := rfl
@[simp] theorem State.accrue_dueAt (f : FFlags) : (s.accrue f).dueAt = s.dueAt := rfl
@[simp] theorem State.accrue_fresh (f : FFlags) : (s.accrue f).fresh = s.fresh := rfl
@[simp] theorem State.accrue_lastIssue (f : FFlags) : (s.accrue f).lastIssue = s.lastIssue := rfl
@[simp] theorem State.accrue_copies (f : FFlags) : (s.accrue f).copies = s.copies := rfl
@[simp] theorem State.accrue_streams (f : FFlags) : (s.accrue f).streams = s.streams := rfl
@[simp] theorem State.accrue_swaps (f : FFlags) : (s.accrue f).swaps = s.swaps := rfl
@[simp] theorem State.accrue_rings (f : FFlags) : (s.accrue f).rings = s.rings := rfl
@[simp] theorem State.accrue_root (f : FFlags) : (s.accrue f).root = s.root := rfl
@[simp] theorem State.accrue_host (f : FFlags) : (s.accrue f).host = s.host := rfl
@[simp] theorem State.accrue_serial (f : FFlags) : (s.accrue f).serial = s.serial := rfl

@[simp] theorem State.jump_cur (a : Word) (n : Nat) : (s.jump a n).cur = s.cur := rfl
@[simp] theorem State.jump_sched (a : Word) (n : Nat) : (s.jump a n).sched = s.sched := rfl
@[simp] theorem State.jump_unseen (a : Word) (n : Nat) : (s.jump a n).unseen = s.unseen := rfl
@[simp] theorem State.jump_freeCount (a : Word) (n : Nat) : (s.jump a n).freeCount = s.freeCount := rfl
@[simp] theorem State.jump_z (a : Word) (n : Nat) : (s.jump a n).z = s.z := rfl
@[simp] theorem State.jump_tiles (a : Word) (n : Nat) : (s.jump a n).tiles = s.tiles := rfl
@[simp] theorem State.jump_gals (a : Word) (n : Nat) : (s.jump a n).gals = s.gals := rfl
@[simp] theorem State.jump_regions (a : Word) (n : Nat) : (s.jump a n).regions = s.regions := rfl
@[simp] theorem State.jump_ls (a : Word) (n : Nat) : (s.jump a n).ls = s.ls := rfl
@[simp] theorem State.jump_cmds (a : Word) (n : Nat) : (s.jump a n).cmds = s.cmds := rfl
@[simp] theorem State.jump_flights (a : Word) (n : Nat) : (s.jump a n).flights = s.flights := rfl
@[simp] theorem State.jump_due (a : Word) (n : Nat) : (s.jump a n).due = s.due := rfl
@[simp] theorem State.jump_dueAt (a : Word) (n : Nat) : (s.jump a n).dueAt = s.dueAt := rfl
@[simp] theorem State.jump_fresh (a : Word) (n : Nat) : (s.jump a n).fresh = s.fresh := rfl
@[simp] theorem State.jump_lastIssue (a : Word) (n : Nat) : (s.jump a n).lastIssue = s.lastIssue := rfl
@[simp] theorem State.jump_copies (a : Word) (n : Nat) : (s.jump a n).copies = s.copies := rfl
@[simp] theorem State.jump_streams (a : Word) (n : Nat) : (s.jump a n).streams = s.streams := rfl
@[simp] theorem State.jump_swaps (a : Word) (n : Nat) : (s.jump a n).swaps = s.swaps := rfl
@[simp] theorem State.jump_rings (a : Word) (n : Nat) : (s.jump a n).rings = s.rings := rfl
@[simp] theorem State.jump_root (a : Word) (n : Nat) : (s.jump a n).root = s.root := rfl
@[simp] theorem State.jump_host (a : Word) (n : Nat) : (s.jump a n).host = s.host := rfl
@[simp] theorem State.jump_serial (a : Word) (n : Nat) : (s.jump a n).serial = s.serial := rfl

/-! ### The part that an update changes -/

@[simp] theorem State.tick_cycle (n : Nat) : (s.tick n).cycle = s.cycle + n := rfl
@[simp] theorem State.atCycle_cycle (n : Nat) : (s.atCycle n).cycle = n := rfl
@[simp] theorem State.atCycle_core (n p : Nat) : (s.atCycle n).core p = s.core p := rfl
@[simp] theorem State.retire_cycle (f : Form) : (s.retire f).cycle = s.cycle + 1 := rfl
@[simp] theorem State.jump_cycle (a : Word) (n : Nat) : (s.jump a n).cycle = s.cycle + n := rfl
@[simp] theorem State.bump_serial : s.bump.serial = s.serial + 1 := rfl

@[simp] theorem State.setCore_core (p : Nat) (c : Core) : (s.setCore p c).core p = c := AMap.get_put_same ..
theorem State.setCore_core_ne {p q : Nat} (c : Core) (h : q ≠ p) : (s.setCore p c).core q = s.core q := AMap.get_put_ne _ _ h
@[simp] theorem State.modCore_core (p : Nat) (f : Core → Core) : (s.modCore p f).core p = f (s.core p) := AMap.get_put_same ..
theorem State.modCore_core_ne {p q : Nat} (f : Core → Core) (h : q ≠ p) : (s.modCore p f).core q = s.core q :=
  AMap.get_put_ne _ _ h
@[simp] theorem State.modCore_me (f : Core → Core) : (s.modCore s.cur f).me = f s.me := AMap.get_put_same ..
@[simp] theorem State.tick_core (n p : Nat) : (s.tick n).core p = s.core p := rfl
@[simp] theorem State.tick_me (n : Nat) : (s.tick n).me = s.me := rfl
@[simp] theorem State.setTile_tile (t : Nat) (x : Tile) : (s.setTile t x).tile t = x := AMap.get_put_same ..
theorem State.setTile_tile_ne {t u : Nat} (x : Tile) (h : u ≠ t) : (s.setTile t x).tile u = s.tile u := AMap.get_put_ne _ _ h
@[simp] theorem State.modTile_tile (t : Nat) (f : Tile → Tile) : (s.modTile t f).tile t = f (s.tile t) := AMap.get_put_same ..
theorem State.modTile_tile_ne {t u : Nat} (f : Tile → Tile) (h : u ≠ t) : (s.modTile t f).tile u = s.tile u :=
  AMap.get_put_ne _ _ h
@[simp] theorem State.setCtx_tctx (t c : Nat) (x : TileCtx) : (s.setCtx t c x).tctx t c = x := by
  simp [State.setCtx, State.tctx, AMap.get_put_same]
theorem State.setCtx_tctx_ne {t c d : Nat} (x : TileCtx) (h : d ≠ c) : (s.setCtx t c x).tctx t d = s.tctx t d := by
  simp [State.setCtx, State.tctx, AMap.get_put_ne _ _ h]
@[simp] theorem State.modCtx_tctx (t c : Nat) (f : TileCtx → TileCtx) : (s.modCtx t c f).tctx t c = f (s.tctx t c) := by
  simp [State.modCtx]
@[simp] theorem State.modRegion_region (r : Nat) (f : Region → Region) : (s.modRegion r f).region r = f (s.region r) :=
  AMap.get_put_same ..
theorem State.modRegion_region_ne {r q : Nat} (f : Region → Region) (h : q ≠ r) : (s.modRegion r f).region q = s.region q :=
  AMap.get_put_ne _ _ h
@[simp] theorem State.modGal_gal (g : Nat) (f : Gallery → Gallery) : (s.modGal g f).gal g = f (s.gal g) := AMap.get_put_same ..
theorem State.modGal_gal_ne {g q : Nat} (f : Gallery → Gallery) (h : q ≠ g) : (s.modGal g f).gal q = s.gal q :=
  AMap.get_put_ne _ _ h
@[simp] theorem State.setView_view (d : Nat) (v : View) : (s.setView d v).view d = v := AMap.get_put_same ..
theorem State.setView_view_ne {d e : Nat} (v : View) (h : e ≠ d) : (s.setView d v).view e = s.view e := AMap.get_put_ne _ _ h

/-! ### Registers -/

variable (c : Core)

@[simp] theorem Core.rx_zero : c.rx 0 = 0 := rfl
@[simp] theorem Core.rm_zero : c.rm 0 = BitVec.allOnes 64 := rfl
theorem Core.rx_wx_same {r : RegField} (v : Word) (h : r ≠ 0) : (c.wx r v).rx r = v := by
  rw [Core.wx, if_neg h, Core.rx, if_neg h]
  simp
theorem Core.rx_wx_ne {r q : RegField} (v : Word) (h : q ≠ r) : (c.wx r v).rx q = c.rx q := by
  have : r.toNat ≠ q.toNat := fun e => h (BitVec.eq_of_toNat_eq e.symm)
  by_cases e : r = 0
  · rw [Core.wx, if_pos e]
  · rw [Core.wx, if_neg e, Core.rx, Core.rx]
    simp [this]
@[simp] theorem Core.rv_wv (r : BitVec 5) (v : Vec) : (c.wv r v).rv r = v := by simp [Core.wv, Core.rv]
theorem Core.rv_wv_ne {r q : BitVec 5} (v : Vec) (h : q ≠ r) : (c.wv r v).rv q = c.rv q := by
  have : r.toNat ≠ q.toNat := fun e => h (BitVec.eq_of_toNat_eq e.symm)
  simp_all [Core.wv, Core.rv]
@[simp] theorem Core.rh_wh (r : BitVec 3) (v : Vec) : (c.wh r v).rh r = v := by simp [Core.wh, Core.rh]
theorem Core.rm_wm_same {r : BitVec 4} (v : Word) (h : r ≠ 0) : (c.wm r v).rm r = v := by
  rw [Core.wm, if_neg h, Core.rm, if_neg h]
  simp
theorem Core.rm_wm_ne {r q : BitVec 4} (v : Word) (h : q ≠ r) : (c.wm r v).rm q = c.rm q := by
  have : r.toNat ≠ q.toNat := fun e => h (BitVec.eq_of_toNat_eq e.symm)
  by_cases e : r = 0
  · rw [Core.wm, if_pos e]
  · rw [Core.wm, if_neg e, Core.rm, Core.rm]
    simp [this]

@[simp] theorem Core.wx_run (r : RegField) (w : Word) : (c.wx r w).run = c.run := by unfold Core.wx; split <;> rfl
@[simp] theorem Core.wx_pc (r : RegField) (w : Word) : (c.wx r w).pc = c.pc := by unfold Core.wx; split <;> rfl
@[simp] theorem Core.wx_v (r : RegField) (w : Word) : (c.wx r w).v = c.v := by unfold Core.wx; split <;> rfl
@[simp] theorem Core.wx_m (r : RegField) (w : Word) : (c.wx r w).m = c.m := by unfold Core.wx; split <;> rfl
@[simp] theorem Core.wx_h (r : RegField) (w : Word) : (c.wx r w).h = c.h := by unfold Core.wx; split <;> rfl
@[simp] theorem Core.wx_pendX (r : RegField) (w : Word) : (c.wx r w).pendX = c.pendX := by unfold Core.wx; split <;> rfl
@[simp] theorem Core.wx_pendT (r : RegField) (w : Word) : (c.wx r w).pendT = c.pendT := by unfold Core.wx; split <;> rfl
@[simp] theorem Core.wx_pendV (r : RegField) (w : Word) : (c.wx r w).pendV = c.pendV := by unfold Core.wx; split <;> rfl
@[simp] theorem Core.wx_pendM (r : RegField) (w : Word) : (c.wx r w).pendM = c.pendM := by unfold Core.wx; split <;> rfl
@[simp] theorem Core.wx_pendH (r : RegField) (w : Word) : (c.wx r w).pendH = c.pendH := by unfold Core.wx; split <;> rfl
@[simp] theorem Core.wx_firing (r : RegField) (w : Word) : (c.wx r w).firing = c.firing := by unfold Core.wx; split <;> rfl
@[simp] theorem Core.wx_trap (r : RegField) (w : Word) : (c.wx r w).trap = c.trap := by unfold Core.wx; split <;> rfl
@[simp] theorem Core.wx_ldepth (r : RegField) (w : Word) : (c.wx r w).ldepth = c.ldepth := by unfold Core.wx; split <;> rfl
@[simp] theorem Core.wx_inbox (r : RegField) (w : Word) : (c.wx r w).inbox = c.inbox := by unfold Core.wx; split <;> rfl
@[simp] theorem Core.wx_data (r : RegField) (w : Word) : (c.wx r w).data = c.data := by unfold Core.wx; split <;> rfl
@[simp] theorem Core.wx_dataPoison (r : RegField) (w : Word) : (c.wx r w).dataPoison = c.dataPoison := by unfold Core.wx; split <;> rfl
@[simp] theorem Core.wx_extents (r : RegField) (w : Word) : (c.wx r w).extents = c.extents := by unfold Core.wx; split <;> rfl
@[simp] theorem Core.wx_codeBase (r : RegField) (w : Word) : (c.wx r w).codeBase = c.codeBase := by unfold Core.wx; split <;> rfl
@[simp] theorem Core.wx_codeSize (r : RegField) (w : Word) : (c.wx r w).codeSize = c.codeSize := by unfold Core.wx; split <;> rfl
@[simp] theorem Core.wx_codeExtent (r : RegField) (w : Word) : (c.wx r w).codeExtent = c.codeExtent := by unfold Core.wx; split <;> rfl
@[simp] theorem Core.wx_image (r : RegField) (w : Word) : (c.wx r w).image = c.image := by unfold Core.wx; split <;> rfl
@[simp] theorem Core.wx_arcs (r : RegField) (w : Word) : (c.wx r w).arcs = c.arcs := by unfold Core.wx; split <;> rfl

@[simp] theorem Core.wv_run (r : BitVec 5) (w : Vec) : (c.wv r w).run = c.run := rfl
@[simp] theorem Core.wv_pc (r : BitVec 5) (w : Vec) : (c.wv r w).pc = c.pc := rfl
@[simp] theorem Core.wv_x (r : BitVec 5) (w : Vec) : (c.wv r w).x = c.x := rfl
@[simp] theorem Core.wv_m (r : BitVec 5) (w : Vec) : (c.wv r w).m = c.m := rfl
@[simp] theorem Core.wv_h (r : BitVec 5) (w : Vec) : (c.wv r w).h = c.h := rfl
@[simp] theorem Core.wv_pendX (r : BitVec 5) (w : Vec) : (c.wv r w).pendX = c.pendX := rfl
@[simp] theorem Core.wv_pendT (r : BitVec 5) (w : Vec) : (c.wv r w).pendT = c.pendT := rfl
@[simp] theorem Core.wv_pendV (r : BitVec 5) (w : Vec) : (c.wv r w).pendV = c.pendV := rfl
@[simp] theorem Core.wv_pendM (r : BitVec 5) (w : Vec) : (c.wv r w).pendM = c.pendM := rfl
@[simp] theorem Core.wv_pendH (r : BitVec 5) (w : Vec) : (c.wv r w).pendH = c.pendH := rfl
@[simp] theorem Core.wv_firing (r : BitVec 5) (w : Vec) : (c.wv r w).firing = c.firing := rfl
@[simp] theorem Core.wv_trap (r : BitVec 5) (w : Vec) : (c.wv r w).trap = c.trap := rfl
@[simp] theorem Core.wv_ldepth (r : BitVec 5) (w : Vec) : (c.wv r w).ldepth = c.ldepth := rfl
@[simp] theorem Core.wv_inbox (r : BitVec 5) (w : Vec) : (c.wv r w).inbox = c.inbox := rfl
@[simp] theorem Core.wv_data (r : BitVec 5) (w : Vec) : (c.wv r w).data = c.data := rfl
@[simp] theorem Core.wv_dataPoison (r : BitVec 5) (w : Vec) : (c.wv r w).dataPoison = c.dataPoison := rfl
@[simp] theorem Core.wv_extents (r : BitVec 5) (w : Vec) : (c.wv r w).extents = c.extents := rfl
@[simp] theorem Core.wv_codeBase (r : BitVec 5) (w : Vec) : (c.wv r w).codeBase = c.codeBase := rfl
@[simp] theorem Core.wv_codeSize (r : BitVec 5) (w : Vec) : (c.wv r w).codeSize = c.codeSize := rfl
@[simp] theorem Core.wv_codeExtent (r : BitVec 5) (w : Vec) : (c.wv r w).codeExtent = c.codeExtent := rfl
@[simp] theorem Core.wv_image (r : BitVec 5) (w : Vec) : (c.wv r w).image = c.image := rfl
@[simp] theorem Core.wv_arcs (r : BitVec 5) (w : Vec) : (c.wv r w).arcs = c.arcs := rfl

@[simp] theorem Core.wm_run (r : BitVec 4) (w : Word) : (c.wm r w).run = c.run := by unfold Core.wm; split <;> rfl
@[simp] theorem Core.wm_pc (r : BitVec 4) (w : Word) : (c.wm r w).pc = c.pc := by unfold Core.wm; split <;> rfl
@[simp] theorem Core.wm_x (r : BitVec 4) (w : Word) : (c.wm r w).x = c.x := by unfold Core.wm; split <;> rfl
@[simp] theorem Core.wm_v (r : BitVec 4) (w : Word) : (c.wm r w).v = c.v := by unfold Core.wm; split <;> rfl
@[simp] theorem Core.wm_h (r : BitVec 4) (w : Word) : (c.wm r w).h = c.h := by unfold Core.wm; split <;> rfl
@[simp] theorem Core.wm_pendX (r : BitVec 4) (w : Word) : (c.wm r w).pendX = c.pendX := by unfold Core.wm; split <;> rfl
@[simp] theorem Core.wm_pendT (r : BitVec 4) (w : Word) : (c.wm r w).pendT = c.pendT := by unfold Core.wm; split <;> rfl
@[simp] theorem Core.wm_pendV (r : BitVec 4) (w : Word) : (c.wm r w).pendV = c.pendV := by unfold Core.wm; split <;> rfl
@[simp] theorem Core.wm_pendM (r : BitVec 4) (w : Word) : (c.wm r w).pendM = c.pendM := by unfold Core.wm; split <;> rfl
@[simp] theorem Core.wm_pendH (r : BitVec 4) (w : Word) : (c.wm r w).pendH = c.pendH := by unfold Core.wm; split <;> rfl
@[simp] theorem Core.wm_firing (r : BitVec 4) (w : Word) : (c.wm r w).firing = c.firing := by unfold Core.wm; split <;> rfl
@[simp] theorem Core.wm_trap (r : BitVec 4) (w : Word) : (c.wm r w).trap = c.trap := by unfold Core.wm; split <;> rfl
@[simp] theorem Core.wm_ldepth (r : BitVec 4) (w : Word) : (c.wm r w).ldepth = c.ldepth := by unfold Core.wm; split <;> rfl
@[simp] theorem Core.wm_inbox (r : BitVec 4) (w : Word) : (c.wm r w).inbox = c.inbox := by unfold Core.wm; split <;> rfl
@[simp] theorem Core.wm_data (r : BitVec 4) (w : Word) : (c.wm r w).data = c.data := by unfold Core.wm; split <;> rfl
@[simp] theorem Core.wm_dataPoison (r : BitVec 4) (w : Word) : (c.wm r w).dataPoison = c.dataPoison := by unfold Core.wm; split <;> rfl
@[simp] theorem Core.wm_extents (r : BitVec 4) (w : Word) : (c.wm r w).extents = c.extents := by unfold Core.wm; split <;> rfl
@[simp] theorem Core.wm_codeBase (r : BitVec 4) (w : Word) : (c.wm r w).codeBase = c.codeBase := by unfold Core.wm; split <;> rfl
@[simp] theorem Core.wm_codeSize (r : BitVec 4) (w : Word) : (c.wm r w).codeSize = c.codeSize := by unfold Core.wm; split <;> rfl
@[simp] theorem Core.wm_codeExtent (r : BitVec 4) (w : Word) : (c.wm r w).codeExtent = c.codeExtent := by unfold Core.wm; split <;> rfl
@[simp] theorem Core.wm_image (r : BitVec 4) (w : Word) : (c.wm r w).image = c.image := by unfold Core.wm; split <;> rfl
@[simp] theorem Core.wm_arcs (r : BitVec 4) (w : Word) : (c.wm r w).arcs = c.arcs := by unfold Core.wm; split <;> rfl

@[simp] theorem Core.wh_run (r : BitVec 3) (w : Vec) : (c.wh r w).run = c.run := rfl
@[simp] theorem Core.wh_pc (r : BitVec 3) (w : Vec) : (c.wh r w).pc = c.pc := rfl
@[simp] theorem Core.wh_x (r : BitVec 3) (w : Vec) : (c.wh r w).x = c.x := rfl
@[simp] theorem Core.wh_v (r : BitVec 3) (w : Vec) : (c.wh r w).v = c.v := rfl
@[simp] theorem Core.wh_m (r : BitVec 3) (w : Vec) : (c.wh r w).m = c.m := rfl
@[simp] theorem Core.wh_pendX (r : BitVec 3) (w : Vec) : (c.wh r w).pendX = c.pendX := rfl
@[simp] theorem Core.wh_pendT (r : BitVec 3) (w : Vec) : (c.wh r w).pendT = c.pendT := rfl
@[simp] theorem Core.wh_pendV (r : BitVec 3) (w : Vec) : (c.wh r w).pendV = c.pendV := rfl
@[simp] theorem Core.wh_pendM (r : BitVec 3) (w : Vec) : (c.wh r w).pendM = c.pendM := rfl
@[simp] theorem Core.wh_pendH (r : BitVec 3) (w : Vec) : (c.wh r w).pendH = c.pendH := rfl
@[simp] theorem Core.wh_firing (r : BitVec 3) (w : Vec) : (c.wh r w).firing = c.firing := rfl
@[simp] theorem Core.wh_trap (r : BitVec 3) (w : Vec) : (c.wh r w).trap = c.trap := rfl
@[simp] theorem Core.wh_ldepth (r : BitVec 3) (w : Vec) : (c.wh r w).ldepth = c.ldepth := rfl
@[simp] theorem Core.wh_inbox (r : BitVec 3) (w : Vec) : (c.wh r w).inbox = c.inbox := rfl
@[simp] theorem Core.wh_data (r : BitVec 3) (w : Vec) : (c.wh r w).data = c.data := rfl
@[simp] theorem Core.wh_dataPoison (r : BitVec 3) (w : Vec) : (c.wh r w).dataPoison = c.dataPoison := rfl
@[simp] theorem Core.wh_extents (r : BitVec 3) (w : Vec) : (c.wh r w).extents = c.extents := rfl
@[simp] theorem Core.wh_codeBase (r : BitVec 3) (w : Vec) : (c.wh r w).codeBase = c.codeBase := rfl
@[simp] theorem Core.wh_codeSize (r : BitVec 3) (w : Vec) : (c.wh r w).codeSize = c.codeSize := rfl
@[simp] theorem Core.wh_codeExtent (r : BitVec 3) (w : Vec) : (c.wh r w).codeExtent = c.codeExtent := rfl
@[simp] theorem Core.wh_image (r : BitVec 3) (w : Vec) : (c.wh r w).image = c.image := rfl
@[simp] theorem Core.wh_arcs (r : BitVec 3) (w : Vec) : (c.wh r w).arcs = c.arcs := rfl

end Sys2Proof.Machine
end

