-- ==== Sys2Proof/Laws/Issue.lean ====
section
/-! SUPPORT. What the issue of an instruction can do, and what the shared ways to end one can do. -/

namespace Sys2Proof.Machine

/-- Where nothing stands against an instruction, its own action runs on its operands. -/
theorem issue_ready {u : Use} {s : State} (h : u.issues s) (k : Regs → State → Out) :
    issue u s k = k (u.value s) (u.after s) := by
  obtain ⟨hl, hb, hc, hq, hw, hp, hf⟩ := h
  unfold Use.pops at hp
  unfold Use.after Use.pops at hf
  unfold issue Use.value Use.after Use.pops
  simp [hl, hb, hc, hq, hw, hp, hf]

/-- An instruction that its engine may not execute raises the engine-illegal fault. -/
theorem issue_illegal {u : Use} {s : State} (h : s.legalOn u = false) (k : Regs → State → Out) :
    issue u s k = s.raise excEngine := by
  unfold issue
  simp [h]

/-- An instruction with an operand fault raises it. -/
theorem issue_bad {u : Use} {s : State} {e : Exc} (h : s.legalOn u = true) (hb : u.bad = some e) (k : Regs → State → Out) :
    issue u s k = s.raise e := by
  unfold issue
  simp [h, hb]

/-- An instruction that the scoreboard holds lets a cycle pass. -/
theorem issue_held {u : Use} {s : State} (hl : s.legalOn u = true) (hb : u.bad = Option.none) (hc : u.clash = false)
    (hq : s.queueMisuse u = false) (hw : s.waits u = true) (k : Regs → State → Out) : issue u s k = s.stall := by
  unfold issue
  simp [hl, hb, hc, hq, hw]

/-- All that the issue of an instruction can come to: a fault before any pop, a cycle of waiting, a fault after the pops, or
its own action. -/
theorem issue_cases (u : Use) (s : State) (k : Regs → State → Out) :
    (∃ e, issue u s k = s.raise e) ∨ issue u s k = s.stall ∨ (∃ e, issue u s k = (u.after s).raise e) ∨
      issue u s k = k (u.value s) (u.after s) := by
  unfold issue Use.value Use.after Use.pops
  split
  · exact .inl ⟨_, rfl⟩
  · split
    · exact .inl ⟨_, rfl⟩
    · split
      · exact .inl ⟨_, rfl⟩
      · split
        · exact .inr (.inl rfl)
        · simp only
          split
          · exact .inr (.inr (.inl ⟨_, rfl⟩))
          · split
            · exact .inr (.inr (.inl ⟨_, rfl⟩))
            · exact .inr (.inr (.inr rfl))

/-- An exception always answers a next state. -/
theorem raise_next (s : State) (e : Exc) : ∃ t, s.raise e = .next t := by
  unfold State.raise
  split <;> exact ⟨_, rfl⟩

/-- Waiting always answers a next state. -/
theorem stall_next (s : State) : ∃ t, s.stall = .next t := ⟨_, rfl⟩

/-- If the instruction's own action always answers a next state, so does its issue. -/
theorem issue_next {u : Use} {s : State} {k : Regs → State → Out} (hk : ∀ rd s1, ∃ t, k rd s1 = .next t) :
    ∃ t, issue u s k = .next t := by
  rcases issue_cases u s k with ⟨e, h⟩ | h | ⟨e, h⟩ | h
  · exact h ▸ raise_next s e
  · exact h ▸ stall_next s
  · exact h ▸ raise_next _ e
  · exact h ▸ hk _ _

/-- A scalar result on an ordinary register is a write of that register. -/
theorem putX_ordinary (s : State) {r : RegField} (v : Word) (h : isQueue s.cur r = false) : s.putX r v = s.writeX r v := by
  simp [State.putX, h]

/-- Writing a scalar result and retiring: the core's next pc and its register, and nothing else of the core. -/
theorem putX_retire_core (s : State) {r : RegField} (v : Word) (f : Form) (h : isQueue s.cur r = false) :
    ((s.putX r v).retire f).core s.cur = { s.me.wx r v with pc := s.me.nextPc f } := by
  rw [putX_ordinary s v h, State.retire, State.tick_core, State.writeX_cur, State.modCore_core, State.writeX]
  show _ = _
  rw [State.modCore_core]
  simp [Core.nextPc, State.me]

/-- Changing one core leaves everything else. -/
theorem modCore_onlyCore (s : State) (p : Nat) (f : Core → Core) : State.onlyCore s (s.modCore p f) p :=
  ⟨rfl, fun _ h => State.modCore_core_ne s f h⟩

theorem State.onlyCore.trans {s t w : State} {p : Nat} (a : State.onlyCore s t p) (b : State.onlyCore t w p) :
    State.onlyCore s w p := by
  refine ⟨?_, fun q h => (b.2 q h).trans (a.2 q h)⟩
  rw [b.1, a.1]

theorem tick_onlyCore (s : State) (n p : Nat) : State.onlyCore s (s.tick n) p := ⟨rfl, fun _ _ => rfl⟩

theorem retire_onlyCore (s : State) (f : Form) : State.onlyCore s (s.retire f) s.cur :=
  (modCore_onlyCore s s.cur _).trans (tick_onlyCore _ 1 _)

end Sys2Proof.Machine
end

