-- ==== Sys2Proof/Laws/Memory.lean ====
section
/-! SUPPORT. The laws of byte memory: a read after a write, and that every operation keeps the one canonical form. -/

namespace Sys2Proof.Machine

/-! ### The canonical form -/

theorem Memory.wfFrom_cons {lo k : Nat} {v : Byte} {rest : Memory} :
    Memory.wfFrom lo ((k, v) :: rest) = true ↔ lo ≤ k ∧ v ≠ unlistedByte ∧ Memory.wfFrom (k + 1) rest = true := by
  simp [Memory.wfFrom, and_assoc]

theorem Memory.wfFrom_mono {lo lo' : Nat} {m : Memory} (h : Memory.wfFrom lo m = true) (le : lo' ≤ lo) :
    Memory.wfFrom lo' m = true := by
  cases m with
  | nil => rfl
  | cons p rest =>
    obtain ⟨k, v⟩ := p
    rw [Memory.wfFrom_cons] at h ⊢
    exact ⟨by omega, h.2⟩

@[simp] theorem Memory.wf_nil : Memory.wf [] = true := rfl

theorem Memory.insert_wfFrom {lo a : Nat} {b : Byte} {m : Memory} (h : Memory.wfFrom lo m = true) (la : lo ≤ a)
    (hb : b ≠ unlistedByte) : Memory.wfFrom lo (Memory.insert m a b) = true := by
  induction m generalizing lo with
  | nil => simp [Memory.insert, Memory.wfFrom, la, hb]
  | cons p rest ih =>
    obtain ⟨k, v⟩ := p
    rw [Memory.wfFrom_cons] at h
    unfold Memory.insert
    split
    · rename_i lt
      rw [Memory.wfFrom_cons, Memory.wfFrom_cons]
      exact ⟨la, hb, by omega, h.2⟩
    · split
      · rename_i e
        subst e
        rw [Memory.wfFrom_cons]
        exact ⟨la, hb, h.2.2⟩
      · rw [Memory.wfFrom_cons]
        exact ⟨h.1, h.2.1, ih h.2.2 (by omega)⟩

theorem Memory.remove_wfFrom {lo a : Nat} {m : Memory} (h : Memory.wfFrom lo m = true) :
    Memory.wfFrom lo (Memory.remove m a) = true := by
  induction m generalizing lo with
  | nil => rfl
  | cons p rest ih =>
    obtain ⟨k, v⟩ := p
    unfold Memory.remove
    rw [Memory.wfFrom_cons] at h
    split
    · rw [Memory.wfFrom_cons]
      exact h
    · split
      · exact Memory.wfFrom_mono h.2.2 (by omega)
      · rw [Memory.wfFrom_cons]
        exact ⟨h.1, h.2.1, ih h.2.2⟩

theorem Memory.write_wf {m : Memory} (h : Memory.wf m = true) (a : Nat) (b : Byte) : Memory.wf (Memory.write m a b) = true := by
  unfold Memory.write
  split
  · exact Memory.remove_wfFrom h
  · exact Memory.insert_wfFrom h (Nat.zero_le _) ‹_›

theorem Memory.writeN_wf (n : Nat) {m : Memory} (h : Memory.wf m = true) (a v : Nat) :
    Memory.wf (Memory.writeN m a n v) = true := by
  induction n generalizing m a v with
  | zero => exact h
  | succ n ih => exact ih (Memory.write_wf h _ _) _ _

theorem Memory.writeBytes_wf (bs : List Byte) {m : Memory} (h : Memory.wf m = true) (a : Nat) :
    Memory.wf (Memory.writeBytes m a bs) = true := by
  induction bs generalizing m a with
  | nil => exact h
  | cons b bs ih => exact ih (Memory.write_wf h _ _) _

theorem Memory.filter_wfFrom (f : Host.Cell → Bool) {lo : Nat} {m : Memory} (h : Memory.wfFrom lo m = true) :
    Memory.wfFrom lo (m.filter f) = true := by
  induction m generalizing lo with
  | nil => rfl
  | cons p rest ih =>
    obtain ⟨k, v⟩ := p
    rw [Memory.wfFrom_cons] at h
    rw [List.filter_cons]
    split
    · rw [Memory.wfFrom_cons]
      exact ⟨h.1, h.2.1, ih h.2.2⟩
    · exact ih (Memory.wfFrom_mono h.2.2 (by omega))

theorem Memory.clear_wf {m : Memory} (h : Memory.wf m = true) (a n : Nat) : Memory.wf (Memory.clear m a n) = true :=
  Memory.filter_wfFrom _ h

/-! ### Reads -/

/-- Below its first address a canonical memory reads as unlisted. -/
theorem Memory.read_below {lo a : Nat} {m : Memory} (h : Memory.wfFrom lo m = true) (la : a < lo) :
    Memory.read m a = unlistedByte := by
  induction m generalizing lo with
  | nil => rfl
  | cons p rest ih =>
    obtain ⟨k, v⟩ := p
    rw [Memory.wfFrom_cons] at h
    have : ¬ k = a := by omega
    simp only [Memory.read, this, if_false]
    exact ih h.2.2 (by omega)

theorem Memory.read_insert (m : Memory) (a q : Nat) (b : Byte) :
    Memory.read (Memory.insert m a b) q = if q = a then b else Memory.read m q := by
  induction m with
  | nil => simp [Memory.insert, Memory.read, eq_comm]
  | cons p rest ih =>
    obtain ⟨k, v⟩ := p
    unfold Memory.insert
    by_cases e : q = a
    · subst e
      split
      · simp [Memory.read]
      · split
        · simp [Memory.read]
        · have : ¬ k = q := fun x => by omega
          simp [Memory.read, this, ih]
    · have e' : ¬ a = q := fun x => e x.symm
      split
      · simp [Memory.read, e']
      · split
        · rename_i _ x
          subst x
          simp [Memory.read, e']
        · by_cases e2 : k = q <;> simp [Memory.read, e, e2, ih]

theorem Memory.read_remove {lo : Nat} {m : Memory} (h : Memory.wfFrom lo m = true) (a q : Nat) :
    Memory.read (Memory.remove m a) q = if q = a then unlistedByte else Memory.read m q := by
  induction m generalizing lo with
  | nil => simp [Memory.remove, Memory.read]
  | cons p rest ih =>
    obtain ⟨k, v⟩ := p
    have hw := h
    rw [Memory.wfFrom_cons] at h
    unfold Memory.remove
    by_cases e : q = a
    · subst e
      split
      · have hw' : Memory.wfFrom k ((k, v) :: rest) = true := by
          rw [Memory.wfFrom_cons]
          exact ⟨Nat.le_refl _, h.2⟩
        simp [Memory.read_below hw' ‹_›]
      · split
        · rename_i _ x
          subst x
          simp [Memory.read_below h.2.2 (Nat.lt_succ_self _)]
        · have : ¬ k = q := fun x => by omega
          simp [Memory.read, this, ih h.2.2]
    · split
      · simp
      · split
        · rename_i _ x
          subst x
          have : ¬ a = q := fun x => e x.symm
          simp [Memory.read, this]
        · by_cases e2 : k = q <;> simp [Memory.read, e, e2, ih h.2.2]

/-- A read after a write to a canonical memory: the byte written, and every other byte as before. -/
theorem Memory.read_write {m : Memory} (h : Memory.wf m = true) (a q : Nat) (b : Byte) :
    Memory.read (Memory.write m a b) q = if q = a then b else Memory.read m q := by
  unfold Memory.write
  split
  · rename_i e
    rw [Memory.read_remove h, e]
  · exact Memory.read_insert m a q b

theorem Memory.read_writeN (n : Nat) {m : Memory} (h : Memory.wf m = true) (a v q : Nat) :
    Memory.read (Memory.writeN m a n v) q =
      if a ≤ q ∧ q < a + n then BitVec.ofNat 8 (v / 256 ^ (q - a)) else Memory.read m q := by
  induction n generalizing m a v with
  | zero =>
    have : ¬ (a ≤ q ∧ q < a + 0) := by omega
    rw [if_neg this, Memory.writeN]
  | succ n ih =>
    unfold Memory.writeN
    rw [ih (Memory.write_wf h _ _), Memory.read_write h]
    by_cases e : q = a
    · subst e
      have h1 : ¬ (q + 1 ≤ q ∧ q < q + 1 + n) := by omega
      have h2 : q ≤ q ∧ q < q + (n + 1) := by omega
      rw [if_neg h1, if_pos rfl, if_pos h2, Nat.sub_self, Nat.pow_zero, Nat.div_one]
    · by_cases e2 : a + 1 ≤ q ∧ q < a + 1 + n
      · have h2 : a ≤ q ∧ q < a + (n + 1) := by omega
        have h3 : q - a = (q - (a + 1)) + 1 := by omega
        rw [if_pos e2, if_pos h2, h3, Nat.pow_succ, Nat.div_div_eq_div_mul, Nat.mul_comm (256 ^ _) 256]
      · have h2 : ¬ (a ≤ q ∧ q < a + (n + 1)) := by omega
        rw [if_neg e2, if_neg e, if_neg h2]

end Sys2Proof.Machine
end

