-- ==== Sys2Proof/Tests/Slice0.lean ====
section
/-! SUPPORT. Tests: words written out from the spec's encoding, ill-formed instructions, one step of small states, and a
state and operands that meet the hypotheses of each statement. -/

open Sys2Proof Sys2Proof.Machine

namespace Sys2Proof.Tests

set_option Elab.async false

/-! ### Decoding, from the words of R86, R101 and R102 -/

/-- The 64-bit word of an opcode and a function with D 1, A 2, B 3, C 4, MOD 5, T 6 and an immediate (R86). -/
def word (op fn imm : Nat) : Nat :=
  1 + op <<< 2 + 1 <<< 9 + 2 <<< 15 + 3 <<< 21 + fn <<< 27 + 4 <<< 32 + 5 <<< 38 + 6 <<< 42 + imm <<< 48

/-- Its operands. -/
def fields (imm : Nat) : Operands :=
  { form := .w64, d := 1, a := 2, b := 3, c := 4, md := 5, t := 6, imm := BitVec.ofNat 16 imm, lit := 0 }

/-- The functions of a family, numbered from 0, decode to the given instructions. -/
noncomputable def decodes (op imm : Nat) (is : List (Operands → Instr)) : Bool :=
  is.zipIdx.all (fun r => decide (decodeTableWord 64 (word op r.2 imm) = some (r.1 (fields imm)))) &&
    decide (decodeTableWord 64 (word op is.length imm) = none)

/-- The same of the 32-bit form, whose word has no second parcel. -/
noncomputable def decodesShort (op : Nat) (is : List (Operands → Instr)) : Bool :=
  is.zipIdx.all (fun r => decide (decodeTableWord 32 (word op r.2 0 / 4 * 4 % 2 ^ 32) =
    some (r.1 { fields 0 with form := .w32, c := 0, md := 0, t := 0 })))

theorem test_decode_ialu : decodes 0x00 0xFFFF [.add, .sub, .and, .or, .xor, .andn, .shl, .shr, .sha, .rot, .min, .max, .minz,
    .maxz, .slt, .sltz, .seq, .sne] = true := by decide +kernel
theorem test_decode_ialuw : decodes 0x01 8 [.addW, .subW, .andW, .orW, .xorW, .andnW, .shlW, .shrW, .shaW, .rotW, .minW,
    .maxW, .minzW, .maxzW, .sltW, .sltzW, .seqW, .sneW] = true := by decide +kernel
theorem test_decode_imul : decodes 0x02 8 [.mul, .mulh, .mulhz, .div, .divz, .rem, .remz] = true := by decide +kernel
theorem test_decode_ibit : decodes 0x03 8 [.clz, .ctz, .pop, .brev, .bswap, .ext, .dep] = true := by decide +kernel
theorem test_decode_imov : decodes 0x04 8 [.mov, .li, .sel, .selz] = true := by decide +kernel
theorem test_decode_falu : decodes 0x10 0 [.fadd, .fsub, .fmul, .fma, .fms, .fdiv, .fsqrt, .fmin, .fmax, .fabs, .fneg] = true := by
  decide +kernel
theorem test_decode_fcmp : decodes 0x11 0 [.feq, .flt, .fle, .funord, .fclass] = true := by decide +kernel
theorem test_decode_fcvt : decodes 0x12 0 [.cvt, .frnd] = true := by decide +kernel
theorem test_decode_branches : decodes 0x18 8 [.beq, .bne, .blt, .bge, .bltz, .bgez] = true := by decide +kernel
theorem test_decode_jumps : decodes 0x19 8 [.jmp, .jal, .jr] = true := by decide +kernel
theorem test_decode_loop : decodes 0x1A 8 [.loop] = true := by decide +kernel
theorem test_decode_wait : decodes 0x1B 8 [.waitt, .waitq] = true := by decide +kernel
theorem test_decode_end : decodes 0x1C 8 [.endFiring, .halt] = true := by decide +kernel
theorem test_decode_ld : decodes 0x20 8 [.ldB, .ldH, .ldW, .ldD, .ldBz, .ldHz, .ldWz, .ldRob, .ldRoh, .ldRow, .ldRod] = true := by
  decide +kernel
theorem test_decode_st : decodes 0x21 8 [.stB, .stH, .stW, .stD] = true := by decide +kernel
theorem test_decode_loc : decodes 0x22 8 [.ldlB, .ldlH, .ldlW, .ldlD, .stlB, .stlH, .stlW, .stlD] = true := by decide +kernel
theorem test_decode_amo : decodes 0x23 8 [.amoadd, .amofadd, .amomin, .amomax, .amominz, .amomaxz, .amoand, .amoor, .amoxor,
    .amoswp, .amocas, .amoinc] = true := by decide +kernel
theorem test_decode_ord : decodes 0x24 0 [.fence, .invro, .pref, .waitv] = true := by decide +kernel
theorem test_decode_cpy : decodes 0x28 0 [.cpy, .cpys, .cpyf, .cpyqPush] = true := by decide +kernel
theorem test_decode_cpyq_pop : decodeTableWord 64 (word 0x28 3 4) = some (.cpyqPop (fields 4)) := by decide +kernel
theorem test_decode_emit : decodes 0x29 0 [.emit, .emitp, .peek, .tagrd, .tagmk] = true := by decide +kernel
theorem test_decode_valu : decodes 0x30 0 [.vadd, .vsub, .vmul, .vfma, .vfms, .vmin, .vmax, .vabs, .vneg, .vand, .vor, .vxor,
    .vshl, .vshr, .vsha] = true := by decide +kernel
theorem test_decode_vcmp : decodes 0x31 0 [.veq, .vlt, .vle, .vun] = true := by decide +kernel
theorem test_decode_vcvt : decodes 0x32 0 [.vcvt, .vrnd, .vscl, .vexp] = true := by decide +kernel
theorem test_decode_vmov : decodes 0x33 0 [.vmov, .vbc, .vsel, .vperm, .vslide, .viota, .vins, .vxtr] = true := by decide +kernel
theorem test_decode_vred : decodes 0x34 0 [.vrsum, .vrmax, .vrmin] = true := by decide +kernel
theorem test_decode_vmem : decodes 0x35 0 [.vldl, .vstl, .vldg, .vsts, .vld, .vst, .vqrd, .vowr] = true := by decide +kernel
theorem test_decode_vsfu : decodes 0x36 0 [.vexp2f, .vlog2f, .vrcp, .vrsq] = true := by decide +kernel
theorem test_decode_cord : decodes 0x37 8 [.cordSin, .cordCos, .cordAtn, .cordHyp] = true := by decide +kernel
theorem test_decode_msk : decodesShort 0x50 [.mand, .mor, .mxor, .mandn, .mnot, .mpop, .mfst, .mmov, .mset] = true := by
  decide +kernel
theorem test_decode_shp : decodes 0x52 0 [.shld, .shst, .shbq] = true := by decide +kernel
theorem test_decode_strm : decodes 0x53 0 [.smap, .sred, .scvt, .scpy] = true := by decide +kernel
theorem test_decode_mx : [(0, Instr.mxcfg), (1, .mxzero), (2, .mxmul), (3, .mxdrnMemory), (4, .mxmsk), (5, .mxmpb)].all
    (fun r => decide (decodeTableWord 64 (word 0x5C r.1 0) = some (r.2 (fields 0)))) = true := by decide +kernel
theorem test_decode_mxwait : decodesShort 0x5C [.mxcfg, .mxzero, .mxmul] = true ∧
    decodeTableWord 32 (0x5C <<< 2 + 6 <<< 27) =
      some (.mxwait { form := .w32, d := 0, a := 0, b := 0, c := 0, md := 0, t := 0, imm := 0, lit := 0 }) := by decide +kernel
theorem test_decode_mxdrn : decodeTableWord 64 (word 0x5C 3 1) = some (.mxdrnQueue (fields 1)) ∧
    decodeTableWord 64 (word 0x5C 3 2) = some (.mxdrnRegisters (fields 2)) := by decide +kernel
theorem test_decode_qs : decodes 0x64 0 [.qscfg, .qsstep, .qsrun, .qsrd, .qssav, .qsrst, .qsmskAnd] = true := by decide +kernel
theorem test_decode_qsmsk : decodeTableWord 64 (word 0x64 6 1) = some (.qsmskCandidates (fields 1)) ∧
    decodeTableWord 64 (word 0x64 6 2) = some (.qsmskBeyond (fields 2)) := by decide +kernel
theorem test_decode_sill : decodes 0x65 0 [.samp, .acpt, .cmit, .seedFresh] = true := by decide +kernel
theorem test_decode_seed : decodeTableWord 64 (word 0x65 3 1) = some (.seedExplicit (fields 1)) ∧
    decodeTableWord 64 (word 0x65 3 2) = some (.seedReplay (fields 2)) ∧
    decodeTableWord 64 (word 0x65 3 3) = some (.seedClear (fields 3)) := by decide +kernel
theorem test_decode_cfg : decodes 0x6C 0 [.cfgldLoad, .cfgsw, .cfgck, .cfged] = true := by decide +kernel
theorem test_decode_port : decodes 0x6D 0 [.bind, .unbind, .portwGatcnt] = true := by decide +kernel
theorem test_decode_portw : decodeTableWord 64 (word 0x6D 2 6) = some (.portwCompletions (fields 6)) ∧
    decodeTableWord 64 (word 0x6D 2 7) = some (.portwDiscards (fields 7)) ∧
    decodeTableWord 64 (word 0x6D 2 8) = some (.portwReply (fields 8)) := by decide +kernel
theorem test_decode_inst : decodes 0x6E 0 [.arm, .inj, .awaitCompletion, .barr] = true := by decide +kernel
theorem test_decode_await : decodeTableWord 64 (word 0x6E 2 1) = some (.awaitInbox (fields 1)) ∧
    decodeTableWord 64 (word 0x6E 2 2) = some (.awaitEither (fields 2)) := by decide +kernel
theorem test_decode_col : decodes 0x6F 0 [.copen, .cclose, .cquota, .ckill] = true := by decide +kernel
theorem test_decode_lease : decodes 0x70 0 [.lease, .unlease] = true := by decide +kernel
theorem test_decode_launch : decodes 0x71 0 [.lnchW, .lnchN] = true := by decide +kernel
theorem test_decode_quant : decodes 0x72 0 [.qset, .qyld] = true := by decide +kernel
theorem test_decode_place : decodes 0x73 0 [.tcrd, .swpol, .swpenDisable, .swpx, .swplg] = true := by decide +kernel
theorem test_decode_swpen : decodeTableWord 64 (word 0x73 2 1) = some (.swpenEnable (fields 1)) := by decide +kernel
theorem test_decode_sys : decodes 0x78 2 [.trap, .brk, .syscSlotEvent, .eret, .idle] = true := by decide +kernel
theorem test_decode_sysc : decodeTableWord 64 (word 0x78 2 1) = some (.syscImageExtent (fields 1)) ∧
    decodeTableWord 64 (word 0x78 2 3) = some (.syscTimestamp (fields 3)) := by decide +kernel
theorem test_decode_sreg : decodes 0x79 0x101 [.rdsr, .wrsr] = true := by decide +kernel
theorem test_decode_sec : decodes 0x7A 0 [.keyld, .keyz, .ifstLock, .ifrpt] = true := by decide +kernel

/-- The hint parcel of R103, and a word of the hint region. -/
theorem test_decode_hints : (decodeTableWord 32 3).isSome = true ∧ (decodeTableWord 32 3).map Instr.wf = some true ∧
    (decodeTableWord 64 (word 0x7C 0 0)).isSome = true := by decide +kernel

/-- The four encodings that the spec works out after R104. -/
theorem test_decode_worked :
    decodeTableWord 32 0x00A20600 =
      some (.add { form := .w32, d := 3, a := 4, b := 5, c := 0, md := 0, t := 0, imm := 0, lit := 0 }) ∧
    decodeTableWord 96 (0x00020602 + 0x00012345 <<< 64) =
      some (.add { form := .w96, d := 3, a := 4, b := 0, c := 0, md := 0, t := 0, imm := 0, lit := 0x12345 }) ∧
    decodeTableWord 64 (0x10010E81 + 0x00102989 <<< 32) =
      some (.ldW { form := .w64, d := 7, a := 2, b := 0, c := 9, md := 6, t := 10, imm := 16, lit := 0 }) ∧
    decodeTableWord 64 (0x186102C1 + 0x00E10000 <<< 32) =
      some (.vfma { form := .w64, d := 1, a := 2, b := 3, c := 0, md := 0, t := 0, imm := 0x00E1, lit := 0 }) := by decide +kernel

/-! ### Ill-formed instructions, one for each check -/

/-- A field that the length does not hold. -/
theorem test_ill_canonical : (Instr.add { fields 0 with form := .w32 }).wf = false := by decide
/-- A length that the instruction does not accept: a branch of 32 bits (R169). -/
theorem test_ill_form : (Instr.beq { fields 0 with form := .w32, c := 0, md := 0, t := 0 }).wf = false := by decide
/-- A form that its field does not name: a CPYQ that pops with the push bit. -/
theorem test_ill_named : (Instr.cpyqPop (fields 0)).wf = false := by decide
/-- An event is no instruction. -/
theorem test_ill_event : Instr.unknownMessage.wf = false := by decide
/-- A hint whose parcels hold more than its length. -/
theorem test_ill_hint : ∀ h : HintOperands, h.rest = { fields 1 with form := .w32 } → (Instr.hintRegion h).wf = false := by
  intro h e; simp [Instr.wf, e, Operands.canonical, fields]
/-- The words that decode to nothing: an unassigned opcode, an unassigned function, a branch of 32 bits. -/
theorem test_ill_words : decodeTableWord 32 (0x05 <<< 2) = none ∧ decodeTableWord 32 (18 <<< 27) = none ∧
    decodeTableWord 32 (0x18 <<< 2) = none := by decide +kernel
/-- Encoding gives the bytes of R86, least significant first (R4). -/
theorem test_encode : encodeBytes (.add { form := .w32, d := 3, a := 4, b := 5, c := 0, md := 0, t := 0, imm := 0, lit := 0 }) =
    [0x00, 0x06, 0xA2, 0x00] := by decide +kernel

/-! ### States and operands that meet the hypotheses of the statements -/

/-- D 1, A 2, B 3 and an immediate, in the 64-bit form. -/
def ops (imm : BitVec 16) : Operands := { form := .w64, d := 1, a := 2, b := 3, c := 0, md := 0, t := 0, imm := imm, lit := 0 }
/-- The same with a done register. -/
def opsDone (imm : BitVec 16) : Operands := { ops imm with t := 6 }
/-- A page that may be read and written. -/
def page : Extent := { Extent.none with vbase := 0x1000, size := 0x1000, pbase := 0x200000000, rd := true, wr := true, valid := true }
/-- Registers: x2 the address 0x1040, x3 the number 64, x4 a selector of region 1. -/
def regs : Vector Word 64 := ((Vector.replicate 64 0).set 2 0x1040).set 3 64
/-- A record of one dimension of n FP32 elements in device space, at 0x1040 (R205). -/
def record (n : Nat) : Vec := BitVec.ofNat 512 (0x1040 + 1 <<< 72 + 1 <<< 80 + n <<< 128)
/-- Of one element. -/
def record1 : Vec := record 1
/-- A slot that runs at 0x1000. -/
def slotCore : Core := { Core.reset with
  run := .running
  pc := 0x1000
  x := regs
  h := ((Vector.replicate 8 0).set 1 record1).set 2 record1
  extents := [(0, page)]
  trap := { TrapRegs.reset with tvec := 0x2003, tvecSet := true } }
/-- Gallery 0's slot 0 runs. -/
def gal0 : State := { State.reset with cores := [(0, slotCore)] }
/-- Root slot 0 runs. -/
def root0 : State := { State.reset with cores := [(128, slotCore)], cur := 128 }
/-- A token of colour 1. -/
def tok1 : Token := { tag := mkTag 1 0 0, ctl := 0, wide := false, payload := 5, clock := [] }
/-- It waits in a buffer. -/
def held1 : Held := { tok := tok1, seq := 0, cycle := 0, reserved := none, src := none }
/-- Queues 0, 1 and 2 are narrow, wide and of predicates, edges 0, 1 and 2 too; two banks of registers and a bank. -/
def ctx0 : TileCtx := { TileCtx.empty with
  state := .active
  tagw := [12, 8]
  edges := [(0, 8 <<< 17), (1, 1 <<< 29 + 16 <<< 17), (2, 1 <<< 30 + 8 <<< 17)]
  qWords := [(0, 8 <<< 17), (1, 1 <<< 29 + 16 <<< 17), (2, 1 <<< 30 + 8 <<< 17)]
  binds := [(0, { entry := 0, qRates := List.replicate 8 0, oRates := List.replicate 8 9 })]
  buffers := [(256, [held1]), (257, [{ held1 with tok := { tok1 with wide := true } }])]
  blockSize := 0x100000
  lsize := 0x1000
  areas := [(1, 0x1000)] }
/-- A tile whose context 0 is `ctx0`. -/
def tile0 : Tile := { Tile.reset with ctxs := [(0, ctx0)] }
/-- An admitted instance of colour 1. -/
def inst1 : Inst := ⟨1, 0, mkTag 1 0 0, 0, [(0, page)], [], [], 0, none, none, none, [], []⟩
/-- A region that is active in context 0. -/
def region0 : Region := { Region.unloaded with
  state := .active
  image := { RegionImage.none with w := 1, h := 1, tagw := [12, 8] }
  colours := [(1, { Colour.closed with state := 1 })]
  insts := [inst1] }
/-- A firing of colour 1. -/
def firingCore1 : Core := { slotCore with firing := { Firing.none with colour := 1, tag := mkTag 1 0 0 }, extents := [] }
/-- Tile 0's slot 0 runs a firing. -/
def act0 : State := { State.reset with cores := [(256, firingCore1)], cur := 256, tiles := [(0, tile0)], regions := [(0, region0)] }

theorem witness_StepRunsTheDecodedInstruction : (gal0.withFetchWord 32 0x00A20600).sched = [] ∧
    (gal0.withFetchWord 32 0x00A20600).me.run = .running ∧ gal0.barred gal0.cur = false ∧ gal0.fresh = [] ∧ gal0.due = [] ∧
    gal0.flights = [] ∧ (gal0.withFetchWord 32 0x00A20600).atLimit = none ∧ gal0.pick gal0.cur = gal0.cur ∧
    (gal0.withFetchWord 32 0x00A20600).fetch.toOption.isSome = true := by decide +kernel
theorem witness_UndecodableBytesFault_bytes : (gal0.withFetchWord 32 (0x05 <<< 2)).me.run = .running ∧
    ((gal0.withFetchWord 32 (0x05 <<< 2)).fetch.toOption.map (fun b => (decode b).toOption.isNone)) = some true := by decide +kernel
theorem witness_UndecodableBytesFault_address : gal0.sched = [] ∧ gal0.me.run = .running ∧ (match gal0.fetch with | .error a => a | .ok _ => 0) = 0x1000 := by
  decide +kernel
theorem witness_OrdinaryRegistersIssue : gal0.legalOn (Claims.use2 (ops 0)) = true ∧
    (∀ r ∈ [(1 : RegField), 2, 0], isQueue gal0.cur r = false ∧ gal0.me.pendingX r = false) ∧ gal0.me.pendV = 0 ∧
    gal0.me.pendM = 0 ∧ gal0.me.pendH = 0 ∧ gal0.me.arcs = [] := by decide +kernel
theorem witness_QueueSourcePopsOnce : isQueue act0.cur 56 = true ∧ act0.queueView act0.cur (queueOf 56) = [held1] := by
  decide +kernel
/-- An instruction may run on its engine, its fields are in order, and it waits. -/
def held (s : State) (u : Use) : Bool :=
  s.legalOn u && u.bad.isNone && !u.clash && !s.queueMisuse u && s.waits u
/-- ADD and DEP are among the instructions that may wait. -/
theorem witness_HeldInstructionsWait_rows (o : Operands) (s : State) : (Instr.add o, Claims.use2 o) ∈ Claims.instrUses o s ∧
    (Instr.dep o, Claims.use3 o) ∈ Claims.instrUses o s := by
  simp [Claims.instrUses, Claims.scalarUses, Claims.withUse, Claims.integerRows]
/-- A pending source, destination and token register; a condition of its own, that of WAITT; and registers of the vector unit. -/
theorem witness_HeldInstructionsWait_pending : let s := gal0.modCore 0 (fun c => { c with pendX := 4, pendT := 4 })
    held s (Claims.use2 (ops 0)) = true ∧ held s (Claims.use2 { ops 0 with d := 2, a := 3 }) = true ∧
    held s { Use.none with xs := [3], t := 2 } = true ∧ held s { Use.none with hold := s.me.pendingX 2 } = true ∧
    held gal0 (Claims.use2 (ops 0)) = false ∧
    (let a := act0.modCore 256 (fun c => { c with pendV := 2, pendM := 2, pendH := 2 })
     held a { Use.onActor with vs := [1] } = true ∧ held a { Use.onActor with mds := [1] } = true ∧
       held a { Use.onActor with hs := [1] } = true) := by decide +kernel
/-- An empty queue, and an output queue with no space. -/
theorem witness_HeldInstructionsWait_queues : held act0 (Claims.use2 { ops 0 with a := 59 }) = true ∧
    held act0 (Claims.use2 { ops 0 with d := 59 }) = true := by decide +kernel
theorem witness_WrongEngineFaults : isActor gal0.cur = false ∧ isActor act0.cur = true ∧ engineOf gal0.cur = .gallery := by
  decide +kernel
theorem witness_TrapEntryAndDoubleTrap_entry : (gal0.core 0).trap.act = false ∧ (gal0.core 0).trap.tvecSet = true := by
  decide +kernel
theorem witness_TrapEntryAndDoubleTrap_double : (act0.core 5).trap.tvecSet = false := by decide +kernel
theorem witness_TrapInstructions : isActor gal0.cur = false ∧ gal0.me.trap.act = false ∧ engineOf root0.cur = .root ∧
    (gal0.modCore 0 (fun c => { c with trap := { c.trap with act := true } })).me.trap.act = true := by decide +kernel
theorem witness_TrapInstructions_sysc : (({ Use.onSeq with xs := [2, 3], t := 6 } : Use)).issues root0 := by
  unfold Use.issues; decide +kernel
theorem witness_ActorFaultEndsTheFiring : isActor act0.cur = true ∧ act0.inst (act0.firingInst act0.cur) = some inst1 := by
  decide +kernel
theorem witness_ScalarResultsGoWhere : isQueue act0.cur 1 = false ∧ isQueue act0.cur 56 = true := by decide +kernel
theorem witness_IntegerArithmetic : (Claims.use2 (ops 0)).issues gal0 := by unfold Use.issues; decide +kernel
/-- On an actor core, from a queue to a queue. -/
theorem witness_IntegerArithmetic_queues : (Claims.use2 { ops 0 with a := 56, d := 56 }).issues act0 := by
  unfold Use.issues; decide +kernel
theorem witness_BitOperationsAndMoves : (Claims.use1 (ops 0)).issues gal0 ∧ (Claims.use3 (ops 0)).issues gal0 := by
  unfold Use.issues; decide +kernel
theorem witness_BitOperationsAndMoves_li : ({ Use.none with xs := secondField (ops 0), xd := some 1 } : Use).issues gal0 := by
  unfold Use.issues; decide +kernel
theorem witness_IntegerFrame : (∀ r ∈ [(1 : RegField), 2, 3], isQueue gal0.cur r = false ∧ gal0.me.pendingX r = false) ∧
    (∃ t, exec (.add (ops 7)) gal0 = .next t) := ⟨by decide +kernel, _, rfl⟩
theorem witness_FloatingPoint : (Claims.typedUse [2, 3] 1 (Claims.typedFault (ops 0))).issues act0 ∧
    (Claims.typedUse [2] 1 (Claims.typedFault (ops 0))).issues act0 ∧
    (Claims.typedUse [1, 2, 3] 1 (Claims.typedFault (ops 0))).issues act0 := by unfold Use.issues; decide +kernel
theorem witness_Conversion : elemTypeOf 0 = some .fp32 ∧ elemTypeOf 12 = some .s8 ∧
    (Claims.typedUse [2] 1 none).issues act0 ∧ 16 ≤ ({ ops 0 with b := 16 } : Operands).b.toNat % 32 := by
  unfold Use.issues; decide +kernel
theorem witness_RepresentableResultsAreExact : isFloatType .fp32 = true ∧
    decodeFloat (floatFmt .fp32) 0x00000001 = .fin false 1 (-149) := by decide +kernel
theorem witness_ControlFlow : ({ Use.none with xs := [2, 3] } : Use).issues gal0 ∧ Use.none.issues gal0 ∧
    ({ Use.none with xd := some 31 } : Use).issues gal0 ∧ ({ Use.none with xs := [2] } : Use).issues gal0 ∧
    ({ Use.none with xs := [1], xd := some 1 } : Use).issues gal0 := by unfold Use.issues; decide +kernel
/-- Each branch's relation holds of some operands and fails of some. -/
theorem witness_ControlFlow_relations : ∀ row ∈ Claims.branchRows (ops 0),
    (row.2 0 0 ∨ row.2 0 1 ∨ row.2 1 0) ∧ (¬ row.2 0 0 ∨ ¬ row.2 0 1 ∨ ¬ row.2 1 0) := by
  intro row h
  simp only [Claims.branchRows, List.mem_cons, List.not_mem_nil, or_false] at h
  rcases h with h | h | h | h | h | h <;> subst h <;> decide
theorem witness_WaitingAndIdle : gal0.me.pendT = 0 ∧ gal0.me.pendingX 2 = false ∧
    ({ Use.none with xs := secondField (ops 0) } : Use).issues gal0 ∧ ({ Use.none with xs := [2] } : Use).issues gal0 := by
  unfold Use.issues; decide +kernel
theorem witness_WaitingAndIdle_queue : let o := { ops 1 with a := 56 }
    ({ Use.none with xs := secondField o } : Use).issues act0 ∧
      (second o (({ Use.none with xs := secondField o } : Use).value act0)).toNat % 256 ≤
        (act0.queueView act0.cur (queueOf o.a)).length := by unfold Use.issues; decide +kernel
theorem witness_WaitingAndIdle_pending : (gal0.modCore 0 (fun c => { c with pendX := 4, pendT := 4 })).me.pendingX 2 = true := by
  decide +kernel
theorem witness_WaitingAndIdle_ends :
    ((gal0.modCore 0 (fun c => { c with run := .idle 0 0 0x1004 false })).core 0).run = .idle 0 0 0x1004 false ∧
    ((gal0.modCore 0 (fun c => { c with run := .idle 0 1 0x1004 false })).core 0).run = .idle 0 1 0x1004 false := by decide +kernel
theorem witness_EndingAProgram : act0.me.quiet = true ∧ act0.nodeBusy act0.cur = false ∧ (gal0.withdrawAwaits gal0.cur).me.quiet = true ∧
    (act0.modCore 256 (fun c => { c with pendX := 4 })).me.quiet = false ∧
    ((gal0.modCore 0 (fun c => { c with pendX := 4 })).withdrawAwaits 0).me.quiet = false := by decide +kernel
/-- A load, a store and an atomic of 8 bytes at 0x1040. -/
theorem witness_MemoryAccessesIssue : (Claims.memUse (ops 0) [2] (some 1)).issues gal0 ∧
    (Claims.memUse (ops 0) [1, 2] none).issues gal0 ∧ (Claims.memUse (ops 0) [2, 3] (some 1)).issues gal0 ∧
    (Claims.memUse (ops 0) [1, 2, 3] (some 1)).issues gal0 ∧
    Claims.deviceOk gal0 0x1040 8 .read 0x200000040 0 false ∧ Claims.deviceOk gal0 0x1040 8 .write 0x200000040 0 false ∧
    Claims.deviceOk gal0 0x1040 8 .atomic 0x200000040 0 false := by unfold Use.issues Claims.deviceOk; decide +kernel
/-- Of eight bytes, 0x1041 is misaligned, and 0x2000 is the first address beyond the page. -/
theorem witness_MemoryAccessFaults : (Claims.memUse (ops 1) [2] (some 1)).issues gal0 ∧ 0x1041 % 8 ≠ 0 ∧
    gal0.translate (gal0.extentsOf gal0.cur) 0x2000 8 .read = none ∧
    gal0.translate (gal0.extentsOf gal0.cur) 0x2000 8 .write = none ∧
    gal0.translate (gal0.extentsOf gal0.cur) 0x2000 8 .atomic = none := by unfold Use.issues; decide +kernel
/-- The last 8 bytes of slot data memory, and the first of a firing's area. -/
theorem witness_LocalMemory : (Claims.memUse (ops 0) [2] (some 1)).issues gal0 ∧ (Claims.memUse (ops 0) [1, 2] none).issues gal0 ∧
    gal0.localFault gal0.cur 0xFFF8 8 8 true = none ∧ gal0.localFault gal0.cur 0xFFF8 8 8 false = none ∧
    act0.localFault act0.cur 0x1000 8 8 true = none ∧ Memory.wf (gal0.localMem gal0.cur) = true := by
  unfold Use.issues; decide +kernel
theorem witness_OrderingInstructions : (Claims.memUse (ops 0) [] none).issues gal0 ∧
    ({ Use.none with xs := [2], t := 0 } : Use).issues gal0 ∧
    gal0.translate (gal0.extentsOf gal0.cur) 0x1040 64 .read = some (0x200000040, 0, false) ∧
    (gal0.view (domainOf gal0.cur)).poisoned 0x200000040 = false ∧
    gal0.translate (gal0.extentsOf gal0.cur) 0x2000 64 .read = none := by unfold Use.issues; decide +kernel
theorem witness_OrderingInstructions_waitv : ({ Claims.memUse (ops 5) [2, 3] (some 1) with hold := decide (isActor gal0.cur ∧
    4 ≤ (gal0.openWaitvs gal0.cur).length) } : Use).issues gal0 ∧ Claims.deviceOk gal0 0x1040 8 .read 0x200000040 0 false := by
  unfold Use.issues Claims.deviceOk; decide +kernel
theorem witness_CopiesIssue : gal0.engineFull gal0.cur = false ∧ (Claims.memUse (opsDone 0) [1, 2, 3] none).issues gal0 ∧
    ({ Claims.memUse (opsDone 0) [] none with hs := [hreg 1, hreg 2] } : Use).issues act0 := by unfold Use.issues; decide +kernel
theorem witness_CopiesIssue_shapes : recordBad record1 = false ∧ recSpace record1 ≠ 2 ∧ recordMisaligned record1 = false ∧
    recCount record1 = 1 ∧ recordBad (record 0) = false ∧ recCount (record 0) = 0 := by decide +kernel

/-- CPYQ: a push from an actor core on its narrow queue 0, and a pop from a sequencer's inbox, of one narrow token each. -/
theorem witness_CopiesIssue_queues : ({ Claims.memUse { opsDone 8 with d := 56 } [2, 3] none with
      hold := isActor act0.cur && (act0.queueBusy act0.cur false 0 || (!false && act0.me.pendingX 56)) } : Use).issues act0 ∧ act0.overRate act0.cur 0 8 = false ∧
    act0.outPred act0.cur 0 = false ∧ act0.outWide act0.cur 0 = false ∧ (64 : Nat) % 8 = 0 ∧
    ({ Claims.memUse { opsDone 12 with d := 56 } [2, 3] none with
      hold := isActor gal0.cur && (gal0.queueBusy gal0.cur true 0 || (!true && gal0.me.pendingX 56)) } : Use).issues gal0 := by unfold Use.issues; decide +kernel
/-- EMIT on queue 0 and EMITP on queue 2. -/
theorem witness_QueueAndTagInstructions_emit : act0.outWide act0.cur 0 = false ∧ act0.canPush act0.cur 0 1 = true ∧
    ({ Use.none with gallery := false, root := false, xs := [2, 3] } : Use).issues act0 ∧ act0.overRate act0.cur 0 1 = false ∧
    act0.outPred act0.cur 0 = false ∧ act0.outWide act0.cur 2 = false ∧ act0.canPush act0.cur 2 1 = true ∧
    act0.overRate act0.cur 2 1 = false ∧ act0.outPred act0.cur 2 = true := by unfold Use.issues; decide +kernel
theorem witness_QueueAndTagInstructions_peek : let o := { ops 0 with a := 56 }
    let u : Use := { Use.none with gallery := false, root := false, xs := secondField o, xd := some o.d }
    u.issues act0 ∧ (act0.queueView act0.cur (queueOf o.a))[(second o (u.value act0)).toNat % 256]? = some held1 := by
  unfold Use.issues; decide +kernel
theorem witness_QueueAndTagInstructions_tags :
    ({ Use.none with gallery := false, root := false, xd := some 1 } : Use).issues act0 ∧
    ({ Use.none with gallery := false, root := false, xs := [2, 3], xd := some 1 } : Use).issues act0 ∧
    1 < (act0.firingCtx act0.cur).tagw.length ∧ (act0.firingCtx act0.cur).tagw.sum ≤ 52 ∧
    (act0.firingCtx act0.cur).tagw.length ≤ 2 := by unfold Use.issues; decide +kernel
/-- FP32 with the mask m3, and S8. -/
theorem witness_VectorLanes : elemTypeOf ((0x00E0 : BitVec 16).toNat % 32) = some .fp32 ∧
    (Claims.vecUse (ops 0x00E0) Claims.typesF [] [2, 3] [1]).issues act0 ∧
    elemTypeOf ((12 : BitVec 16).toNat % 32) = some .s8 ∧ (Claims.vecUse (ops 12) Claims.typesI [] [2] [1]).issues act0 ∧
    (Claims.vecUse (ops 12) Claims.typesFI [] [2, 3] [1]).issues act0 := by unfold Use.issues; decide +kernel
theorem witness_VectorMoves : (Claims.vecUse (ops 12) Claims.typesAll [2] [] [1]).issues act0 ∧
    (Claims.vecUse (ops 12) okPerm [] [2, 3] [1]).issues act0 ∧ (Claims.vecUse (ops 12) Claims.typesAll [3] [2] [1]).issues act0 ∧
    (Claims.vecUse (ops 12) Claims.typesI [2] [] [1]).issues act0 ∧ (Claims.vecUse (ops 12) Claims.typesAll [] [2, 3] [1]).issues act0 ∧
    (Claims.vecUse (ops 12) Claims.typesAll [2, 3] [1] [1]).issues act0 ∧
    ({ Claims.vecUse (ops 12) Claims.typesAll [3] [2] [] with xd := some 1 } : Use).issues act0 := by
  unfold Use.issues; decide +kernel
theorem witness_VectorConversionsAndComparisons : (Claims.vecUse { ops 12 with b := 0 } Claims.typesAll [] [2] [1]).issues act0 ∧
    ({ Claims.vecUse (ops 0) Claims.typesFI [] [2, 3] [] with ms := [1], mds := [1] } : Use).issues act0 := by
  unfold Use.issues; decide +kernel
theorem witness_ReductionsAndMasks : isIntType .s8 = true ∧ isFloatType .fp32 = true ∧ laneCount .fp32 = 2 ^ 4 ∧
    isFloatType .fp16 = true ∧ laneCount .fp16 = 2 ^ 5 ∧ elemTypeOf ((0 : BitVec 16).toNat % 32) = some .fp32 ∧
    ({ Claims.vecUse (ops 0) Claims.typesFI [] [2] [] with xd := some 1 } : Use).issues act0 ∧
    ({ Claims.vecUse (ops 12) Claims.typesFI [] [2] [] with xd := some 1 } : Use).issues act0 ∧
    ({ Use.none with gallery := false, root := false, ms := [2, 3], mds := [1] } : Use).issues act0 ∧
    ({ Use.none with gallery := false, root := false, ms := [2], xd := some 1 } : Use).issues act0 ∧
    ({ Use.none with gallery := false, root := false, xs := [2], mds := [1] } : Use).issues act0 := by
  unfold Use.issues; decide +kernel
/-- The least and the greatest count on tile 0, which is in row 0; tile 32 is not. -/
theorem witness_CordicUnit : inRow0 (tileOf act0.cur) = true ∧ (act0.tile (tileOf act0.cur)).cordFree ≤ act0.cycle ∧
    ({ Use.none with gallery := false, root := false, vs := [2, 3], vd := [1] } : Use).issues act0 ∧
    inRow0 32 = false := by unfold Use.issues; decide +kernel
/-- The first line of the firing's area. -/
theorem witness_VectorLocalAndWideQueues_memory : (Claims.vmemUse (ops 0) [] [1]).issues act0 ∧ (Claims.vmemUse (ops 0) [1] []).issues act0 ∧
    Claims.accessAligned .fp32 0x1040 ∧ act0.localFault act0.cur 0x1040 64 1 true = none ∧
    act0.localFault act0.cur 0x1040 64 1 false = none ∧ Memory.wf (act0.localMem act0.cur) = true := by
  unfold Use.issues Claims.accessAligned; decide +kernel
/-- The last place of a 6-bit access that is aligned. -/
theorem witness_VectorLocalAndWideQueues_six : Claims.accessAligned .e2m3 0x104F ∧ Claims.accessSize .e2m3 = 48 := by
  unfold Claims.accessAligned; decide +kernel
theorem witness_VectorLocalAndWideQueues_queues : act0.inWide act0.cur 1 = true ∧ act0.queueBusy act0.cur true 1 = false ∧
    (act0.queueView act0.cur 1).length = 1 ∧ (Claims.vecUse (ops 0) Claims.typesAll [] [] [1]).issues act0 ∧
    act0.outWide act0.cur 1 = true ∧ act0.canPush act0.cur 1 5 = true ∧ (Claims.vecUse (ops 0) Claims.typesAll [] [2] []).issues act0 ∧
    act0.overRate act0.cur 1 1 = false ∧ act0.me.pendingX 57 = false := by unfold Use.issues; decide +kernel
theorem witness_ShapeRegisters : ({ Claims.memUse (ops 0) [2] none with hds := [1] } : Use).issues act0 ∧
    ({ Claims.memUse (ops 0) [2] none with hs := [1] } : Use).issues act0 ∧ act0.localFault act0.cur 0x1040 64 64 true = none ∧
    act0.localFault act0.cur 0x1040 64 64 false = none ∧ ({ Use.none with xs := [3], hds := [1] } : Use).issues act0 := by
  unfold Use.issues; decide +kernel
theorem witness_VectorMemoryAccesses : (Claims.vmemUse (ops 0) [] [1]).issues act0 ∧ (Claims.vmemUse (ops 0) [1] []).issues act0 ∧
    act0.translate (act0.extentsOf act0.cur) 0x1080 64 .read = some (0x200000080, 0, false) ∧
    act0.translate (act0.extentsOf act0.cur) 0x1080 64 .write = some (0x200000080, 0, false) ∧
    act0.copyFault act0.cur true 0x1080 64 = none := by unfold Use.issues; decide +kernel
/-- All sixteen lanes of a gather and of a scatter at index 0. -/
theorem witness_VectorMemoryAccesses_lanes : ({ Claims.vecUse (ops 0) Claims.typesGather [2] [3] [1] with c := 0, t := 0 } : Use).issues act0 ∧
    ({ Claims.vecUse (ops 0) Claims.typesGather [2] [3, 1] [] with c := 0, t := 0 } : Use).issues act0 ∧
    (∀ i ∈ Claims.lanesActive (ops 0) .fp32 act0,
      (Claims.laneAddress (ops 0) .fp32 act0 (fun _ => 0x1040) i).toNat = 0x1040) ∧
    Claims.deviceOk act0 0x1040 4 .read 0x200000040 0 false ∧ Claims.deviceOk act0 0x1040 4 .write 0x200000040 0 false := by
  unfold Use.issues Claims.deviceOk; decide +kernel
/-- A firing whose registers h1, h2 and h3 hold a record of one FP32 element. -/
def act1 : State := act0.modCore 256 (fun c => { c with h := c.h.set 3 record1 })
theorem witness_StreamInstructions : ({ Claims.memUse (ops 0) [] none with hs := [1, 2, 3] } : Use).issues act1 ∧
    ({ Claims.memUse (ops 7) [] none with hs := [1, 2] } : Use).issues act1 ∧
    ({ Claims.memUse (ops 0) [] (some 1) with hs := [2] } : Use).issues act1 ∧ Claims.recordsOk act1 [1, 2, 3] ∧
    (∀ r ∈ [(1 : RegField), 2, 3], recType (Claims.record act1 r) = 0 ∧ recCount (Claims.record act1 r) = 1) := by
  unfold Use.issues Claims.recordsOk; decide +kernel
/-- The firing owns its bank. -/
def actMx : State := act0.setCtx 0 0 { ctx0 with bank := { Bank.taken with owner := .core 256 } }
theorem witness_MatrixInstructions : (Claims.memUse (ops 0) [2, 3] none).issues act0 ∧ act0.myBank.owner = .none ∧
    mxcBad 132 0 = false ∧ Claims.mayQueue actMx ∧ (Claims.memUse (ops 0) [] none).issues actMx ∧
    (Claims.memUse (ops 0) [2] none).issues actMx ∧ actMx.localFault actMx.cur 0x1040 144 8 false = none ∧
    actMx.nodeBusy actMx.cur = false ∧ Use.none.issues actMx := by unfold Use.issues Claims.mayQueue; decide +kernel
theorem witness_MatrixInstructions_passes : (Claims.memUse (ops 0) [2, 3] none).issues actMx ∧
    (actMx.passRows (actMx.extentsOf actMx.cur) 132 0 0x1040 0x1040 false).toOption.isSome = true ∧
    actMx.drainBad (ops 0) = none ∧
    (actMx.nodeRows (actMx.extentsOf actMx.cur) 0x1000 64 (32 * drainSize 0) .write).toOption.isSome = true ∧
    actMx.drainBad { ops 0x11 with d := 57 } = none ∧ fieldW (actMx.firingCtx actMx.cur).tagw 1 = 8 ∧
    actMx.overRate actMx.cur 1 (drainTokens 0) = false ∧ actMx.drainBad (ops 2) = none ∧
    ({ Claims.memUse (ops 2) [2, 3] none with vd := [1, 2] } : Use).issues actMx := by unfold Use.issues; decide +kernel

/-- A configuration block (R396): a column of 16 FP32 elements at 0x1040, the area at 0x1400. -/
def qsBlock : Nat := 0x1040 + 0x1400 <<< 64 + 16 <<< 192
/-- The walk that it asks for, for rank 3. -/
def walk1 : Walk := walkOfBlock qsBlock 3 0
/-- A sequencer slot that owns channel 0 with the walk, and whose data memory holds the block at 0x1040. -/
def galQs : State :=
  { gal0.modCore 0 (fun c => { c with data := Memory.writeN [] 0x1040 64 qsBlock }) with
    gals := [(0, { Gallery.reset with
      channels := [(0, { Channel.free with owner := some 0, walk := some walk1 })]
      sillst := { spec := 0, efc := 0, efail := false, eok := true }
      entries := [(0, { SeqEntry.zero with valid := true })] })] }
/-- QSCFG of a core that owns no channel, which has not asked for one yet or has. -/
theorem witness_HeldInstructionsWait_channel : let asked := { gal0 with gals := [(0, { Gallery.reset with asks := [(0, (0, 0x1000))] })] }
    gal0.ownChannel gal0.cur = none ∧ gal0.asking gal0.cur = false ∧ asked.asking asked.cur = true ∧
    (∀ s ∈ [gal0, asked], held s { Claims.memUse (ops 0) [2, 3] none with hold := s.channelBusy s.cur || (s.ownChannel s.cur).isNone } = true) := by
  decide +kernel
theorem witness_SelectionInstructions : galQs.channelBusy galQs.cur = false ∧ galQs.ownChannel galQs.cur = some 0 ∧
    galQs.walkOf galQs.cur = some walk1 ∧ (Claims.memUse (ops 0) [2, 3] none).issues galQs ∧
    galQs.localFault galQs.cur 0x1040 64 64 true = none ∧ galQs.localRead galQs.cur 0x1040 64 = qsBlock ∧
    bitsAt qsBlock 511 239 = 0 ∧ walk1.cfg.bad = false ∧ galQs.walkFault walk1 = none := by unfold Use.issues; decide +kernel
theorem witness_SelectionInstructions_long : (Claims.memUse (ops 0) [3] none).issues galQs ∧ (Claims.memUse (ops 0) [] none).issues galQs ∧
    walk1.begun = false ∧ (galQs.translate (galQs.extentsOf galQs.cur) 0x1040 walk1.ps .read).isSome = true ∧
    (galQs.translate (galQs.extentsOf galQs.cur) 0x1040 walk1.ps .write).isSome = true := by unfold Use.issues; decide +kernel
theorem witness_SelectionInstructions_record : ({ Use.none with xd := some 1 } : Use).issues galQs ∧ walk1.pois = false ∧
    galQs.localFault galQs.cur 0x1040 64 64 false = none ∧ Memory.wf (galQs.localMem galQs.cur) = true ∧
    galQs.spillPending galQs.cur (galQs.peekWalk (ops 0)) = false ∧ walkOfRecord walk1.record = walk1 ∧
    walk1.record.toNat % 2 ^ 17 = 0 := by unfold Use.issues; decide +kernel
/-- A block for SAMP, CMIT and SEED whose addresses are 0x1040: 16 weights, entry 0; ACPT's with one row. -/
theorem witness_SillInstructions : isActor galQs.cur = false ∧ (Claims.memUse (ops 0) [2] (some 1)).issues galQs ∧
    (galQs.sillRange 0x1040 64 .read).toOption.isSome = true ∧ (galQs.sillRange 0x1040 192 .write).toOption.isSome = true ∧
    galQs.localFault galQs.cur 0x1040 128 1 false = none ∧ galQs.localFault galQs.cur 0x1040 4 1 true = none ∧
    (galQs.seqEntry 0 0).valid = true ∧ (galQs.seqEntry 0 1).valid = false ∧ (galQs.gal 0).sillst.eok = true ∧ galQs.z.ops = [] ∧
    galQs.me.firing.trace.dep = false ∧
    (Claims.memUse (ops 0) [2, 3] none).issues galQs ∧ galQs.galleryOf galQs.cur = 0 := by unfold Use.issues; decide +kernel
/-- Weights 1, 2 and 3: the draw 0 falls on the first, and the greatest on the last. -/
theorem witness_SillInstructions_draw : sampleIndex (fun k => k + 1) 3 0 6 = some 0 ∧
    sampleIndex (fun k => k + 1) 3 0xFFFFFFFF 6 = some 2 := by decide +kernel
theorem witness_SystemInstructionsAndRegisters : engineOf gal0.cur = .gallery ∧ isActor act0.cur = true ∧
    ({ Use.none with xs := [2, 3], t := 6 } : Use).issues gal0 ∧
    (gal0.modCore 0 (fun c => { c with image := some page })).me.image = some page := by unfold Use.issues; decide +kernel
/-- A register of each engine, and the first beyond them. -/
theorem witness_SystemInstructionsAndRegisters_numbers : sregFault .actor 0x000 = none ∧ sregFault .gallery 0x100 = none ∧
    sregFault .root 0x22F = none ∧ ({ Use.none with xd := some 1 } : Use).issues root0 ∧
    ({ Use.none with xs := [2] } : Use).issues root0 := by unfold Use.issues; decide +kernel

/-! ### Commands -/

/-- The selector of colour 1 of region 0, and of region 5. -/
def sel1 : Word := 1 <<< 8
def sel5 : Word := 5
/-- An image with a port, a colour row and certificate pools for colour 1. -/
def image0 : RegionImage := { RegionImage.none with
  w := 1
  h := 1
  tagw := [12, 8]
  ports := [(0, (0, false, 0)), (1, (0, true, 0))]
  rows := [{ first := 0, last := 3, quota := 4, share := 0, cap := 0, ntile := 0, nslot := 0, xtile := 0, xslot := 1 }]
  quotaAll := 4096
  ranges := [{ first := 0, last := 3, lim := 4096, share := 0, cap := 0, nosp := true }] }
/-- A context with an entry casement in slot 0, an exit casement in slot 1, and the injection edge 0. -/
def ctxG : TileCtx := { ctx0 with
  slots := [(0, (11 ||| 0 <<< 8, 0)), (1, (11 ||| 1 <<< 4, 0))]
  edges := [(0, 64 <<< 17), (1, 1 <<< 29 + 16 <<< 17)] }
/-- A region that sequencer slot 0 commands, with an open colour 1. -/
def regionG (st : RegionState) : Region := { region0 with state := st, image := image0 }
/-- Sequencer slot 0 with the selector in x2 and x3 = 64. -/
def cmdG (st : RegionState) (sel : Word) : State :=
  { gal0.modCore 0 (fun c => { c with x := c.x.set 2 sel }) with
    tiles := [(0, { Tile.reset with ctxs := [(0, ctxG)] })]
    regions := [(0, regionG st)] }
theorem witness_RegionCommands : Claims.commands (cmdG .loaded sel1) 0 ∧ ((cmdG .loaded sel5).region 5).state = .unloaded ∧
    (Claims.memUse (ops 0) [2] none).issues (cmdG .loaded sel1) ∧ (Claims.memUse (ops 0) [2, 3] none).issues (cmdG .loaded sel1) ∧
    galleryOfTile (selTile sel1) = (cmdG .loaded sel1).galleryOf 0 ∧ ((cmdG .loaded sel1).region 0).ctx = selCtx sel1 ∧
    edgeDepth (((cmdG .loaded sel1).tctx 0 0).edge 0) = 64 := by unfold Use.issues Claims.commands; decide +kernel
/-- A region of gallery 1 (its origin is tile 8, in gallery 1), which slot 0 does not command. -/
theorem witness_RegionCommands_foreign : ({ regionG .loaded with origin := 8 } : Region).home = 1 := by decide +kernel
theorem witness_RegionCommands_switch : ({ cmdG .loaded sel1 with
    tiles := [(0, { Tile.reset with ctxs := [(0, { ctxG with state := .loaded })] })] }).isLoaded 0 0 = true := by decide +kernel
/-- BIND: a record in device space in data memory at 64. -/
theorem witness_PortCommands : let s := (cmdG .active sel1).modCore 0 (fun c => { c with data := Memory.writeN [] 64 64 record1.toNat })
    (Claims.memUse (ops 0) [1, 2, 3] none).issues s ∧ Claims.commands s 0 ∧ s.localFault s.cur 64 64 64 true = none ∧
    s.localRead s.cur 64 64 = record1.toNat ∧ AMap.find (s.region 0).image.ports (selIdx sel1) = some (0, false, 0) ∧
    recSpace record1 = 1 ∧ recordBad record1 = false ∧ recCount record1 ≠ 0 := by
  unfold Use.issues Claims.commands; decide +kernel
theorem witness_PortCommands_windows : (Claims.memUse (ops 5) [2] (some 1)).issues (cmdG .active sel1) ∧
    AMap.has ((cmdG .active sel1).tctx 0 0).slots 0 = true ∧ waKind (((cmdG .active sel1).tctx 0 0).wordA 0) = 11 ∧
    AMap.find image0.ports 1 = some (0, true, 0) ∧ (cmdG .active sel1).slotClear 0 = true := by unfold Use.issues; decide +kernel
theorem witness_PortCommands_unbind : let c : Colour := { Colour.closed with binds := [(0, ⟨0, 0, .device, 7⟩)] }
    AMap.find c.binds 0 = some ⟨0, 0, .device, 7⟩ ∧
    ({ regionG .active with insts := [{ inst1 with binds := [(0, ⟨0, 0, .device, 7⟩)] }] } : Region).holdsBind 1 0 7 = true ∧
    (regionG .active).holdsBind 1 0 7 = false := by decide +kernel
theorem witness_InstanceCommands_arm : (Claims.memUse (ops 0) [2, 3] none).issues (cmdG .active sel1) ∧ Claims.commands (cmdG .active sel1) 0 ∧
    ((cmdG .active sel1).certArm 0).1 = 0 ∧ ((cmdG .armed sel1).certArm 0).1 = 0 ∧
    ((cmdG .active sel1).setCtx 0 0 { ctxG with mxs := some ⟨0, 0, 0, 0, 0, 0⟩ }).sectionTiles 0 (selSec sel1) ≠ [] := by
  unfold Use.issues Claims.commands; decide +kernel
/-- INJ of a narrow token with matching action 1: there is room, or all 64 credits are in use. -/
theorem witness_InstanceCommands_inj : let s := cmdG .armed sel1
    (Claims.memUse (ops 1) [1, 2, 3] none).issues s ∧ ((s.region 0).colour 1).state = 1 ∧ s.injWaiting 0 1 s.z.nextId = false ∧
    s.injection 0 1 tok1 = .ready 0 0 0 ∧ (s.setCtx 0 0 { ctxG with spent := [(0, 64)] }).injection 0 1 tok1 = .full := by
  unfold Use.issues; decide +kernel
theorem witness_InstanceCommands_await : let s := (cmdG .armed sel1).modCore 0 (fun c => { c with inbox := [tok1] })
    (Claims.memUse (ops 0) [2, 3] (some 1)).issues s ∧ s.localFault s.cur 64 64 64 false = none ∧
    Memory.wf (s.localMem s.cur) = true ∧ s.me.run = .running ∧ s.cmds = [] ∧ s.me.inbox = [tok1] ∧
    ([tok1].find? (fun t => selAny sel1 || tagColour t.tag == 1)) = some tok1 ∧ (s.region 0).queue = [] ∧
    ((s.region 0).colour 1).state = 1 := by unfold Use.issues; decide +kernel
theorem witness_InstanceCommands_barr : ((cmdG .armed sel1).region 0).state = .armed ∧ ((cmdG .active sel1).region 0).state ≠ .armed := by
  decide +kernel
/-- COPEN of the closed colour 2, with no spill. -/
theorem witness_ColourCommands_copen : let sel2 : Word := 2 <<< 8
    (Claims.memUse (ops 0) [2, 3] none).issues (cmdG .armed sel2) ∧ (cmdG .armed sel2).openStatus 0 2 0 = some 0 ∧
    (cmdG .armed sel2).rowFrozen 0 1 0 = false ∧ ((cmdG .armed sel2).region 0).colours.length = 1 ∧
    ((regionG .armed).colour 1).sameRow 0 = true := by unfold Use.issues; decide +kernel
/-- CQUOTA with the least and the greatest quota. -/
theorem witness_ColourCommands_cquota : image0.rowOk 1 0 0 1 0 = true ∧ image0.rowOk 1 0 0 4096 0 = true ∧
    (regionG .armed).quotaSum 1 + 4096 ≤ 4096 := by decide +kernel
theorem witness_ColourCommands_others : Claims.commands (cmdG .armed sel1) 0 ∧ ((cmdG .armed sel1).region 0).preempting = false ∧
    (cmdG .armed sel1).takers 0 = [] ∧ (cmdG .armed sel1).lease 1 = none ∧
    ({ cmdG .armed sel1 with ls := { LeaseService.reset with leases := [⟨1, 0, 1, 0, 0, 0, [], false⟩] } }).lease 1 =
      some ⟨1, 0, 1, 0, 0, 0, [], false⟩ := by unfold Claims.commands; decide +kernel
/-- A launch at the greatest level that LDEPTH.D = 1 allows, 0, and one above it. -/
theorem witness_ColourCommands_launch : let s := cmdG .armed sel1
    (Claims.memUse (ops 0) [1, 2, 3] none).issues s ∧ s.me.ldepth.toNat = 1 ∧ s.launchWaiting 0 0 s.z.nextId = false ∧
    (s.poolEntry 0 0).isSome = true := by unfold Use.issues; decide +kernel
theorem witness_PlacementCommands : let s := cmdG .armed sel1
    (Claims.memUse (ops 0) [2, 3] none).issues s ∧ (Claims.memUse (ops 0) [2] none).issues s ∧ s.recordFault 64 64 false = none ∧
    selTile sel1 < (s.region 0).tileCount ∧ (s.region 0).partner 0 0 = none ∧ Memory.wf (s.localMem s.cur) = true ∧ s.swaps = [] := by
  unfold Use.issues; decide +kernel
/-- The least and the greatest interval of a policy. -/
theorem witness_PlacementCommands_policy : (12 : Nat) / 2 ^ 32 = 0 ∧ 12 ≤ 12 % 2 ^ 5 ∧ 24 % 2 ^ 5 ≤ 24 := by decide
/-- SWPX of two tiles side by side. -/
theorem witness_PlacementCommands_swpx : let r : Region := { regionG .armed with image := { image0 with w := 2, h := 1 } }
    let s := { cmdG .armed sel1 with
      regions := [(0, r)]
      tiles := [(0, { Tile.reset with ctxs := [(0, { ctxG with edges := [], slots := [] })] }),
        (1, { Tile.reset with ctxs := [(0, { TileCtx.empty with state := .active, ltile := 1 })] })] }
    r.partner 0 0 = some (0, 1, 0, 1) ∧ s.pairFits 0 0 1 = true := by decide +kernel
theorem witness_SecurityCommands : engineOf root0.cur = .root ∧ (Claims.memUse (ops 0) [2, 3] none).issues root0 ∧
    (Claims.memUse (ops 0) [2] none).issues root0 ∧ root0.recordFault 64 64 true = none ∧ root0.recordFault 64 256 false = none ∧
    AMap.has root0.root.keys 4095 = false ∧ AMap.has [(1, 0)] 1 = true ∧ (root0.iface 63).st = 0 ∧
    Memory.wf (root0.localMem root0.cur) = true := by unfold Use.issues; decide +kernel
/-- An interface in each state. -/
theorem witness_SecurityCommands_states : ∀ st ∈ [0, 1, 2, 3],
    (({ root0 with host := { HostSide.reset with ifaces := [(5, { Iface.reset with st := st })] } }).iface 5).st = st := by
  decide +kernel
/-- A loaded slot whose lease an instance holds, and one whose lease none holds. -/
theorem witness_SecurityCommands_keyz : let l : Lease := ⟨1, 0, 1, 0, 7, 0, [], false⟩
    let s : State := { root0 with ls := { LeaseService.reset with leases := [l] }, root := { Root.reset with keys := [(7, 0)] } }
    AMap.has s.root.keys 7 = true ∧ l.names 7 = true ∧ s.leaseInUse 1 = false ∧ ({ s with
      regions := [(0, { regionG .armed with insts := [{ inst1 with extents := [(0, { page with lease := 1 })] }] })] }).leaseInUse 1 = true := by
  decide +kernel
/-- The open colour 1 of region 0 as an interface froze it. -/
theorem witness_SecurityCommands_run : let k : Iface := { Iface.reset with cb := 1 <<< 6, st := 1 }
    let c := ((cmdG .armed sel1).region (ifRegion k)).colour (ifColour k)
    c.state = 1 ∧ c.tctx = ifTctx k ∧ c.key = ifKey k := by decide +kernel

/-! ### Events -/

/-- The part after bring-up: the host's control space is open. -/
def up : State := { State.reset with host := { HostSide.reset with bootStep := 5 } }
theorem witness_HostControlSpace : Claims.mayWrite up 0 0x200000 ∧ Claims.mayWrite up 1 0x300000 ∧ Claims.mayWrite up 0 0x5000F8 ∧
    Claims.mayWrite up 0 0x400000 ∧ State.reset.host.bootStep < 5 ∧
    up.portIssued 0 up.z.nextId = true ∧ up.portIssued 1 up.z.nextId = true := by unfold Claims.mayWrite; decide +kernel
/-- Port 1 holds group 2. -/
theorem witness_HostControlSpace_held : AMap.get 0 [(2, 2)] (0x200000 / 0x100000) = 2 - 0 := by decide +kernel
/-- The last register of the last interface. -/
theorem witness_HostControlSpace_frozen : (63 : Nat) < 64 ∧ Claims.mayWrite up 0 (0x500000 + 64 * 63 + 8 * 3) := by
  unfold Claims.mayWrite; decide +kernel
/-- A ring with one free place and an event that waits. -/
theorem witness_HostControlSpace_ring : let s := { up with host := { up.host with
      evtb := 0x20000, evthead := 4095, evttail := 0, events := [{ src := 16, kind := 4, num := 0, data := 0 }] } }
    s.host.evtb ≠ 0 ∧ s.host.evthead - s.host.evttail < 4096 ∧ Memory.wf s.host.mem = true ∧
    (s.host.events.find? (fun x => x.src == 16)).isSome = true := by decide +kernel
/-- Slot 0 runs in a part whose links are up. -/
def linked : State := { gal0 with host := up.host }
theorem witness_HostMessages_token : linked.linksUp = true ∧ up.semTaken 0 0 = false ∧ gal0.portBusy 0 = false ∧ (gal0.core 0).run ≠ .empty ∧ (gal0.core 0).inbox.length < 64 ∧
    (gal0.core 131).run = .empty := by decide +kernel
/-- Interface 5 runs and names slot 0 of gallery 0; interface 63 does not. -/
theorem witness_HostMessages_interface : let s := { gal0 with host := { HostSide.reset with ifaces := [(5, { Iface.reset with st := 2 })] } }
    (s.iface 5).st = 2 ∧ (0 : Nat) % 2 ^ 32 = (s.iface 5).apb.toNat / 2 ^ 12 % 2 ^ 32 ∧ (s.iface 63).st ≠ 2 ∧
    (s.iface 63).drop + 1 < 2 ^ 32 := by decide +kernel
/-- A memory write of one line, in the Cistern. -/
theorem witness_HostMessages_memory : (∀ k, k < 1 → gal0.paExists (0x200000000 + 64 * k) = true) ∧
    gal0.hostWriting 0x200000000 64 = false ∧ (List.replicate 64 (0 : Byte)).length = 64 := by decide +kernel
theorem witness_HostMessages_read : gal0.portIssued 0 gal0.z.nextId = true ∧ gal0.hostWriting (gal0.redirect 0x200000000) 64 = false ∧
    gal0.paExists 0x200000000 = true := by decide +kernel
/-- Bring-up stands at each of its steps, a failed one, and not begun. -/
theorem witness_HostMessages_bringUp : State.reset.host.bootStep = 0 ∧ up.host.bootStep = 5 ∧ up.host.bootStat = 0 ∧
    ({ up with host := { up.host with bootStep := 2, bootStat := 0x43 } } : State).host.bootStat ≠ 0 := by decide +kernel
/-- Interface 5 is locked, inside a session and outside one. -/
theorem witness_HostMessages_report : let h := { HostSide.reset with ifaces := [(5, { Iface.reset with st := 1 })], session := 2 }
    h.session = 2 ∧ (({ gal0 with host := h } : State).iface 5).st = 1 ∧ gal0.host.session ≠ 2 := by decide +kernel
/-- The fields of a file, least significant byte first. -/
def bytesIn (fs : List (Nat × Nat)) : List Byte := fs.flatMap (fun f => bytesOf f.1 f.2)
/-- A header of R439 with n section entries at 128, a length and a base. -/
def header (n len base : Nat) : List (Nat × Nat) :=
  [(4, 0x00564B53), (2, 1), (2, 0), (2, n), (2, 128), (4, 0), (8, 128), (8, len), (8, 0), (8, base), (80, 0)]
/-- An image without sections; and one of a code section and a record for slot 1 of gallery 0. -/
def skv0 : List Byte := bytesIn (header 1 160 0 ++ [(32, 0)])
def skv1 : List Byte := bytesIn (header 3 352 0x10000 ++ [(32, 0), (4, 0), (1, 2), (1, 0), (2, 0), (8, 256), (8, 64), (8, 0x10000),
  (4, 0), (1, 7), (1, 0), (2, 0), (8, 320), (8, 32), (8, 0), (32, 0), (64, 3), (8, 0x10000), (8, 0x10000), (4, 64), (1, 0), (1, 1), (10, 0)])
/-- Its load, from an address that is no multiple of 8. -/
def load1 (f got : List Byte) : Load := ⟨0x200000004, f.length, 0, true, got, none, 0⟩
theorem witness_HostMessages_load : up.root.load = none ∧ 3 ≤ up.host.bootStep ∧ (load1 skv1 []).got.length < (load1 skv1 []).size ∧
    (load1 skv0 skv0).size ≤ skv0.length ∧ up.skvStatus (skv0.take 159) true ≠ 0 ∧ up.skvStatus skv0 true = 0 ∧
    (up.loadTarget 0 skv0).isSome = true ∧ up.inFlight 0 0 = false := by decide +kernel
/-- Slot 1 of gallery 0 is loaded by the one record of the file. -/
theorem witness_HostMessages_loaded : up.skvStatus skv1 true = 0 ∧ (seqRecs skv1).map (fun r => r.core) = [1] ∧
    (load1 skv1 skv1).img = none ∧ up.op 0 = none ∧
    ({ up with z := { Zalulo.reset with ops := [MemOp.empty 0 none] } } : State).op 0 ≠ none := by decide +kernel
theorem witness_LinksAndErrors_power : State.reset.host.plimW < 8001 ∧ 7599 * 100 < 95 * State.reset.host.plimW := by decide +kernel
/-- A route from peer port 0 to colour 1 of region 0, and none. -/
theorem witness_LinksAndErrors_tokens : let s := { cmdG .armed sel1 with
      host := { HostSide.reset with routes := AMap.put [] 0 (BitVec.ofNat 128 0) } }
    s.incoming 7 0 1 = false ∧ s.injection 0 1 tok1 = .ready 0 0 0 := by decide +kernel
/-- A decoder that maps 4 GiB of the pool on port 0. -/
theorem witness_LinksAndErrors_memory : let s := { gal0 with host := { HostSide.reset with hdm := [⟨0x1000000000, 2 ^ 32, [0], 256⟩] } }
    s.paExists 0x1000000000 = true ∧ (0x1000000000 : Nat) % 8 + 8 ≤ 8 ∧ s.z.ops = [] ∧
    (s.core (peerParty 3)).firing.trace.dep = false ∧ (s.core (peerParty 3)).firing.trace.reads = [] := by decide +kernel
theorem witness_LinksAndErrors_links : AMap.find [(3, (7, 64))] 3 = some (7, 64) ∧ AMap.find ([] : AMap (Nat × Nat)) 3 = none := by
  decide +kernel
/-- A route from peer port 2 to colour 1 of region 0. -/
def routed (st : RegionState) (k : Colour) : State := { cmdG st sel1 with
  regions := [(0, { regionG st with colours := [(1, k)] })]
  host := { up.host with routes := [(0, BitVec.ofNat 128 (2 + 2 <<< 33 + 1 <<< 12))] } }
/-- A token with a reserved control byte, for a colour with an entry casement, for a closed one and for an unloaded region. -/
theorem witness_LinksAndErrors_bad : (∀ st ∈ [RegionState.armed, .unloaded], ∀ k ∈ [{ Colour.closed with state := 1 }, Colour.closed],
      (routed st k).incoming 2 0 1 = true ∧ (routed st k).linksUp = true) ∧
    ((routed .armed Colour.closed).region 0).state ≠ .unloaded ∧ ((routed .armed Colour.closed).region 0).colours = [(1, Colour.closed)] ∧
    ctlKind 0x30 = 3 ∧ ctlMact 0x03 = 3 ∧ tagColour (mkTag 1 0 0) = 1 := by decide +kernel
/-- A narrow token in flight from tile 1 to tile 0, whose flit has number 5; and one that a predicate edge carries. -/
theorem witness_LinksAndErrors_flits : ({ gal0 with flights := [⟨0, 0, 1, 0, tok1, none, false, 0, 5, false⟩] } : State).hasFlit (edgeLink 0 1 0) 5 = true ∧
    tok1.wide = false ∧ tok1.payload.toNat < 2 ^ 64 ∧ edgePred (8 <<< 17) = false := by decide +kernel
theorem witness_LinksAndErrors_fence : (0, (cmdG .armed sel1).region 0) ∈ (cmdG .armed sel1).regions ∧
    0 ∈ ((cmdG .armed sel1).region 0).sites := by decide +kernel
/-- An operation of one request of the given kind and state, made by slot 0. -/
def op1 (k : ReqKind) (st : ReqState) (snk : Sink) : MemOp :=
  { MemOp.empty 0 (some 0) with
    id := 9
    reqs := [{ Req.make k 0x1040 0x200000040 8 5 0 with state := st }]
    sink := snk }
/-- The slot has it in flight. -/
def flying (o : MemOp) : State := { gal0 with z := { Zalulo.reset with ops := [o], nextId := 10 } }
theorem witness_MemoryMachine_issue : ∀ k ∈ [ReqKind.read, .write, .atomic, .fence],
    let s := flying (op1 k .buffered .discard)
    let o := op1 k .buffered .discard
    s.op 9 = some o ∧ s.mayInject o 0 0x200000040 8 = true ∧ s.arcsMet o = true ∧ s.portTurn o = true ∧
      o.reqs.all (fun r => s.reqOrdered o 0 r) = true ∧ domainOf 0 < 20 := by decide +kernel
/-- An arc to an operation that has not completed, with the window closed; a host write behind one of its port; and an operation
behind its own earlier write. -/
theorem witness_MemoryMachine_waits : let o := { op1 .read .buffered .discard with arcs := [8], tile := some 0 }
    let s := { gal0 with
      z := { Zalulo.reset with ops := [{ op1 .read .issued .discard with id := 8, tile := some 0 }, o] }
      root := { Root.reset with netWmin := 1, netWmax := 1 } }
    let h := { op1 .write .buffered .discard with hostPort := some 0 }
    let w := { op1 .write .buffered .discard with reqs := (op1 .write .buffered .discard).reqs ++ (op1 .read .buffered .discard).reqs }
    s.arcsMet o = false ∧ s.mayInject o 0 0x200000040 8 = false ∧
    ({ gal0 with z := { Zalulo.reset with ops := [{ h with id := 8 }, h] } } : State).portTurn h = false ∧
    (w.reqs[1]?).any (fun r => !(flying w).reqOrdered w 1 r) = true := by decide +kernel
/-- A write of slot 0. -/
def write1 : WriteRec := ⟨3, 0, 0x200000040, 8, 5, 255, 0, none, false, false, { dom := 0, num := 1, clock := [1] }, [], [], []⟩
/-- A later one of its party. -/
def write2 : WriteRec := { write1 with id := 4, stamp := { dom := 0, num := 2, clock := [2] } }
theorem witness_MemoryMachine_delivery : write1 ∈ [write1, write2] ∧ 5 ∉ write1.applied ∧
    clockLe write1.stamp.clock write2.stamp.clock = true ∧ 5 ∉ write1.delivered ∧ clockLe write2.stamp.clock write1.stamp.clock = false ∧
    Memory.wf (gal0.view 5).mem = true := by decide +kernel
theorem witness_MemoryMachine_atomic : let o := { op1 .atomic .issued (.xreg 1 8 false) with amo := 11 }
    let s := flying o
    pastApplied s.z.writes s.z.nextId (s.opClock o) (s.homeDomain 0x200000040) = true ∧
    (s.view (s.homeDomain 0x200000040)).poisoned 0x200000040 = false := by decide +kernel
theorem witness_MemoryMachine_reply : let o := { op1 .read (.served 5 false) (.xreg 1 8 false) with tile := some 0 }
    let s := flying o
    s.op 9 = some o ∧ o.reqs.any Req.replied = false ∧ s.reqDone o { Req.make .read 0x1040 0x200000040 8 5 0 with state := .served 5 false } = true ∧
    s.stale o = false := by decide +kernel
theorem witness_MemoryMachine_completion : let o := op1 .read (.served 5 false) (.xreg 1 8 false)
    let s := flying o
    s.cmd 9 = none ∧ s.op 9 = some o ∧ s.completable o = true ∧ o.badAddr = none ∧ isQueue 0 1 = false ∧
    (op1 .read (.served 5 true) (.xreg 1 8 false)).badAddr = some 0x1040 ∧ (s.core 0).trap.tvecSet = true ∧
    (s.core 0).run ≠ .ending := by decide +kernel
theorem witness_MemoryMachine_fence : let o := { op1 .fence .issued .discard with isFence := true }
    (flying o).opReady o = true := by decide +kernel
/-- A copy of 8 bytes from 0x1040 to 0x1080. -/
def copy1 : Copy := ⟨9, 0, .copy 0x1040 0x1080 true true, 8, [(0, page)], ([], []), [], [], 0, [], [], 0⟩
/-- The unit of 8 bytes at 0x1040, read and written; and the same for a destination in local memory. -/
theorem witness_MemoryMachine_copy : let o := { op1 .fence .buffered .discard with reqs := [], pending := true }
    let s := { flying o with copies := [copy1] }
    let full := { copy1 with buf := [(0x208, { value := 5, poison := false, desc := none })] }
    s.arcsMet o = true ∧ copy1.source 0 = some 0x208 ∧ spanIn copy1.sourceRanges 0x208 = (0x1040, 8) ∧ copy1.fromDevice = true ∧
    AMap.has copy1.buf 0x208 = false ∧ (s.translate (permitting copy1.extents .read) 0x1040 8 .read).isSome = true ∧
    s.mayInject o 0 0x200000040 8 = true ∧ full.dest 0 = some 0x210 ∧ spanIn full.destRanges 0x210 = (0x1080, 8) ∧
    (full.piece 0x210).any (fun p => fullBytes p.bits == 255 && someBytes p.bits == 255) = true ∧ full.toDevice = true ∧
    (s.translate (permitting copy1.extents .write) 0x1080 8 .write).isSome = true ∧
    { full with kind := .copy 0x1040 0x1080 true false }.toDevice = false := by decide +kernel
/-- SCPY and SRED over records of no elements. -/
def stream1 (fn : Nat) : StreamJob := ⟨9, 256, fn, 0, .rne, record 0, record 0, record 0, 1, none, 0, none, [], 0, [], [], [], 0, none⟩
theorem witness_MemoryMachine_stream : ∀ fn ∈ [1, 3], (stream1 fn).count ≤ (stream1 fn).next ∧ (stream1 fn).stage = none ∧ (stream1 fn).fail = none ∧
    (stream1 fn).writes = [] ∧ isQueue 256 1 = false := by decide +kernel
/-- A command of slot 0 that waits. -/
def cmd1 (k : CmdKind) : Cmd := { id := 9, core := 0, gal := 0, pc := 0x1000, next := 0x1004, done := 6, region := 0, ctx := 0, colour := 1, gen := 0, kind := k }
/-- LEASE of colour 1 of a region without extents. -/
theorem witness_LeaseServiceEvents_lease : let s := { cmdG .armed sel1 with cmds := [cmd1 (.lease 0 false)] }
    s.cmd 9 = some (cmd1 (.lease 0 false)) ∧ (s.region 0).state ≠ .unloaded ∧ (s.region 0).gen = 0 ∧
    ((s.region 0).image.row 1).isSome = true ∧ s.rowFrozen 0 1 0 = false ∧ ((s.region 0).colour 1).lease.bind s.lease = none ∧
    (match s.tryLease 0 0 0 1 9 with | .refused st => st | _ => 0) = 0x06 := by decide +kernel
theorem witness_LeaseServiceEvents_granted : let s := { cmdG .armed (1 <<< 8) with root := { Root.reset with keys := [(1, 1)] } }
    (match s.tryLease 0 0 0 1 9 with | .granted x => x.length | _ => 99) = 0 := by decide +kernel
theorem witness_LeaseServiceEvents_ended : gal0.lease 1 = none := by decide +kernel
theorem witness_LeaseServiceEvents_unlease : let l : Lease := ⟨1, 0, 1, 0, 0, 0, [], false⟩
    let s := { cmdG .armed sel1 with ls := { LeaseService.reset with leases := [l] } }
    s.leaseInUse 1 = false ∧ s.leaseInUse 2 = false ∧
    ({ s with regions := [(0, { regionG .armed with insts := [{ inst1 with extents := [(0, { page with lease := 1 })] }] })] }).leaseInUse 1 = true := by
  decide +kernel
/-- A migration in its second round, to a frame that may be taken; a released frame; and one that may be freed. -/
def migration1 : Migration := ⟨7, 0x200000000, 0x200100000, 0x200200000, 4096, 0, 1, 0, []⟩
theorem witness_LeaseServiceEvents_migration :
    ([migration1].find? (fun m => m.id == 7)) = some migration1 ∧ 1 ≤ migration1.round ∧ (gal0.markedLines migration1).length ≤ 256 ∧
    ([(1, 2, 3)].find? (fun r : Nat × Nat × Nat => r.1 == 1)) = some (1, 2, 3) ∧ gal0.rangeExists 0x200200000 4096 = true ∧
    gal0.frameHeld 0x200200000 4096 = false ∧ gal0.frameLeased 0x200200000 4096 = false ∧
    gal0.frameLeased migration1.src migration1.size = false ∧ gal0.canFree 0x200200000 = true ∧
    gal0.inFlight 0x200200000 65536 = false ∧ gal0.foreignWrite migration1 = false ∧ keyTag gal0.root.keys 0 = gal0.pageTag migration1 := by decide +kernel

/-! ### The fabric -/

/-- Tile 0 with a context, in a region. -/
def fab (c : TileCtx) (r : Region) : State := { State.reset with tiles := [(0, { Tile.reset with ctxs := [(0, c)] })], regions := [(0, r)] }
/-- WORDA of a kind and a function: inputs from buffers 0, 1, 2 and 3; output 0 on edge 0, output 1 on none (R270). -/
def wordOf (kind func nin : Nat) (pin : Bool) : Word :=
  BitVec.ofNat 64 (kind + func <<< 4 + nin <<< 17 + (if pin then 1 <<< 20 else 0) + 0xFF <<< 32 + 1 <<< 48 + 2 <<< 56)
/-- A set of colour 1 of slot 0. -/
def setOf (toks : List SetTok) : OpSet := ⟨0, 1, 0, 0, toks, 0⟩
/-- A member on a port. -/
def on (port : Nat) (tok : Token) : SetTok := ⟨port, tok, false, none⟩
/-- Tile 0 with the set ready at slot 0, of the given words. -/
def firing (a b : Word) (x : OpSet) : State := fab { ctx0 with slots := [(0, (a, b))], ready := [x] } (regionG .armed)
/-- An entry of slot 0. -/
def entry (port seq : Nat) (tok : Token) : Entry := ⟨.token, 0, port, tok, seq, 0, none, none, 0⟩
/-- A token of colour 1 in flight from tile 0 on edge 0. -/
def flight1 : Flight := { region := 0, gen := 0, src := 0, edge := 0, tok := tok1 }

/-- Tile 0 with slot 0 of the given word, and a token on its way to port 0. -/
def arriving (a : Word) : State :=
  { fab { ctx0 with slots := [(0, (a, 0))], edges := [(0, 8 <<< 17)], buffers := [] }
      { regionG .armed with colours := [(1, { Colour.closed with state := 1, cap := 8 })] } with
    flights := [flight1]
    cycle := 1 }
/-- The first of two of a set, and a set of one. -/
theorem witness_Operators_arrival : ∀ s ∈ [arriving (wordOf 0 9 2 false), arriving (wordOf 0 36 1 false)],
    (s.flights.find? (fun f => f.on 0 0 0 && tagColour f.tok.tag == 1)) = some flight1 ∧
      Claims.fitsEdge ((s.tctx 0 0).edge 0) tok1 ∧ flight1.discarded = false ∧ flight1.late = none ∧
      flight1.sent + crossing ((s.tctx 0 0).edge 0) tok1 ≤ s.cycle ∧ s.edgeEnd 0 0 0 = (0, 0) ∧ s.transomAt 0 (edgeDstT ((s.tctx 0 0).edge 0)) = false ∧ flight1.gen = (s.region 0).gen ∧
      (s.tctx 0 0).live = true ∧ ((s.region 0).colour 1).state ≠ 3 ∧ s.swapHolds 0 = false ∧ s.due = [] ∧
      (s.tctx 0 0).portOf 0 = some (0, 0) ∧ (s.tctx 0 0).headOf 0 1 = none ∧ (s.tctx 0 0).bucketHit tok1.tag 0 = false := by
  unfold Claims.fitsEdge; decide +kernel
theorem witness_Operators_arrival_sets : (arriving (wordOf 0 9 2 false)).canEnter 0 0 1 1 = true ∧
    ((arriving (wordOf 0 9 2 false)).tctx 0 0).complete 0 0 1 tok1 = none ∧
    ((arriving (wordOf 0 36 1 false)).tctx 0 0).complete 0 0 1 tok1 = some [] := by decide +kernel
theorem witness_Operators_arrival_queue : let s := { fab { ctx0 with slots := [], buffers := [] } (regionG .armed) with flights := [flight1] }
    (s.tctx (s.edgeEnd 0 0 0).1 0).portOf (s.edgeEnd 0 0 0).2 = none ∧ (s.tctx (s.edgeEnd 0 0 0).1 0).live = true := by decide +kernel
/-- AND, MAP with PASS, NRM, LUT, STE on both predicates, MRG and TAG each may fire. -/
theorem witness_Operators_firings : ∀ row ∈ [((0, 9) : Nat × Nat), (0, 36), (0, 35), (2, 0), (3, 0), (4, 0), (5, 1), (8, 1), (7, 0)],
    let x := setOf [on 0 tok1, on 1 tok1, on 2 tok1]
    let s := firing (wordOf row.1 row.2 3 false) 1 x
    Claims.mayFire s 0 0 1 row.1 x ∧ x.poison = none ∧ Claims.hasOut (s.tctx 0 0) 0 0 ∧ AMap.has (s.tctx 0 0).gens 0 = false ∧
      x.toks.find? (fun k => k.port != 3) = some (on 0 tok1) ∧ x.lead.payload.toNat < 2 ^ fieldW (s.tctx 0 0).tagw (1 % 8) := by
  unfold Claims.mayFire Claims.mayIssue Claims.hasOut; decide +kernel
/-- STE with each value of its predicate, and an edge on output 1. -/
theorem witness_Operators_steer : ∀ q ∈ [tok1, { tok1 with payload := 4 }], ∀ f ∈ [0, 1],
    let x := setOf [on 0 tok1, on 3 q]
    let s := firing (wordOf 4 f 1 true &&& ~~~(0xFF#64 <<< 32)) 0 x
    (∀ outs ∈ [[], [0], [1], [0, 1]], Claims.mayIssue s 0 0 1 4 x outs) ∧ x.on 0 = some tok1 ∧ x.on 3 = some q ∧ Claims.hasOut (s.tctx 0 0) 0 0 ∧
      Claims.hasOut (s.tctx 0 0) 0 1 := by unfold Claims.mayIssue Claims.hasOut; decide +kernel
/-- TAG: POP of a group that has a counter, PUSH, and POP with LASTONLY and without, of a last element and of another. -/
theorem witness_Operators_tags : let l := { tok1 with ctl := mkCtl false false 0 true false 0 }
    let count : Entry := { entry 0 7 tok1 with kind := .counter 3 }
    ∀ row ∈ [((0, 1) : Nat × Nat), (1, 1), (2, 1), (2, 9)],
      let x := setOf [on 0 l]
      let s := { fab { ctx0 with slots := [(0, (wordOf 8 row.1 1 false, BitVec.ofNat 64 row.2))], ready := [x], store := [count] } (regionG .armed) with serial := 8 }
      let c := s.tctx 0 0
      Claims.mayFire s 0 0 1 8 x ∧ Claims.mayIssue s 0 0 1 8 x [] ∧ ctlLast l.ctl = true ∧ ctlLast tok1.ctl = false ∧
        (c.store ++ c.sumped).find? (fun e => e.isCounter 0 x.lead.tag) = some count ∧ count.kind.next < 2 ^ fieldW c.tagw 1 ∧
        Claims.hasOut c 0 0 ∧ x.lead.payload.toNat < 2 ^ fieldW c.tagw 1 := by
  unfold Claims.mayFire Claims.mayIssue Claims.hasOut; decide +kernel
/-- Reductions of 2 elements and of 1, over field 1, without an accumulator and with one. -/
theorem witness_Operators_reduction : ∀ n ∈ [1, 2],
    let x := setOf [on 0 tok1]
    let a := wordOf 1 0 1 false
    let b := BitVec.ofNat 64 (n + 1 <<< 16)
    let acc : Entry := { entry 0 7 { tok1 with tag := setField ctx0.tagw 1 0 tok1.tag } with kind := .acc 0 none }
    ∀ store ∈ [[], [acc]],
      let s := { fab { ctx0 with slots := [(0, (a, b))], ready := [x], store := store } (regionG .armed) with serial := 8 }
      let c := s.tctx 0 0
      Claims.mayFire s 0 0 1 1 x ∧ c.accOf 0 (outerTag c 0 x.lead.tag) = store.head? ∧
        redClosed b (c.redNext 0 x) = decide (n = 1) ∧ x.poison = none ∧ ctlPoison (c.redAcc 0 x).tok.ctl = false ∧
        c.spoiled = [] ∧ Claims.hasOut c 0 0 ∧ x.seq < s.serial ∧ c.sumped = [] ∧
        (∀ y ∈ c.store ++ c.sumped, y.isToken = true → y.seq ≠ (c.redAcc 0 x).seq) := by
  unfold Claims.mayFire Claims.mayIssue Claims.hasOut; decide +kernel
/-- The last emission of a sequence of 1 by 1. -/
theorem witness_Operators_sequence : let a := wordOf 7 0 1 false
    let g : GenRun := { trigger := tok1, count := 0 }
    let c := (fab { ctx0 with slots := [(0, (a, 0x10001))], gens := [(0, g)] } (regionG .armed)).tctx 0 0
    AMap.find c.gens 0 = some g ∧ c.live = true ∧ Claims.hasOut c 0 0 ∧ ctlPoison g.trigger.ctl = false ∧ AMap.get 0 c.issuedAt 0 ≤ State.reset.cycle ∧
      (∀ k, k < 2 → waOut a k ≠ 0xFF → AMap.get [] c.stage (waOut a k) = []) := by unfold Claims.hasOut; decide +kernel
/-- Tile 0 with a JON slot whose streams wait with tokens of one tag. -/
def joining (p : Vec) : State := fab { ctx0 with
    slots := [(0, (wordOf 6 0 2 false, 0))]
    store := [entry 0 1 tok1, entry 1 2 { tok1 with payload := p }] } (regionG .armed)
/-- Equal coordinates; and a lower one on stream 0. -/
theorem witness_Operators_join : ∀ s ∈ [joining 5, joining 0x100000005],
    s.slotRuns 0 0 = true ∧ AMap.has (s.tctx 0 0).slots 0 = true ∧ waKind ((s.tctx 0 0).wordA 0) = 6 ∧
      s.turnOk (s.tctx 0 0) 0 1 (agedColours ((s.tctx 0 0).jonSets 0)) = true ∧
      ((firstSet (((s.tctx 0 0).jonSets 0).filter (fun y => y.colour == 1))).map (fun x => x.lead.tag)) = some tok1.tag ∧
      (s.tctx 0 0).jonHead 0 0 tok1.tag = some (entry 0 1 tok1) ∧
      ((s.tctx 0 0).jonHead 0 1 tok1.tag).map (fun e => (e.seq, ctlLast e.tok.ctl)) = some (2, false) ∧
      ctlLast tok1.ctl = false ∧ (s.tctx 0 0).sumped = [] ∧ (s.tctx 0 0).jons = [] := by decide +kernel
theorem witness_Operators_join_coordinates : jonCoord tok1 = jonCoord { tok1 with payload := 5 } ∧
    jonCoord tok1 < jonCoord { tok1 with payload := 0x100000005 } := by decide +kernel
/-- A token that holds the address 0x1040, which the colour's instance may use. -/
def tokAddr : Token := { tok1 with payload := 0x1040 }
/-- LDM; STM, AMOADD of 4 bytes and of 8. -/
theorem witness_Operators_memory : ∀ row ∈ [((9, 0) : Nat × Nat), (10, 0), (10, 2), (10, 3)],
    let x := setOf [on 0 tokAddr, on 1 tok1]
    let s := firing (wordOf row.1 row.2 (if row.1 = 9 then 1 else 2) false) 0 x
    let xs := (s.inst (s.instOfTag (s.tctx 0 0).region x.lead.tag)).elim [] (fun i => i.extents)
    Claims.mayFire s 0 0 1 row.1 x ∧ x.poison = none ∧ x.lead.word = 0x1040 ∧ x.on 0 = some tokAddr ∧ x.on 1 = some tok1 ∧
      (s.tctx 0 0).ldmWide 0 = false ∧ s.translate xs 0x1040 8 .read = some (0x200000040, 0, false) ∧
      s.translate xs 0x1040 8 .write = some (0x200000040, 0, false) ∧ (s.translate xs 0x1040 4 .atomic).isSome = true ∧
      (s.translate xs 0x1040 8 .atomic).isSome = true := by unfold Claims.mayFire Claims.mayIssue; decide +kernel
/-- An answered read of an LDM slot, and a performed write of an STM slot, whose outputs wait. -/
theorem witness_Operators_results :
    let o : MemOp := { op1 .read (.served 5 false) (.ldm 0 0 0 tok1.tag true false false) with reqs := [{ Req.make .read 0x1040 0x200000040 8 5 0 with state := .served 5 false, replied := true }], party := slotParty 0 0 0, core := none, tile := some 0 }
    let o2 : MemOp := { o with reqs := [], sink := .stm 0 0 0 tok1.tag true }
    let w : OutWait := ⟨0, 1, some 9, [], []⟩
    ∀ op ∈ [o, o2],
      let s := { fab { ctx0 with slots := [(0, (wordOf (if op == o then 9 else 10) 0 1 false, 0))], outs := [w] } (regionG .armed) with
        z := { Zalulo.reset with ops := [op], nextId := 10 } }
      s.op 9 = some op ∧ op.id = 9 ∧ s.opReady op = true ∧ op.answered = true ∧ s.stale op = false ∧ (s.tctx 0 0).outs = [w] ∧
        w.slot = 0 ∧ w.colour = tagColour tok1.tag ∧ Claims.hasOut (s.tctx 0 0) 0 0 ∧ op.badLine = none := by
  unfold Claims.hasOut; decide +kernel
/-- A colour that has borrowed one entry, with stall time 2, in cycle 4. -/
theorem witness_Operators_spill : let s := { fab { ctx0 with slots := [(0, (wordOf 0 9 2 false, 0))], store := [entry 0 1 tok1] }
        { regionG .armed with colours := [(1, { Colour.closed with state := 1, stall := 2, cap := 8 })] } with cycle := 4 }
    let c := s.tctx 0 0
    (∀ e ∈ c.store, e.colour = 1 → e.spill = none) ∧ c.live = true ∧ s.stalled c 1 = true ∧ (s.spillChoice c 1).contains 1 = true := by
  decide +kernel
theorem witness_Operators_spilled : let e := { entry 0 1 tok1 with spill := some 0 }
    let s := fab { ctx0 with store := [e], sumps := [(1, (0x2000, 4))] } (regionG .armed)
    let c := s.tctx 0 0
    c.store = [e] ∧ e.kind = .token ∧ AMap.get (0, 0) c.sumps e.colour = (0x2000, 4) ∧ c.sumped = [] ∧ Memory.wf (s.tile 0).loc = true := by
  decide +kernel
theorem witness_Operators_refill : let e := { entry 1 1 tok1 with spill := some 0 }
    let s := { fab { ctx0 with slots := [(0, (wordOf 0 9 2 false, 0))], buffers := [(0, [held1])], sumped := [e] } (regionG .armed) with cycle := 1 }
    let c := s.tctx 0 0
    c.portOf 0 = some (0, 0) ∧ c.headOf 0 1 = some held1 ∧ c.live = true ∧ s.swapHolds 0 = false ∧ e.tok.tag = held1.tok.tag ∧
      e.kind = .token ∧ c.store = [] ∧ (waPorts (c.wordA 0)).filter (fun p => p != 0) = [e.port] ∧ c.ready = [] ∧ 0 < s.cycle ∧
      ctlMact held1.tok.ctl = 0 ∧ ctlMact e.tok.ctl = 0 ∧ e.port ≠ 0 := by decide +kernel

/-! ### Instances and firings -/

/-- A casement of function f at slot f: the entry's, which a start token reaches, and the exit's, with a result on port 0
and a done token on port 1. -/
def casement (r : Region) (f port : Nat) (tok : Token) : State :=
  fab { ctxG with slots := [(f, (BitVec.ofNat 64 (11 + f <<< 4 + f <<< 17 + 0xFF <<< 32), 0))], ready := [⟨f, 1, 0, 0, [on port tok], 0⟩] } r
/-- Colour 1, whose exit is at slot 1. -/
def regionC (st : Nat) : Region := { regionG .armed with colours := [(1, { Colour.closed with state := st, xslot := 1, quota := 4 })] }
/-- To an open colour, and to a closed one. -/
theorem witness_InstancesAndFirings_entry :
    (∀ st ∈ [0, 1], ((casement (regionC st) 0 0 tok1).casementSet 0 0 0 1 0).isSome = true) ∧
    (casement (regionC 1) 0 0 tok1).serves 0 0 0 1 false = true ∧ ctlKind tok1.ctl ≠ 3 ∧ ctlMact tok1.ctl ≠ 3 ∧ tok1.launch = none ∧
    ((casement (regionC 1) 0 0 { tok1 with ctl := mkCtl false false 3 false false 0 }).casementSet 0 0 0 1 0).isSome = true ∧
    ctlKind (mkCtl false false 3 false false 0) = 3 := by decide +kernel
/-- A result, a poisoned one and a done token of an instance, and a late one. -/
theorem witness_InstancesAndFirings_exit :
    (∀ p ∈ [0, 1], let s := casement (regionC 1) 1 p tok1
      s.exitSet 0 0 1 1 p = some (⟨1, 1, 0, 0, [on p tok1], 0⟩, on p tok1) ∧
        s.exitInst 0 0 1 tok1 = some (⟨0, 1, 0⟩, inst1) ∧ s.inst ⟨0, 1, 0⟩ = some inst1) ∧
    (casement { regionC 1 with insts := [] } 1 0 tok1).exitInst 0 0 1 tok1 = none ∧
    ctlPoison (mkCtl false false 0 false true 0) = true := by decide +kernel
/-- The last admission that the quota lets through. -/
theorem witness_InstancesAndFirings_admit : let k : Colour := { Colour.closed with
      state := 1
      quota := 2
      louvre := [held1]
      drawn := [0]
      binds := [(0, ⟨0, 0, .device, 0⟩), (1, ⟨0, 0, .device, 0⟩)] }
    let s := fab ctxG { regionG .armed with colours := [(1, k)] }
    let r := s.region 0
    let tt := r.phys k.ntile
    r.colour 1 = k ∧ s.slotOpen tt r.ctx k.nslot = true ∧ ctlMact held1.tok.ctl = 0 ∧ r.admitting = true ∧ s.draining 0 = false ∧
      r.admitted 1 + r.heldDone 1 = 1 ∧ (∀ p ∈ r.image.ports, AMap.has k.binds p.1 = true) ∧ s.admitExtents r k = some [] ∧
      r.draw 1 = some 1 ∧ Claims.hasOut (s.tctx tt r.ctx) k.nslot 0 := by unfold Claims.hasOut; decide +kernel
theorem witness_InstancesAndFirings_sweep : let v : Verdict := { err := false, payload := 0 }
    let key : InstKey := ⟨0, 1, 0⟩
    let i := { inst1 with verdict := some v }
    let s := casement { regionC 1 with insts := [i] } 1 0 tok1
    s.inst key = some i ∧ 0 < (s.region 0).tileCount ∧ s.swaps = [] ∧ (∀ j, j < 4 → (s.core (256 + 4 * 0 + j)).run = .empty) ∧
      s.instBusy key i = false ∧ i.swept.contains 0 = false := by decide +kernel
theorem witness_InstancesAndFirings_completion : let v : Verdict := { err := true, payload := 5 }
    let key : InstKey := ⟨0, 1, 0⟩
    let i := { inst1 with verdict := some v, sweep := some [] }
    let s := casement { regionC 1 with insts := [i] } 1 0 tok1
    s.inst key = some i ∧ s.instBusy key i = false ∧ (∀ j ∈ (s.region 0).insts, j.colour = 1 → j.fired = none) ∧
      waOut ((s.tctx ((s.region 0).phys ((s.region 0).colour 1).xtile) 0).wordA ((s.region 0).colour 1).xslot) 1 = 0xFF := by
  decide +kernel
/-- A port bound to the record of one element, at its beginning. -/
def bound (out : Bool) (next : Nat) (toks : List Token) : State :=
  let b : PortBind := ⟨record1, 0, .device, 0⟩
  fab ctxG { regionG .armed with
    image := { image0 with ports := [(0, (0, out, 0))] }
    insts := [{ inst1 with binds := [(0, b)], ports := [⟨0, next, false, 0, none, toks, [], []⟩] }] }
theorem witness_InstancesAndFirings_input : ((bound false 0 []).portView ⟨0, 1, 0⟩ 0 false).any (fun v =>
    (bound false 0 []).portReady 0 0 0 v && !recordMisaligned (v.bind.record 0) && (bound false 0 []).z.ops.isEmpty &&
      (bound false 0 []).translate v.inst.extents (walkLoc (v.bind.record 0) 0).addr (walkLoc (v.bind.record 0) 0).bytes .read ==
        some (0x200000040, 0, false) && (unitPieces 0x200000040 4).length ≤ ((bound false 0 []).tile 0).window (bound false 0 []).root &&
      !((bound false 0 []).core (portParty 0)).firing.trace.dep && ((bound false 0 []).core (portParty 0)).firing.trace.reads.isEmpty) = true := by decide +kernel
/-- An element that is gathered, and one beyond the record. -/
theorem witness_InstancesAndFirings_output : ∀ next ∈ [0, 1], ((bound true next [tok1]).portView ⟨0, 1, 0⟩ 0 true).any (fun v =>
    v.run.toks == [tok1] && v.run.next == next && !((bound true next [tok1]).tile 0).fenced && !(bound true next [tok1]).swapHolds 0 &&
      (v.ripe 0).isNone && recCount (v.bind.record 0) == 1 && !recordMisaligned (v.bind.record 0) &&
      (bound true next [tok1]).translate v.inst.extents (walkLoc (v.bind.record 0) 0).addr 4 .write == some (0x200000040, 0, false) &&
      (walkLoc (v.bind.record 0) 0).bytes == 4) = true := by decide +kernel
/-- A gathered unit whose write may leave. -/
theorem witness_InstancesAndFirings_output_unit : let u : UnitWrite := ⟨0x1040, 0x200000040, 0, 5, 0xFFFFFFFF, none, false⟩
    let s := fab ctxG { regionG .armed with
      image := { image0 with ports := [(0, (0, true, 0))] }
      insts := [{ inst1 with
        binds := [(0, ⟨record1, 0, .device, 0⟩)]
        ports := [⟨0, 1, false, 0, none, [], [], [u]⟩] }] }
    (s.portView ⟨0, 1, 0⟩ 0 true).any (fun v => v.ripe 0 == some u) = true ∧ fullBytes u.bits = someBytes u.bits ∧ s.z.ops = [] ∧
      1 ≤ (s.tile 0).window s.root ∧ (s.core (portParty 0)).firing.trace.dep = false ∧
      (s.core (portParty 0)).firing.trace.reads = [] ∧ (s.tile 0).fenced = false ∧ s.swapHolds 0 = false := by decide +kernel
/-- A binding that takes one token of queue 0. -/
theorem witness_InstancesAndFirings_issue : let b : Binding := { entry := 0, qRates := [1], oRates := List.replicate 8 9 }
    let s := fab { ctx0 with binds := [(0, b)] } (regionG .armed)
    let c := s.tctx 0 0
    (s.core 256).run = .empty ∧ AMap.has c.saved 0 = false ∧ AMap.find c.binds 0 = some b ∧
      s.readySet 0 0 0 1 = some [held1] ∧ s.coreOpen 0 0 = true ∧ s.oldestReady 0 0 1 [held1] = true ∧
      s.turnOk c 24 1 (s.readyColours 0 0) = true := by decide +kernel
theorem witness_InstancesAndFirings_budget : let s := { act0 with cycle := 2048, regions := [(0, { region0 with preempting := true })] }
    isActor 256 = true ∧ (s.region (s.core 256).firing.region).preempting = true ∧ s.fcyc 256 = 2048 ∧ s.suspendable 256 = true ∧
      (match s.parkWalk 256 with | .ok _ => true | .error _ => false) = true := by
  decide +kernel
theorem witness_InstancesAndFirings_watchdog : let s := { act0 with cycle := 2 ^ 24 }
    (s.core 256).run ≠ .empty ∧ (s.core 256).run ≠ .ending ∧ s.fcyc 256 = 2 ^ 24 ∧ s.inst (s.firingInst 256) = some inst1 ∧ inst1.verdict = none := by decide +kernel
/-- Two regions of tile 0 in contexts 0 and 1: the second waits, with a start token of its own. -/
def shared (p : Bool) (r : RegionState) : State :=
  let k : Colour := { Colour.closed with state := 1, quota := 4, louvre := [held1] }
  { State.reset with
    cycle := 100
    tiles := [(0, { Tile.reset with ctxs := [(0, { ctxG with state := if p then .suspending else .active }),
      (1, { ctxG with state := .loaded, region := 1 })] })]
    regions := [(0, { regionG .armed with quantum := 100, preempting := p }),
      (1, { regionG r with ctx := 1, insts := [], colours := [(1, k)] })] }
theorem witness_InstancesAndFirings_quantum : (let s := { cmdG .armed sel1 with cycle := 100, regions := [(0, { regionG .armed with quantum := 100 })] }
    s.takers 0 = [] ∧ (s.region 0).quantum ≠ 0 ∧ (s.region 0).qStart + (s.region 0).quantum ≤ s.cycle) ∧
    (shared false .parked).takers 0 = [1] := by decide +kernel
theorem witness_InstancesAndFirings_activate :
    (∀ tt ∈ ((shared true .parked).region 0).sites, (shared true .parked).tileStopped tt 0 = true) ∧
    (shared true .parked).chooseTaker 0 = some 1 ∧ (shared true .suspended).chooseTaker 0 = some 1 ∧
    (shared true .unloaded).chooseTaker 0 = none := by decide +kernel

/-! ### Waiting commands -/

/-- Sequencer slot 0 with a waiting command. -/
def waiting (r : Region) (k : CmdKind) : State := { cmdG .armed sel1 with regions := [(0, r)], cmds := [cmd1 k] }
theorem witness_WaitingCommandsComplete_await :
    (let s := (waiting (regionG .armed) (.await 1 true 0 1)).modCore 0 (fun c => { c with inbox := [tok1] })
     s.cmd 9 = some (cmd1 (.await 1 true 0 1)) ∧ (s.core 0).run ≠ .empty ∧
       (s.core 0).inbox[s.awaitPlace (cmd1 (.await 1 true 0 1))]? = some tok1) ∧
    (let c := cmd1 (.await 2 true 0 1)
     let s := { waiting { regionG .armed with queue := [tok1] } (.await 2 true 0 1) with cmds := [{ cmd1 (.await 1 true 0 2) with id := 8 }, c] }
     let s1 := s.modCore 0 (fun k => { k with inbox := [tok1] })
     s.cmd 9 = some c ∧ s.awaitPlace c = 1 ∧ (s1.core 0).inbox[s1.awaitPlace c]? = none ∧ s1.awaitPick c = some tok1) ∧
    (let s := waiting { regionG .armed with queue := [tok1] } (.await 0 false 0 1)
     (s.region 0).state ≠ .unloaded ∧ s.awaitPick (cmd1 (.await 0 false 0 1)) = some tok1) := by decide +kernel
/-- A launch into an open colour with its lease, and into a closed one. -/
theorem witness_WaitingCommandsComplete_launch : ∀ st ∈ [0, 1],
    let l : Launch := ⟨9, 0, false, 0, 1, tok1, false⟩
    let k : Colour := { Colour.closed with state := st, lease := some 1 }
    let s := { waiting { regionG .armed with colours := [(1, k)] } (.lnch 0 tok1) with
      gals := [(0, { Gallery.reset with pool := [l] })]
      ls := { LeaseService.reset with leases := [⟨1, 0, 1, 0, 0, 0, [], false⟩] } }
    s.launch 9 = some l ∧ s.launchFirst (s.galleryOf 0) l = true ∧ ((s.region 0).colour 1).state = st ∧
      (((s.region 0).colour 1).lease.bind s.lease).isSome = true ∧ s.injWaiting 0 1 s.z.nextId = false ∧
      (match s.injection 0 1 tok1 with | .ready .. => true | _ => false) = true := by decide +kernel
/-- The words of the fields of an image. -/
def wordsIn (n : Nat) (fs : List (Nat × Nat)) : List Word :=
  (upTo n).map (fun k => BitVec.ofNat 64 (ofBytes (((bytesIn fs).drop (8 * k)).take 8)))
/-- An image of one tile with no slot, one colour row and a certificate of one range (R443, R444, R278, R304 to R306). -/
def rgn1 : List Word :=
  wordsIn 16 [(2, 1), (1, 0), (1, 0), (1, 1), (1, 1), (1, 1), (1, 0), (8, 12), (4, 0), (4, 1), (12, 0), (4, 128), (12, 0), (4, 4224),
    (8, 0), (4, 4288), (16, 0), (4, 4896)] ++
  wordsIn 4 [(2, 1), (1, 0), (1, 0), (2, 0), (1, 1), (1, 1), (6, 0), (1, 1), (1, 0), (8, 12)] ++ List.replicate 516 (0 : Word) ++
  wordsIn 10 [(2, 1), (1, 0), (1, 0), (2, 1), (2, 1), (4, 4), (52, 0), (8, 4 <<< 32)] ++ List.replicate 66 (0 : Word)
/-- A load at its first unit, at the last unit of the header, and past the end of what its slot may read. -/
theorem witness_WaitingCommandsComplete_cfgld : let s := waiting Region.unloaded (.cfgld 0x1000 0 false)
    (s.region 0).state = .unloaded ∧ s.genLive 0 = false ∧ cfgldUnit 0x1000 [] = some 0x1000 ∧
      cfgldUnit 0x1000 (rgn1.take 15) = some 0x1078 ∧ s.imageFault 0 0x1078 8 = none ∧ (s.imagePlace 0 0x1078).isSome = true ∧
      s.ownWrite (cmd1 (.cfgld 0x1000 0 false)) 0x200000078 8 = false ∧ cfgldUnit 0x1FF8 [0] = some 0x2000 ∧
      (s.imageFault 0 0x2000 8).isSome = true := by decide +kernel
/-- An image of zeros is no image; the other loads. -/
theorem witness_WaitingCommandsComplete_cfgld_loads : let s := waiting Region.unloaded (.cfgld 0x1000 0 false)
    let s0 := { s with tiles := [] }
    let status := fun (ws : List Word) => s0.loadStatus (cmd1 (.cfgld 0x1000 0 false)) 0 (imgOf ws 0) (readHeader (imgOf ws 0))
    cfgldUnit 0x1000 (List.replicate 16 0) = none ∧ status (List.replicate 16 0) = 0x22 ∧ cfgldUnit 0x1000 rgn1 = none ∧
      status rgn1 = 0 := by decide +kernel
theorem witness_WaitingCommandsComplete_loading : let s : State := { waiting (regionG .loaded) (.cfgld 0x1000 0 true) with
      tiles := [(0, { Tile.reset with ctxs := [(0, { ctxG with state := .loading })] })] }
    (s.region 0).state = .loaded ∧ (∀ tt ∈ (s.region 0).sites, (s.tctx tt 0).state = .loading) ∧ (s.region 0).tileCount = 1 ∧
      (waiting Region.unloaded (.cfgld 0x1000 0 true)).cmd 9 = some (cmd1 (.cfgld 0x1000 0 true)) := by decide +kernel
/-- A region whose contexts are loaded, one that is active, and one without a certificate range. -/
theorem witness_WaitingCommandsComplete_cfgsw : ∀ d ∈ [0, 20000],
    let c : TileCtx := { ctxG with state := .loaded, lsize := 0, blockSize := 0x10000, dsum := d }
    let s : State := { waiting { regionG .loaded with insts := [] } .cfgsw with tiles := [(0, { Tile.reset with ctxs := [(0, c)] })] }
    s.drainDone 0 = true ∧ s.isLoaded 0 0 = true ∧ s.occupants 0 = [] ∧ isActor 0 = false ∧ ((s.certify 0).1 = 0 ↔ d = 0) := by
  decide +kernel
theorem witness_WaitingCommandsComplete_cfgsw_active : let s := waiting { regionG .armed with insts := [] } .cfgsw
    s.drainDone 0 = true ∧ s.isLoaded 0 0 = false := by decide +kernel
/-- The greatest depth; one more than a tile's buffers hold; less than the certificate needs. -/
theorem witness_WaitingCommandsComplete_cfged :
    (∀ row ∈ [((4095, 0, 0) : Nat × Nat × Nat), (1, 16384, 0), (1, 0, 1)],
      let s := { waiting { regionG .armed with image := { image0 with tiles := [(0, ⟨0, 0, 0, 0, [(0, row.2.2)]⟩)] } } (.cfged 0 0 row.1) with
        tiles := [(0, { Tile.reset with ctxs := [(0, { ctxG with dsum := 64 + row.2.1 })] })] }
      let k := s.tctx 0 0
      let sum := (((s.loadedOn 0).map (fun x => x.dsum)).sum + row.1) - edgeDepth (k.edge 0)
      let need := ((AMap.find (s.region 0).image.tiles 0).elim 0 (fun x => AMap.get 0 x.we 0)) * (s.region 0).image.quotaAll
      AMap.get 0 k.spent 0 = 0 ∧ (s.region 0).state ≠ .suspended ∧ (s.region 0).preempting = false ∧ s.swapHolds 0 = false ∧
        (sum ≤ 16384 ↔ row.2.1 = 0) ∧ (need ≤ row.1 ↔ row.2.2 = 0)) := by decide +kernel
theorem witness_WaitingCommandsComplete_colours :
    (let s := waiting { regionG .armed with insts := [], colours := [(1, { Colour.closed with state := 2 })] } (.cclose 0)
     ((s.region 0).colour 1).state = 2 ∧ (s.region 0).admitted 1 = 0 ∧ (∀ x ∈ s.cmds, x.id ≠ 9 → x.kind.awaits false = false)) ∧
    (let s := waiting (regionG .armed) (.ckill 0)
     (∀ x ∈ s.cmds, x.id ≠ 9 → x.region ≠ 0 ∨ x.colour ≠ 1) ∧
       ((s.region 0).sites.foldl (fun st tt => st.killOn tt (s.region 0).ctx 0 1) s).colourQuiet 0 1 = true) ∧
    (let s := waiting { regionG .armed with insts := [] } (.barr 0)
     (s.region 0).state = .armed ∧ (s.region 0).insts = [] ∧ s.boundaryDone 0 s.z.nextId = true) ∧
    (waiting (regionG .armed) (.unbind 0 7)).cmd 9 = some (cmd1 (.unbind 0 7)) := by decide +kernel

/-! ### Nodes, walks and swaps -/

/-- A tile with the section record and a bank, whose passes are not used up. -/
def nodeCtx (k : Bank) (q : List Held) : TileCtx :=
  { ctx0 with mxs := some ⟨0, 1, 1, 0, 0, 0⟩, bank := k, passes := 8, buffers := [(queueBuf 0, q)] }
/-- A firing at an MXCFG. -/
theorem witness_NodesAndSwaps_acquire : let s := { act0 with
      cores := [(256, { firingCore1 with codeBase := 0x1000, codeSize := 0x100, codeExtent := { page with rd := true } })]
      regions := [(0, { region0 with insts := [inst1] })] }
    let s1 := s.withFetchWord 32 (0x5C <<< 2)
    isActor 256 = true ∧ s1.atCode 256 0x5C 0 = true ∧ (s1.firingCtx 256).mxs = none ∧ (s1.firingCtx 256).bank.owner = .none := by
  decide +kernel
theorem witness_NodesAndSwaps_queue : let q : MxQueued := ⟨256, .mpb 0x1000, 6, none, 0, 0⟩
    let k := { Bank.taken with owner := .core 256, queue := [q] }
    let s := fab (nodeCtx k []) (regionG .armed)
    (s.tctx 0 0).bank.queue = [q] ∧ (s.tctx 0 0).nodeRuns = true ∧ k.discard = false ∧ k.leaving = false ∧ s.memOpOpen q = true ∧
      s.blockFault 256 0x1000 (s.asyncRead 256 0 0 0x1000 144) = none ∧
      drnFmt 4 = 1 ∧ (∀ j, j < 32 → (k.drained 31 j).poisoned = false) := by decide +kernel
/-- A pass before its reads, and after. -/
theorem witness_NodesAndSwaps_pass : ∀ fetched ∈ [false, true],
    let r : Req := { Req.make .read 0x1040 0x200000040 8 5 0 with state := .served 5 false }
    let o := { op1 .write .buffered .discard with reqs := if fetched then [r] else [], pending := true }
    let q : MxQueued := ⟨256, .mul [] [] false 0, 6, some 9, 0, 0⟩
    let s := { fab (nodeCtx { Bank.taken with owner := .core 256, queue := [q] } []) (regionG .armed) with
      z := { Zalulo.reset with ops := [o], nextId := 10 } }
    s.op 9 = some o ∧ s.arcsMet o = true ∧ s.fetched o = true ∧ (o.reqs = [] ↔ fetched = false) ∧
      s.rowRevoked (s.extentsOf 256) (rowBytes 0 false) .read [] = none := by decide +kernel
theorem witness_NodesAndSwaps_drain : let o := { op1 .write .buffered .discard with reqs := [], pending := true }
    let q : MxQueued := ⟨256, .drainMem [] 4, 6, some 9, 0, 0⟩
    let s := { fab (nodeCtx { Bank.taken with owner := .core 256, queue := [q] } []) (regionG .armed) with
      z := { Zalulo.reset with ops := [o], nextId := 10 } }
    s.op 9 = some o ∧ o.pending = true ∧ s.memOpOpen q = true ∧
      s.rowRevoked (s.extentsOf 256) (32 * drainSize (drnFmt 4)) .write [] = none := by decide +kernel
/-- A token that ends its chain (ADR.DRN). -/
def tokDrn : Held := { held1 with tok := { tok1 with payload := 1 <<< 129 } }
theorem witness_NodesAndSwaps_chain : let s := fab (nodeCtx Bank.taken [held1, tokDrn]) (regionG .armed)
    (s.tctx 0 0).mxs.map (fun r => chainLength ((s.tctx 0 0).chainTokens r 1)) = some (some 2) ∧ s.slotRuns 0 0 = true ∧
      (s.tctx 0 0).bank.owner = .none ∧
      (s.tctx 0 0).mxs.map (fun r => s.turnOk (s.tctx 0 0) 25 1 (agedColours ((s.tctx 0 0).chainSets r))) = some true := by
  decide +kernel
/-- A pass of a chain that begins, one whose rows have come, and one of a poisoned token. -/
theorem witness_NodesAndSwaps_chain_pass : let o := { op1 .write .buffered .discard with reqs := [] }
    ∀ m ∈ [none, some 9],
      let s := { fab (nodeCtx { Bank.taken with owner := .colour 1, chain := 1, chainOp := m } [tokDrn]) (regionG .armed) with
        z := { Zalulo.reset with ops := [o], nextId := 10 } }
      (s.tctx 0 0).bank.owner = .colour 1 ∧ (s.tctx 0 0).nodeRuns = true ∧ (s.tctx 0 0).state = .active ∧ (s.tctx 0 0).bank.chain = 1 ∧
        (s.tctx 0 0).bank.chainOp = m ∧ (s.tctx 0 0).mxs.map (fun r => (s.tctx 0 0).chainTokens r 1) = some [tokDrn] ∧
        s.op 9 = some o ∧ s.opReady o = true ∧ s.fetched o = true ∧ ctlPoison tokDrn.tok.ctl = false := by decide +kernel
/-- The last token of a drain of format 1, and the last but one. -/
theorem witness_NodesAndSwaps_chain_drain : ∀ e ∈ [30, 31], let tok := { tokDrn.tok with payload := 1 <<< 130 }
    let s := fab (nodeCtx { Bank.taken with owner := .colour 1, drain := some (tok, e) } []) (regionG .armed)
    (s.tctx 0 0).bank.drain = some (tok, e) ∧ (s.tctx 0 0).state = .active ∧ (s.tctx 0 0).canSend 1 5 = true ∧
      32 * drainTokens (adrFmt tok) = 32 := by decide +kernel
theorem witness_NodesAndSwaps_channel : let s := { galQs.withFetchWord 32 (0x64 <<< 2) with gals := [(0, { Gallery.reset with
      channels := (upTo 7).map (fun c => (c, { Channel.free with owner := some 1 }))
      asks := [(0, (0, (galQs.core 0).pc))] })] }
    isActor 0 = false ∧ s.channelTurn 0 = true ∧ (s.channel (s.galleryOf 0) 7).owner = none ∧
      (∀ k, k < 7 → (s.channel (s.galleryOf 0) k).owner ≠ none) := by decide +kernel
theorem witness_NodesAndSwaps_walk : let o := { op1 .write .buffered .discard with reqs := [], pending := true }
    ∀ reading ∈ [false, true],
      let s := { galQs with
        gals := [(0, { Gallery.reset with
          channels := [(0, { Channel.free with owner := some 0, walk := some walk1, job := some ⟨.run, 9, reading⟩ })] })]
        z := { Zalulo.reset with ops := [o], nextId := 10 } }
      (s.channel 0 0).walk = some walk1 ∧ s.op 9 = some o ∧ s.arcsMet o = true ∧
        (s.place 0 walk1.area walk1.areaBytes .write).isSome = true ∧ walk1.tp = false ∧
        (s.place 0 walk1.src walk1.colBytes .read).isSome = true ∧ s.readsDone o = true ∧
        (∀ pa ∈ [0x200000400], s.chanWritePending o.scope (domainOf o.party) pa walk1.areaBytes = false) ∧
        (s.place 0 0x1040 walk1.ps .write).isSome = true := by decide +kernel
theorem witness_NodesAndSwaps_instant : let s := { fab ctxG { regionG .armed with policy := { SwapPolicy.reset with enabled := true } } with cycle := 2 ^ 16 }
    (s.region 0).policy.clock + 2 ^ (s.region 0).policy.ivl = s.cycle ∧ s.chosen 0 = [] ∧ (s.region 0).sites.Nodup ∧
      (∀ tt ∈ (s.region 0).sites, (s.tctx tt 0).live = true) := by decide +kernel
/-- A swap of tiles 0 and 1 in a step. -/
def swapping (st : SwapStep) (holds : List Nat) : State :=
  { fab ctxG { regionG .armed with image := { image0 with w := 2, h := 1 } } with
    swaps := [⟨1, 0, 0, 1, 0, 1, st, 0, 0, 0, none, holds⟩], serial := 2, cycle := 8192 }
theorem witness_NodesAndSwaps_boundary : let s := swapping .boundary []
    (s.swap 1).map (fun w => w.step) = some .boundary ∧ s.atBoundary 0 = true ∧ s.atBoundary 1 = true ∧
      (s.swap 1).map (fun w => w.start + 8192) = some s.cycle ∧ 1 < s.serial ∧
      ((swapping .transfer []).swap 1).map (fun w => w.step) = some .transfer := by decide +kernel
theorem witness_NodesAndSwaps_transom :
    (∀ holds ∈ [[0], [0, 1]], let s := swapping .transom holds
      (s.swap 1).map (fun w => w.holds) = some holds ∧ s.flights = []) ∧
    (∀ a ∈ [false, true], let f := { flight1 with late := some 1, arrived := a }
     let s := { swapping .transom [0] with flights := [f] }
     (s.flights.find? (fun f => f.late == some 1 && f.region == 0 && f.src == 0 && f.edge == 0 && tagColour f.tok.tag == 1)) = some f ∧
       (s.flights.find? (fun g => g.late == some 1 && g.arrived && s.flightDest g == s.flightDest f)) = (if f.arrived then some f else none) ∧
       Claims.fitsEdge ((s.tctx ((s.region 0).phys 0) 0).edge 0) tok1 ∧
       f.gen = (s.region 0).gen ∧ (s.tctx (s.edgeEnd 0 0 0).1 0).state ≠ .empty ∧ ((s.region 0).colour 1).state ≠ 3) := by
  unfold Claims.fitsEdge; decide +kernel

/-! ### Values that the spec's tables give -/

/-- D 1, A 2 and B 3 in the 32-bit form. -/
def rrr : Operands := { ops 0 with form := .w32 }
/-- What an instruction on sequencer slot 0 leaves in x1, with a in x2 and b in x3. -/
def x1After (i : Instr) (a b : Word) : Option Word :=
  match exec i (gal0.modCore 0 (fun c => { c with x := (c.x.set 2 a).set 3 b })) with
  | .next t => some ((t.core 0).rx 1)
  | _ => none
/-- What a floating-point instruction of a firing leaves in x1 and in FFLAGS (NV, DZ, OF, UF, NX from bit 4 down: R70). -/
def fx1After (i : Instr) (a b : Word) : Option (Word × BitVec 5) :=
  match exec i (act0.modCore 256 (fun c => { c with x := (c.x.set 2 a).set 3 b })) with
  | .next t => some ((t.core 256).rx 1, (t.core 256).firing.fflags)
  | _ => none
-- The table of borderline cases that follows R168 in 07_actor_scalar.md.
theorem test_shl : x1After (.shl rrr) 1 65 = some 2 := by decide +kernel
theorem test_addW : x1After (.addW rrr) 0x7FFFFFFF 1 = some 0xFFFFFFFF80000000 := by decide +kernel
theorem test_shrW : x1After (.shrW rrr) 0x80000000 0 = some 0xFFFFFFFF80000000 := by decide +kernel
theorem test_div : x1After (.div rrr) 0x8000000000000000 0xFFFFFFFFFFFFFFFF = some 0x8000000000000000 := by decide +kernel
theorem test_rem : x1After (.rem rrr) (-7) 2 = some (-1) := by decide +kernel
theorem test_divz : x1After (.divz rrr) 5 0 = some 0xFFFFFFFFFFFFFFFF := by decide +kernel
theorem test_remz : x1After (.remz rrr) 5 0 = some 5 := by decide +kernel
theorem test_clz : x1After (.clz rrr) 0 0 = some 64 := by decide +kernel
theorem test_fmin_zeros : fx1After (.fmin (ops 0)) 0 0x80000000 = some (0x80000000, 0) := by decide +kernel
theorem test_fmin_nan : fx1After (.fmin (ops 0)) 0x3F800000 0x7FC00000 = some (0x3F800000, 0) := by decide +kernel
theorem test_cvt_saturates : fx1After (.cvt { ops 12 with b := 0 }) 0x43488000 0 = some (127, 0x10) := by decide +kernel
theorem test_cvt_overflows : fx1After (.cvt { ops 1 with b := 8 }) 70000 0 = some (0x7C00, 5) := by decide +kernel
theorem test_frnd : fx1After (.frnd (ops 0)) 0x40200000 0 = some (0x40000000, 1) := by decide +kernel

/-! ### Values computed by hand from the spec's definitions -/

/-- The CRC-16 of R243 (0x1021 from 0xFFFF, the highest bit first): of the bytes 0x31 to 0x39, and of 176 zero bits. -/
theorem test_crc16 : crc16 (0x313233343536373839 : BitVec 72) = 0x29B1 ∧ crc16 (0 : BitVec 176) = 0x9FB4 := by decide +kernel
/-- A region with a quantum for QYLD, and one without. -/
theorem witness_ColourCommands_quantum : ∀ q ∈ [0, 1024],
    ({ cmdG .armed sel1 with regions := [(0, { regionG .armed with quantum := q })] } : State).takers 0 = [] := by decide +kernel
/-- The reply of a SYSC that asks for the cycle. -/
theorem witness_SystemInstructions_reply :
    ({ cmdG .armed sel1 with cmds := [cmd1 (.sysc 3 0 0)] } : State).cmd 9 = some (cmd1 (.sysc 3 0 0)) := by decide +kernel
/-- HALT of a slot with an AWAIT that waits, alone and beside a register that stays pending. -/
def awaiting (p : Word) : State :=
  { gal0.modCore 0 (fun k => { k with pendX := p, pendT := 0x40 }) with cmds := [{ cmd1 (.await 1 true 0 1) with done := 6 }] }
theorem witness_EndingAProgram_halt : ((awaiting 0x42).withdrawAwaits 0).me.quiet = true ∧
    ((awaiting 0x46).withdrawAwaits 0).me.quiet = false ∧ (awaiting 0x42).me.pendingX 1 = true := by decide +kernel

end Sys2Proof.Tests
end

section
/-! SUPPORT. The host's control space (R7, R458 to R461, R472, R473, R477, R478, R493): what a control read answers and clears,
which of four ways a control write goes, what a write that is let through does to its register, and the record that goes into the
event ring. -/

namespace Sys2Proof.Machine

/-! ### Sending, and changing an interface -/

section Updates
variable (s : State)

@[simp] theorem State.send_host (m : Sent) : (s.send m).host = { s.host with sent := s.host.sent ++ [m] } := rfl
@[simp] theorem State.send_iface (m : Sent) (i : Nat) : (s.send m).iface i = s.iface i := rfl
@[simp] theorem State.send_holder (m : Sent) (g : Nat) : (s.send m).holder g = s.holder g := rfl

@[simp] theorem State.modIface_iface (i : Nat) (f : Iface → Iface) : (s.modIface i f).iface i = f (s.iface i) :=
  AMap.get_put_same ..
theorem State.modIface_iface_ne {i j : Nat} (f : Iface → Iface) (h : j ≠ i) : (s.modIface i f).iface j = s.iface j :=
  AMap.get_put_ne _ _ h
@[simp] theorem State.modIface_sent (i : Nat) (f : Iface → Iface) : (s.modIface i f).host.sent = s.host.sent := rfl

@[simp] theorem State.postEvent_iface (src kind data i : Nat) : (s.postEvent src kind data).iface i = s.iface i := rfl
@[simp] theorem State.postEvent_sent (src kind data : Nat) : (s.postEvent src kind data).host.sent = s.host.sent := rfl

/-- The event that was produced last is the one that waits last for the ring. -/
theorem State.postEvent_reports (src kind data : Nat) : Claims.reports (s.postEvent src kind data) src kind data :=
  ⟨_, List.getLast?_concat .., rfl, rfl, rfl⟩

/-- Zeroising a key slot is nothing of the host's side. -/
@[simp] theorem State.keyzEffect_host (slot : Nat) : (s.keyzEffect slot).host = s.host := by
  unfold State.keyzEffect
  split
  · rfl
  · dsimp only
    split <;> rfl

/-- A state that has sent nothing since sends its next message alone. -/
theorem sends_send {s t : State} (h : t.host.sent = s.host.sent) (m : Sent) : Claims.sends s (t.send m) [m] :=
  congrArg (· ++ [m]) h

end Updates

/-! ### An interface's registers (R472, R473) -/

/-- The frozen registers' bits that are not reserved: the low 23, 28 and 12, and bits 12 to 43. -/
theorem frozenMask_testBit (b : Nat) : ∀ {r : Nat}, r < 4 → (frozenMask r).testBit b = (match r with
    | 0 => decide (b < 23)
    | 1 => decide (b < 28)
    | 2 => decide (b < 12)
    | _ => decide (12 ≤ b) && decide (b < 44))
  | 0, _ | 1, _ | 2, _ => Nat.testBit_two_pow_sub_one ..
  | 3, _ => by
    have shifted : frozenMask 3 = (2 ^ 32 - 1) <<< 12 := by decide
    rw [shifted, Nat.testBit_shiftLeft, Nat.testBit_two_pow_sub_one]
    by_cases h : 12 ≤ b
    · simp only [h, decide_true, Bool.true_and, decide_eq_decide]
      omega
    · simp [h]

/-- A frozen register keeps the bits written, but for the reserved ones. -/
theorem Iface.setReg_reg (k : Iface) {r : Nat} (hr : r < 4) (v : Nat) :
    (k.setReg r v).reg r = (BitVec.ofNat 64 (v &&& frozenMask r)).toNat := by
  match r, hr with
  | 0, _ | 1, _ | 2, _ | 3, _ => rfl

theorem Iface.setReg_reg_testBit (k : Iface) {r b : Nat} (hr : r < 4) (hb : b < 64) (v : Word) :
    ((k.setReg r v.toNat).reg r).testBit b = (v.getLsbD b && (frozenMask r).testBit b) := by
  rw [k.setReg_reg hr, BitVec.toNat_ofNat, Nat.testBit_mod_two_pow, Nat.testBit_and, decide_eq_true hb, Bool.true_and]
  rfl

section Interfaces
variable (s : State) {i r off : Nat}

@[simp] theorem State.ifError_sent : (s.ifError i off).host.sent = s.host.sent := by
  simp [State.ifError]

theorem State.ifError_st : ((s.ifError i off).iface i).st = 3 := by
  rw [State.ifError, State.postEvent_iface, State.iface, State.keyzEffect_host]
  exact congrArg Iface.st (s.modIface_iface i _)

theorem State.ifError_reports (hi : i < 64) (ho : off < 2 ^ 24) :
    Claims.reports (s.ifError i off) 16 7 (i + off * 2 ^ 64) := by
  rw [State.ifError, Nat.mod_eq_of_lt hi, Nat.mod_eq_of_lt ho]
  exact State.postEvent_reports ..

theorem State.writeIface_unlocked (hr : r < 4) (h : (s.iface i).st = 0) (v : Nat) :
    s.writeIface i r off v = s.modIface i (fun k => k.setReg r v) := by
  simp [State.writeIface, h, Nat.not_le.2 hr]

theorem State.writeIface_error (h : (s.iface i).st = 3) (v : Nat) : s.writeIface i r off v = s := by
  simp [State.writeIface, h]

theorem State.writeIface_locked (hr : r < 4) (h : (s.iface i).st = 1 ∨ (s.iface i).st = 2) (v : Nat) :
    s.writeIface i r off v = s.ifError i off := by
  rcases h with h | h <;> simp [State.writeIface, h, Nat.not_le.2 hr]

@[simp] theorem State.writeIface_sent (v : Nat) : (s.writeIface i r off v).host.sent = s.host.sent := by
  unfold State.writeIface
  split
  · rfl
  · split
    · rfl
    · rfl
    · exact s.ifError_sent

end Interfaces

/-! ### `CTLSEM` (R460) -/

/-- The holder of group g after a write of `v` to `CTLSEM`, from its holder `h` before. -/
def nextHolder (port v g h : Nat) : Nat :=
  if g = 0 || !v.testBit (16 + g) then h
  else if v.testBit 0 && h = 0 then port + 1
  else if !v.testBit 0 && h = port + 1 then 0
  else h

/-- A fold of steps, each of which changes the value at its own key only: every key of the list is changed once. -/
theorem AMap.get_foldl {α : Type} {d : α} {f : AMap α → Nat → AMap α} {next : Nat → α → α}
    (same : ∀ m g, AMap.get d (f m g) g = next g (AMap.get d m g))
    (other : ∀ m g q, q ≠ g → AMap.get d (f m g) q = AMap.get d m q) {q : Nat} :
    ∀ (l : List Nat) (m : AMap α), l.Nodup →
      AMap.get d (l.foldl f m) q = if q ∈ l then next q (AMap.get d m q) else AMap.get d m q
  | [], _, _ => by simp
  | g :: l, m, h => by
    obtain ⟨hg, hl⟩ := List.nodup_cons.1 h
    rw [List.foldl_cons, AMap.get_foldl same other l _ hl]
    by_cases e : q = g
    · subst e
      simp [hg, same]
    · simp [e, other _ _ _ e]

theorem AMap.get_erase_same {α : Type} (d : α) (m : AMap α) (k : Nat) : AMap.get d (AMap.erase m k) k = d := by
  simp [AMap.get, AMap.find_erase_same]

theorem AMap.get_erase_ne {α : Type} (d : α) (m : AMap α) {k q : Nat} (h : q ≠ k) :
    AMap.get d (AMap.erase m k) q = AMap.get d m q := by
  simp [AMap.get, AMap.find_erase_ne m h]

theorem State.writeCtlsem_holder (s : State) (port v : Nat) {g : Nat} (hg : g < 16) :
    (s.writeCtlsem port v).holder g = nextHolder port v g (s.holder g) := by
  unfold State.writeCtlsem State.holder
  dsimp only
  rw [AMap.get_foldl (next := nextHolder port v), if_pos (by simpa [upTo] using hg)]
  · intro m g
    unfold nextHolder
    split
    · rfl
    · split
      · exact AMap.get_put_same ..
      · split
        · exact AMap.get_erase_same ..
        · rfl
  · intro m g q h
    split
    · rfl
    · split
      · exact AMap.get_put_ne _ _ h
      · split
        · exact AMap.get_erase_ne _ _ h
        · rfl
  · exact List.nodup_range

/-- Bit 16 + g of `CTLSEM` as CTLSEM_ACQUIRE (bit 0 set) and CTLSEM_RELEASE (bit 0 clear) write it is the mask's bit of group g. -/
theorem ctlsemWord_testBit (mask : Nat) {g low : Nat} (hg : 1 ≤ g) (hg' : g < 16) (hl : low < 2) :
    (BitVec.ofNat 64 (mask % 2 ^ 15 * 2 ^ 17 + low)).toNat.testBit (16 + g) = mask.testBit (g - 1) := by
  have pos : 16 + g = 17 + (g - 1) := by omega
  rw [BitVec.toNat_ofNat, Nat.testBit_mod_two_pow, Nat.mul_comm, pos,
    Nat.testBit_two_pow_mul_add _ (by omega : low < 2 ^ 17), if_neg (by omega), Nat.add_sub_cancel_left,
    Nat.testBit_mod_two_pow, decide_eq_true (by omega : 17 + (g - 1) < 64), decide_eq_true (by omega : g - 1 < 15)]
  simp

theorem ctlsemWord_testBit_zero (mask : Nat) {low : Nat} (hl : low < 2) :
    (BitVec.ofNat 64 (mask % 2 ^ 15 * 2 ^ 17 + low)).toNat.testBit 0 = decide (low = 1) := by
  rw [BitVec.toNat_ofNat, Nat.testBit_zero]
  congr 1
  apply propext
  omega

/-- CTLSEM_ACQUIRE takes the free groups of its mask. -/
theorem nextHolder_acquire (port mask h : Nat) {g : Nat} (hg : 1 ≤ g) (hg' : g < 16) :
    nextHolder port (BitVec.ofNat 64 (mask % 2 ^ 15 * 2 ^ 17 + 1)).toNat g h =
      if mask.testBit (g - 1) && h == 0 then port + 1 else h := by
  rw [nextHolder, ctlsemWord_testBit mask hg hg' (by omega), ctlsemWord_testBit_zero mask (by omega)]
  have : g ≠ 0 := by omega
  cases mask.testBit (g - 1) <;> simp [this]

/-- CTLSEM_RELEASE frees the writer's groups of its mask. -/
theorem nextHolder_release (port mask h : Nat) {g : Nat} (hg : 1 ≤ g) (hg' : g < 16) :
    nextHolder port (BitVec.ofNat 64 (mask % 2 ^ 15 * 2 ^ 17)).toNat g h =
      if mask.testBit (g - 1) && h == port + 1 then 0 else h := by
  rw [nextHolder, ← Nat.add_zero (mask % 2 ^ 15 * 2 ^ 17), ctlsemWord_testBit mask hg hg' (by omega),
    ctlsemWord_testBit_zero mask (by omega)]
  have : g ≠ 0 := by omega
  cases mask.testBit (g - 1) <;> simp [this]

/-! ### Control reads -/

section Reads
variable (s : State) (port : Nat) {off : Nat}

/-- A read of anything but `VIOLADDR` and `IFSTAT` clears nothing. -/
theorem State.controlRead_plain (h : off ≠ 8) (hg : groupOf off ≠ 5) :
    s.controlRead port off = s.send (.value port (BitVec.ofNat 64 (s.controlValue off))) := by
  simp [State.controlRead, h, hg]

theorem State.controlRead_violaddr : s.controlRead port 8 =
    let s1 := s.send (.value port (BitVec.ofNat 64 s.host.violation))
    { s1 with host := { s1.host with violCnt := 0 } } := rfl

/-- The registers of an interface stand 64 bytes apart, 8 bytes each. -/
theorem ifaceOffset_parts {i r : Nat} (hi : i < 64) (hr : r < 8) :
    groupOf (0x500000 + 64 * i + 8 * r) = 5 ∧ (0x500000 + 64 * i + 8 * r) % 8 = 0 ∧
      0x500000 + 64 * i + 8 * r < 0x501000 ∧ (0x500000 + 64 * i + 8 * r - 0x500000) / 64 = i ∧
      (0x500000 + 64 * i + 8 * r) % 64 / 8 = r := by
  unfold groupOf
  omega

theorem State.controlValue_iface {i r : Nat} (hi : i < 64) (hr : r < 8) :
    s.controlValue (0x500000 + 64 * i + 8 * r) = (s.iface i).reg r := by
  obtain ⟨hg, h8, hlt, hdiv, hreg⟩ := ifaceOffset_parts hi hr
  simp only [State.controlValue, hg, h8, hlt, hdiv, hreg, decide_true, Bool.and_self, if_true]

theorem State.controlRead_ifstat {i : Nat} (hi : i < 64) : s.controlRead port (0x500000 + 64 * i + 8 * 4) =
    (s.send (.value port (BitVec.ofNat 64 ((s.iface i).reg 4)))).modIface i (fun k => { k with drop := 0 }) := by
  obtain ⟨hg, -, hlt, hdiv, -⟩ := ifaceOffset_parts (r := 4) hi (by omega)
  have h8 : 0x500000 + 64 * i + 8 * 4 ≠ 8 := by omega
  have h64 : (0x500000 + 64 * i + 8 * 4) % 64 = 32 := by omega
  unfold State.controlRead
  rw [if_neg h8, if_pos (by simp [hg, h64, hlt]), s.controlValue_iface hi (by omega), hdiv]

end Reads

/-! ### The four ways of a control write (R459, R460, R475, R476) -/

section Writes
variable {s : State} {port off : Nat}

theorem semTaken_of_ne_zero (h : off ≠ 0) : s.semTaken port off = false := by
  simp [State.semTaken, h]

theorem controlWrite_closed (ht : s.semTaken port off = false) (hb : s.host.bootStep < 5) (v : Word) :
    s.controlWrite port off v = s.send (.ack port false) := by
  simp [State.controlWrite, ht, hb]

theorem controlWrite_held (hb : 5 ≤ s.host.bootStep) (hg : groupOf off ≠ 0) (ho : s.holder (groupOf off) = 2 - port)
    (v : Word) : s.controlWrite port off v = (s.logViolation port off).send (.ack port false) := by
  have hne : off ≠ 0 := fun e => hg (by simp [e, groupOf])
  simp [State.controlWrite, semTaken_of_ne_zero hne, Nat.not_lt.2 hb, State.heldByOther, hg, ho]

theorem controlWrite_through (ht : s.semTaken port off = false) (hm : Claims.mayWrite s port off) (v : Word) :
    s.controlWrite port off v = (s.writeGroup port off v).send (.ack port true) := by
  obtain ⟨-, hb, hlt, hne, ho⟩ := hm
  have hfree : s.heldByOther port off = false := by
    rw [State.heldByOther, Bool.and_eq_false_imp]
    exact fun hg => decide_eq_false (ho (by simpa [groupOf] using hg))
  have hok : writeAllowed off = true := by
    have : groupOf off < 7 := Nat.div_lt_of_lt_mul hlt
    simp [writeAllowed, this, hne]
  simp [State.controlWrite, ht, Nat.not_lt.2 hb, hfree, hok]

/-- Once bring-up has opened the control space, each port may write the first group, which no port ever holds. -/
theorem mayWrite_groupZero (hp : port < 2) (hb : 5 ≤ s.host.bootStep) (h : groupOf off = 0) : Claims.mayWrite s port off := by
  unfold groupOf at h
  exact ⟨hp, hb, by omega, by omega, fun hg => absurd h hg⟩

/-- What a port may write of a group, it may write of the group's other registers, but for `BOOTST`. -/
theorem mayWrite_sameGroup {off' : Nat} (h : Claims.mayWrite s port off) (hg : off' / 0x100000 = off / 0x100000)
    (hne : off' ≠ 0x100000) : Claims.mayWrite s port off' := by
  obtain ⟨hp, hb, hlt, -, ho⟩ := h
  exact ⟨hp, hb, by omega, hne, hg ▸ ho⟩

/-- The log of refused writes keeps the first one's address and port until it is cleared, and counts each up to 65,535 (R460). -/
theorem logViolation_fields (s : State) (port off : Nat) :
    (s.logViolation port off).host.violCnt = min (s.host.violCnt + 1) 0xFFFF ∧ (s.logViolation port off).host.violV = true ∧
      (s.host.violV = false → (s.logViolation port off).host.violAddr = off ∧
        (s.logViolation port off).host.violPort = port) ∧
      (s.host.violV = true → (s.logViolation port off).host.violAddr = s.host.violAddr ∧
        (s.logViolation port off).host.violPort = s.host.violPort) ∧
      (s.logViolation port off).host.sent = s.host.sent := by
  cases h : s.host.violV <;> simp [State.logViolation, h]

end Writes

/-! ### The registers that a write that is let through changes -/

section Groups
variable (s : State) (port : Nat) (v : Word)

theorem State.writeGroup_ctlsem : s.writeGroup port 0 v = s.writeCtlsem port v.toNat := rfl

theorem State.writeGroup_violaddr (h : v.toNat.testBit 63 = true) :
    s.writeGroup port 8 v = { s with host := { s.host with violV := false } } := by
  simp [State.writeGroup, groupOf, h]

theorem State.writeGroup_plim : (s.writeGroup port 0x200000 v).host.plimW =
    if 1000 ≤ v.toNat % 2 ^ 16 ∧ v.toNat % 2 ^ 16 ≤ 8000 then v.toNat % 2 ^ 16 else s.host.plimW := by
  simp [State.writeGroup, groupOf, apply_ite (fun t : State => t.host.plimW)]

theorem State.writeGroup_cxl {off : Nat} (h : groupOf off = 3) : s.writeGroup port off v = s.writeCxl off v := by
  simp [State.writeGroup, h]

theorem State.writeCxl_get (off : Nat) : AMap.get 0 (s.writeCxl off v).host.cxl off = v := AMap.get_put_same ..

theorem State.writeGroup_evtb :
    (s.writeGroup port 0x400000 v).host.evtb = v.toNat % 2 ^ 52 / 2 ^ 17 * 2 ^ 17 := by
  have : bitsAt v.toNat 51 17 = v.toNat % 2 ^ 52 / 2 ^ 17 := by
    simp only [bitsAt, Nat.shiftRight_eq_div_pow]
    omega
  simp [State.writeGroup, groupOf, this]

theorem State.writeGroup_evttail : (s.writeGroup port 0x400010 v).host.evttail =
    if s.host.evttail ≤ v.toNat ∧ v.toNat ≤ s.host.evthead then v.toNat else s.host.evttail := by
  simp [State.writeGroup, groupOf, apply_ite (fun t : State => t.host.evttail)]

theorem State.writeGroup_evtack : s.writeGroup port 0x400018 v = s.ackFault v.toNat := by
  simp [State.writeGroup, groupOf]

theorem State.writeGroup_iface {i r : Nat} (hi : i < 64) (hr : r < 8) :
    s.writeGroup port (0x500000 + 64 * i + 8 * r) v = s.writeIface i r (0x500000 + 64 * i + 8 * r) v.toNat := by
  obtain ⟨hg, h8, hlt, hdiv, hreg⟩ := ifaceOffset_parts hi hr
  simp only [State.writeGroup, hg, h8, hlt, hdiv, hreg, decide_true, Bool.and_self, if_true]

/-- No control write sends anything of its own accord: its response is all that the host sees. -/
theorem State.writeGroup_sent (off : Nat) : (s.writeGroup port off v).host.sent = s.host.sent := by
  unfold State.writeGroup
  dsimp only
  split
  · split
    · rfl
    · split <;> rfl
  · split <;> rfl
  · rfl
  · split
    · rfl
    · split
      · rfl
      · split <;> rfl
  · split
    · exact s.writeIface_sent _
    · rfl
  · split <;> rfl
  · rfl

/-- The answer to a page fault is the verdict of the fault that it names and that has none, and of no other (R463, R493). -/
theorem State.ackFault_faults {f : PageFault} (hf : f ∈ s.ls.faults) :
    (f.num / 2 = v.toNat / 2 ∧ f.verdict = none → { f with verdict := some (v.getLsbD 0) } ∈
      (s.ackFault v.toNat).ls.faults) ∧
      (¬ (f.num / 2 = v.toNat / 2 ∧ f.verdict = none) → f ∈ (s.ackFault v.toNat).ls.faults) := by
  constructor
  · intro h
    exact List.mem_map.2 ⟨f, hf, by simp [h, BitVec.getLsbD]⟩
  · intro h
    exact List.mem_map.2 ⟨f, hf, if_neg (by simpa using h)⟩

end Groups

/-! ### The event ring (R461) -/

theorem length_dropFirst {α : Type} {f : α → Bool} {x : α} :
    ∀ {l : List α}, l.find? f = some x → (dropFirst f l).length + 1 = l.length
  | y :: l, h => by
    unfold dropFirst
    cases hy : f y with
    | true => simp
    | false =>
      rw [List.find?_cons_of_neg (by simp [hy])] at h
      simp [length_dropFirst h]

/-- Bytes read inside a range just written are that part of the number. -/
theorem Memory.readN_writeN {m : Memory} (hm : Memory.wf m = true) (a n v : Nat) :
    ∀ {j k : Nat}, k + j ≤ n → Memory.readN (Memory.writeN m a n v) (a + k) j = v / 256 ^ k % 256 ^ j
  | 0, _, _ => by simp [Memory.readN, Nat.mod_one]
  | j + 1, k, h => by
    have rest := Memory.readN_writeN hm a n v (j := j) (k := k + 1) (by omega)
    rw [Memory.readN, Memory.read_writeN n hm, if_pos (by omega), Nat.add_sub_cancel_left, Nat.add_assoc, rest,
      BitVec.toNat_ofNat, Nat.pow_succ 256 k, ← Nat.div_div_eq_div_mul, Nat.pow_succ' (n := j), Nat.mod_mul]

/-- The fields of a record stand at bytes 0, 8, 10 and 16. -/
theorem EventRec.bytes_fields (e : EventRec) :
    e.bytes / 256 ^ 0 % 256 ^ 8 = e.num % 2 ^ 64 ∧ e.bytes / 256 ^ 8 % 256 ^ 2 = e.kind % 2 ^ 16 ∧
      e.bytes / 256 ^ 10 % 256 ^ 1 = e.src % 2 ^ 8 ∧ e.bytes / 256 ^ 16 % 256 ^ 16 = e.data % 2 ^ 128 := by
  unfold EventRec.bytes
  omega

theorem execEventRecordWrite_room {s : State} {src : Nat} {e : EventRec} (hb : s.host.evtb ≠ 0)
    (hroom : s.host.evthead - s.host.evttail < 4096) (he : s.host.events.find? (fun x => x.src == src) = some e) :
    execEventRecordWrite src s = .next { s with host := { s.host with
      mem := Memory.writeN s.host.mem (s.host.evtb + 32 * (s.host.evthead % 4096)) 32 e.bytes
      evthead := s.host.evthead + 1
      events := dropFirst (fun x => x.src == src) s.host.events } } := by
  simp [execEventRecordWrite, HostSide.ringReady, hb, hroom, he]

/-! ### What the messages of a port do, once what came before on it has been issued (R458) -/

/-- A message that writes at an offset and is let through: its effect, and the response of success. -/
theorem exec_write_through {s : State} {port off : Nat} {i : Instr} {v : Word} {P : State → Prop}
    (he : exec i s = .next (s.controlWrite port off v)) (ht : s.semTaken port off = false) (hm : Claims.mayWrite s port off)
    (hP : P ((s.writeGroup port off v).send (.ack port true))) :
    ∃ t, exec i s = .next t ∧ Claims.sends s t [.ack port true] ∧ P t := by
  refine ⟨_, he, ?_⟩
  rw [controlWrite_through ht hm]
  exact ⟨sends_send (s.writeGroup_sent port v off) _, hP⟩

section Ports
variable {s : State} {port : Nat} (hp : port < 2) (hi : s.portIssued port s.z.nextId = true)
include hp hi

theorem onPort_issued (f : State → State) : onPort port s f = .next (f s) := by
  simp [onPort, hp, hi]

/-- An event whose meaning is a message of the port does what the message says. -/
theorem exec_message {i : Instr} (f : State → State) (h : exec i s = onPort port s f) : exec i s = .next (f s) :=
  h.trans (onPort_issued hp hi f)

theorem exec_controlRead {off : Nat} (ho : off < 2 ^ 24) :
    exec (.controlRead port off) s = .next (s.controlRead port off) := by
  rw [exec_message hp hi (fun s => s.controlRead port (off % 2 ^ 24)) rfl, Nat.mod_eq_of_lt ho]

theorem exec_controlWrite {off : Nat} (ho : off < 2 ^ 24) (v : Word) :
    exec (.controlWrite port off v) s = .next (s.controlWrite port off v) := by
  rw [exec_message hp hi (fun s => s.controlWrite port (off % 2 ^ 24) v) rfl, Nat.mod_eq_of_lt ho]

theorem exec_ifstatRead {i : Nat} (h : i < 64) :
    exec (.ifstatRead port i) s = .next (s.controlRead port (0x500000 + 64 * i + 8 * 4)) := by
  rw [exec_message hp hi (fun s => s.controlRead port (0x500000 + 64 * (i % 64) + 32)) rfl, Nat.mod_eq_of_lt h]

theorem exec_frozenRegisterWrite {i r : Nat} (h : i < 64) (hr : r < 4) (v : Word) :
    exec (.frozenRegisterWrite port i r v) s = .next (s.controlWrite port (0x500000 + 64 * i + 8 * r) v) := by
  rw [exec_message hp hi (fun s => s.controlWrite port (0x500000 + 64 * (i % 64) + 8 * (r % 4)) v) rfl, Nat.mod_eq_of_lt h,
    Nat.mod_eq_of_lt hr]

theorem exec_controlRead_register {off x : Nat} (ho : off < 2 ^ 24) (hc : off ≠ 8) (hg : groupOf off ≠ 5)
    (hx : s.controlValue off = x) :
    ∃ t, exec (.controlRead port off) s = .next t ∧ Claims.sends s t [.value port (BitVec.ofNat 64 x)] ∧
      t.cores = s.cores := by
  refine ⟨_, exec_controlRead hp hi ho, ?_⟩
  rw [s.controlRead_plain port hc hg, hx]
  exact ⟨sends_send rfl _, rfl⟩

theorem exec_violaddrRead : ∃ t, exec (.violaddrRead port) s = .next t ∧
    Claims.sends s t [.value port (BitVec.ofNat 64 s.host.violation)] ∧ t.host.violCnt = 0 ∧ t.host.violV = s.host.violV :=
  ⟨_, exec_message hp hi (fun s => s.controlRead port 8) rfl, rfl, rfl, rfl⟩

theorem exec_ifstatRead_clears {i : Nat} (h : i < 64) : ∃ t, exec (.ifstatRead port i) s = .next t ∧
    Claims.sends s t [.value port (BitVec.ofNat 64 ((s.iface i).reg 4))] ∧
    t.iface i = { s.iface i with drop := 0 } ∧ ∀ j, j ≠ i → t.iface j = s.iface j := by
  refine ⟨_, exec_ifstatRead hp hi h, ?_⟩
  rw [s.controlRead_ifstat port h]
  exact ⟨rfl, State.modIface_iface .., fun j hj => State.modIface_iface_ne _ _ hj⟩

theorem exec_controlWrite_held {off : Nat} (ho : off < 2 ^ 24) (hb : 5 ≤ s.host.bootStep) (hg : groupOf off ≠ 0)
    (hh : s.holder (groupOf off) = 2 - port) (v : Word) :
    ∃ t, exec (.controlWrite port off v) s = .next t ∧ Claims.sends s t [.ack port false] ∧
      t.host.violCnt = min (s.host.violCnt + 1) 0xFFFF ∧ t.host.violV = true ∧
      (s.host.violV = false → t.host.violAddr = off ∧ t.host.violPort = port) ∧
      (s.host.violV = true → t.host.violAddr = s.host.violAddr ∧ t.host.violPort = s.host.violPort) := by
  refine ⟨_, exec_controlWrite hp hi ho v, ?_⟩
  rw [controlWrite_held hb hg hh]
  obtain ⟨hcnt, hv, hfirst, hlater, hsent⟩ := logViolation_fields s port off
  exact ⟨sends_send hsent _, hcnt, hv, hfirst, hlater⟩

theorem exec_controlWrite_cxl {off : Nat} (hg : groupOf off = 3) (hm : Claims.mayWrite s port off) (v : Word) :
    ∃ t, exec (.controlWrite port off v) s = .next t ∧ Claims.sends s t [.ack port true] ∧ AMap.get 0 t.host.cxl off = v := by
  have hoff : off ≠ 0 ∧ off < 2 ^ 24 := by
    unfold groupOf at hg
    omega
  refine exec_write_through (exec_controlWrite hp hi hoff.2 v) (semTaken_of_ne_zero hoff.1) hm ?_
  rw [State.send_host, s.writeGroup_cxl port v hg]
  exact s.writeCxl_get v off

theorem exec_controlWrite_plim (hm : Claims.mayWrite s port 0x200000) (v : Word) :
    ∃ t, exec (.controlWrite port 0x200000 v) s = .next t ∧ Claims.sends s t [.ack port true] ∧
      t.host.plimW = (if 1000 ≤ v.toNat % 2 ^ 16 ∧ v.toNat % 2 ^ 16 ≤ 8000 then v.toNat % 2 ^ 16 else s.host.plimW) :=
  exec_write_through (exec_controlWrite hp hi (by decide) v) (semTaken_of_ne_zero (by decide)) hm (s.writeGroup_plim port v)

theorem exec_ctlsemAcquire (hb : 5 ≤ s.host.bootStep) (ht : s.semTaken port 0 = false) (mask : Nat) :
    ∃ t, exec (.ctlsemAcquire port mask) s = .next t ∧ Claims.sends s t [.ack port true] ∧ ∀ g, 1 ≤ g → g < 16 →
      t.holder g = if mask.testBit (g - 1) && s.holder g == 0 then port + 1 else s.holder g := by
  refine exec_write_through
    (exec_message hp hi (fun s => s.controlWrite port 0 (BitVec.ofNat 64 (mask % 2 ^ 15 * 2 ^ 17 + 1))) rfl)
    ht (mayWrite_groupZero hp hb rfl) fun g hg hg' => ?_
  rw [State.send_holder, State.writeGroup_ctlsem, State.writeCtlsem_holder _ _ _ hg', nextHolder_acquire _ _ _ hg hg']

theorem exec_ctlsemRelease (hb : 5 ≤ s.host.bootStep) (ht : s.semTaken port 0 = false) (mask : Nat) :
    ∃ t, exec (.ctlsemRelease port mask) s = .next t ∧ Claims.sends s t [.ack port true] ∧ ∀ g, 1 ≤ g → g < 16 →
      t.holder g = if mask.testBit (g - 1) && s.holder g == port + 1 then 0 else s.holder g := by
  refine exec_write_through (exec_message hp hi (fun s => s.controlWrite port 0 (BitVec.ofNat 64 (mask % 2 ^ 15 * 2 ^ 17))) rfl)
    ht (mayWrite_groupZero hp hb rfl) fun g hg hg' => ?_
  rw [State.send_holder, State.writeGroup_ctlsem, State.writeCtlsem_holder _ _ _ hg', nextHolder_release _ _ _ hg hg']

theorem exec_violaddrClear (hb : 5 ≤ s.host.bootStep) :
    ∃ t, exec (.violaddrClear port) s = .next t ∧ Claims.sends s t [.ack port true] ∧
      t.host.violV = false ∧ t.host.violCnt = s.host.violCnt := by
  refine exec_write_through (exec_message hp hi (fun s => s.controlWrite port 8 (BitVec.ofNat 64 (2 ^ 63))) rfl)
    (semTaken_of_ne_zero (by decide)) (mayWrite_groupZero hp hb rfl) ?_
  rw [s.writeGroup_violaddr port _ (by decide)]
  exact ⟨rfl, rfl⟩

theorem exec_frozenRegisterWrite_through {i r : Nat} (h : i < 64) (hr : r < 4)
    (hm : Claims.mayWrite s port (0x500000 + 64 * i + 8 * r)) (v : Word) :
    ∃ t, exec (.frozenRegisterWrite port i r v) s = .next t ∧ Claims.sends s t [.ack port true] ∧
      ((s.iface i).st = 0 → ∀ b, b < 64 → ((t.iface i).reg r).testBit b = (v.getLsbD b && (frozenMask r).testBit b)) ∧
      ((s.iface i).st = 3 → t.iface i = s.iface i) ∧
      ((s.iface i).st = 1 ∨ (s.iface i).st = 2 → (t.iface i).st = 3 ∧
        Claims.reports t 16 7 (i + (0x500000 + 64 * i + 8 * r) * 2 ^ 64)) := by
  refine exec_write_through (exec_frozenRegisterWrite hp hi h hr v) (semTaken_of_ne_zero (by omega)) hm ?_
  rw [s.writeGroup_iface port v h (by omega), State.send_iface]
  refine ⟨fun hs b hb => ?_, fun hs => ?_, fun hs => ?_⟩
  · rw [s.writeIface_unlocked hr hs, State.modIface_iface, Iface.setReg_reg_testBit _ hr hb]
  · rw [s.writeIface_error hs]
  · rw [s.writeIface_locked hr hs]
    exact ⟨s.ifError_st, s.ifError_reports h (by omega)⟩

theorem exec_evtbWrite (hm : Claims.mayWrite s port 0x400000) (v : Word) :
    ∃ t, exec (.evtbWrite port v) s = .next t ∧ Claims.sends s t [.ack port true] ∧
      t.host.evtb = v.toNat % 2 ^ 52 / 2 ^ 17 * 2 ^ 17 :=
  exec_write_through (exec_message hp hi (fun s => s.controlWrite port 0x400000 v) rfl)
    (semTaken_of_ne_zero (by decide)) hm (s.writeGroup_evtb port v)

theorem exec_evttailWrite (hm : Claims.mayWrite s port 0x400010) (v : Word) :
    ∃ t, exec (.evttailWrite port v) s = .next t ∧ Claims.sends s t [.ack port true] ∧
      t.host.evttail = if s.host.evttail ≤ v.toNat ∧ v.toNat ≤ s.host.evthead then v.toNat else s.host.evttail :=
  exec_write_through (exec_message hp hi (fun s => s.controlWrite port 0x400010 v) rfl)
    (semTaken_of_ne_zero (by decide)) hm (s.writeGroup_evttail port v)

theorem exec_evtack (hm : Claims.mayWrite s port 0x400018) (v : Word) :
    ∃ t, exec (.evtack port v) s = .next t ∧ Claims.sends s t [.ack port true] ∧ ∀ f ∈ s.ls.faults,
      (f.num / 2 = v.toNat / 2 ∧ f.verdict = none → { f with verdict := some (v.getLsbD 0) } ∈ t.ls.faults) ∧
      (¬ (f.num / 2 = v.toNat / 2 ∧ f.verdict = none) → f ∈ t.ls.faults) := by
  refine exec_write_through (exec_message hp hi (fun s => s.controlWrite port 0x400018 v) rfl)
    (semTaken_of_ne_zero (by decide)) hm ?_
  rw [s.writeGroup_evtack port v]
  exact fun f hf => s.ackFault_faults v hf

end Ports

/-- A record goes into the ring at its head, with its fields at their bytes, and waits no longer (R461). -/
theorem exec_eventRecordWrite {s : State} {src : Nat} {e : EventRec} (hb : s.host.evtb ≠ 0)
    (hroom : s.host.evthead - s.host.evttail < 4096) (hm : Memory.wf s.host.mem = true)
    (he : s.host.events.find? (fun x => x.src == src) = some e) :
    ∃ t, exec (.eventRecordWrite src) s = .next t ∧ t.host.evthead = s.host.evthead + 1 ∧
      t.host.events.length + 1 = s.host.events.length ∧
      Memory.readN t.host.mem (s.host.evtb + 32 * (s.host.evthead % 4096)) 8 = e.num % 2 ^ 64 ∧
      Memory.readN t.host.mem (s.host.evtb + 32 * (s.host.evthead % 4096) + 8) 2 = e.kind % 2 ^ 16 ∧
      Memory.readN t.host.mem (s.host.evtb + 32 * (s.host.evthead % 4096) + 10) 1 = e.src % 2 ^ 8 ∧
      Memory.readN t.host.mem (s.host.evtb + 32 * (s.host.evthead % 4096) + 16) 16 = e.data % 2 ^ 128 := by
  obtain ⟨hnum, hkind, hsrc, hdata⟩ := e.bytes_fields
  have field {k j : Nat} := Memory.readN_writeN hm (s.host.evtb + 32 * (s.host.evthead % 4096)) 32 e.bytes (k := k) (j := j)
  exact ⟨_, execEventRecordWrite_room hb hroom he, rfl, length_dropFirst he, (field (k := 0) (by decide)).trans hnum,
    (field (by decide)).trans hkind, (field (by decide)).trans hsrc, (field (by decide)).trans hdata⟩

/-- Settles O52: each message goes one of the ways of a control read or a control write, and each register has a lemma of its
own for what its access does. -/
theorem hostControlSpace : Obligations.HostControlSpace := by
  unfold Obligations.HostControlSpace
  intro s port v hp hi
  refine ⟨?reads, exec_violaddrRead hp hi, fun i h => exec_ifstatRead_clears hp hi h, ?closed, ?held, ?cxl, ?plim, ?ctlsem,
    exec_violaddrClear hp hi, ?frozen, ?events, ?ring⟩
  case reads =>
    intro off x ho hx
    simp only [List.mem_cons, Prod.mk.injEq, List.not_mem_nil, or_false] at hx
    obtain ⟨rfl, rfl⟩ | ⟨rfl, rfl⟩ | ⟨rfl, rfl⟩ | ⟨rfl, rfl⟩ | ⟨rfl, rfl⟩ := hx <;>
      exact exec_controlRead_register hp hi ho (by decide) (by decide)
        (by simp [State.controlValue, groupOf, HostSide.bootst])
  case closed =>
    intro off ho ht hb
    rw [exec_controlWrite hp hi ho, controlWrite_closed ht hb]
  case held => exact fun off ho hb hg hh => exec_controlWrite_held hp hi ho hb hg hh v
  case cxl => exact fun off hg hm => exec_controlWrite_cxl hp hi hg hm v
  case plim => exact fun hm => exec_controlWrite_plim hp hi hm v
  case ctlsem => exact fun hb ht mask => ⟨exec_ctlsemAcquire hp hi hb ht mask, exec_ctlsemRelease hp hi hb ht mask⟩
  case frozen =>
    intro i r h hr hm
    obtain ⟨t, ht, hsend, hopen, hrest⟩ := exec_frozenRegisterWrite_through hp hi h hr hm v
    have hbits := fun b => congrArg (v.getLsbD b && ·) (frozenMask_testBit b hr)
    exact ⟨t, ht, hsend, fun hs b hb => (hopen hs b hb).trans (hbits b), hrest⟩
  case events =>
    exact fun hm => ⟨exec_evtbWrite hp hi hm v, exec_evttailWrite hp hi (mayWrite_sameGroup hm (by decide) (by decide)) v,
      exec_evtack hp hi (mayWrite_sameGroup hm (by decide) (by decide)) v⟩
  case ring => exact fun src e hb hroom hm he => exec_eventRecordWrite hb hroom hm he

end Sys2Proof.Machine
end

section
/-! SUPPORT. The engines that an instruction may run on (R21, R22): what an instruction of one engine is the issue of, and the
fault that it raises elsewhere, before any other (R104). -/

namespace Sys2Proof.Machine

/-! ### The engines of a use -/

/-- Only actor cores may execute the use. -/
def Use.actorOnly (u : Use) : Prop := u.gallery = false ∧ u.root = false
/-- Actor cores may not execute the use. -/
def Use.notActor (u : Use) : Prop := u.actor = false
/-- Only the root may execute the use. -/
def Use.rootOnly (u : Use) : Prop := u.actor = false ∧ u.gallery = false

section Legal
variable {s : State} {u : Use}

theorem Use.actorOnly.illegal (h : u.actorOnly) (hs : isActor s.cur = false) : s.legalOn u = false := by
  obtain ⟨hg, hr⟩ := h
  unfold State.legalOn
  cases he : engineOf s.cur with
  | actor => simp [isActor, he] at hs
  | gallery => exact hg
  | root => exact hr

theorem Use.notActor.illegal (h : u.notActor) (ha : isActor s.cur = true) : s.legalOn u = false := by
  have he : engineOf s.cur = .actor := by simpa [isActor] using ha
  simp only [State.legalOn, he]
  exact h

theorem Use.rootOnly.illegal (h : u.rootOnly) (hg : engineOf s.cur = .gallery) : s.legalOn u = false := by
  simp only [State.legalOn, hg]
  exact h.2

end Legal

/-! ### What an instruction is the issue of -/

/-- The outcome is the issue of a use with the property: nothing comes before the check of the engine. -/
def issuesAs (s : State) (legal : Use → Prop) (x : Out) : Prop := ∃ u k, x = issue u s k ∧ legal u

namespace issuesAs
variable {s : State} {o : Operands} {legal : Use → Prop}

/-- The issue of an illegal use raises the engine-illegal fault. -/
theorem faults {x : Out} (h : issuesAs s legal x) (hl : ∀ u, legal u → s.legalOn u = false) :
    x = s.raise (exc 0x02 0x00) := by
  obtain ⟨u, k, rfl, hu⟩ := h
  exact issue_illegal (hl u hu) k

theorem own {u : Use} {k : Regs → State → Out} (h : legal u) : issuesAs s legal (issue u s k) := ⟨u, k, rfl, h⟩

/-! Each instruction of one engine is one issue, as its definition says, of a use that names the engine: its own, or that of the
operation that it shares with others. -/

variable (s o)

theorem of_actorOnly : ∀ i ∈ Claims.actorOnly o, i ≠ .cvt o → issuesAs s Use.actorOnly (exec i s) := by
  simp only [Claims.actorOnly, List.forall_mem_cons, ne_eq, reduceCtorEq, not_false_eq_true, forall_const, not_true,
    false_imp_iff, true_and, List.not_mem_nil, implies_true, and_true]
  unfold exec
  dsimp only
  delta execFadd execFsub execFmul execFma execFms execFdiv execFsqrt execFmin execFmax execFabs execFneg execFeq execFlt
    execFle execFunord execFclass execFrnd execEndFiring execEmit execEmitp execPeek execTagrd execTagmk execVadd execVsub
    execVmul execVfma execVfms execVmin execVmax execVabs execVneg execVand execVor execVxor execVshl execVshr execVsha
    execVeq execVlt execVle execVun execVcvt execVrnd execVscl execVexp execVmov execVbc execVsel execVperm execVslide
    execViota execVins execVxtr execVrsum execVrmax execVrmin execVldl execVstl execVldg execVsts execVld execVst execVqrd
    execVowr execVexp2f execVlog2f execVrcp execVrsq execCordSin execCordCos execCordAtn execCordHyp execMand execMor execMxor
    execMandn execMnot execMpop execMfst execMmov execMset execShld execShst execShbq execSmap execSred execScvt execScpy
    execMxcfg execMxzero execMxmul execMxdrnMemory execMxdrnQueue execMxdrnRegisters execMxmsk execMxmpb execMxwait floatOp2
    floatOp3 floatOp1 emitToken vectorOp2 vectorOp1 vectorCompare vectorReduce cordOp maskOp maskToX streamIssue drainOp
  and_intros <;> exact own ⟨rfl, rfl⟩

/-- CVT of 96 bits is refused for its length, before its issue. -/
theorem of_cvt (h : o.form ≠ .w96) : issuesAs s Use.actorOnly (exec (.cvt o) s) := ⟨_, _, if_neg h, rfl, rfl⟩

theorem of_sequencerOnly : ∀ i ∈ Claims.sequencerOnly o, i ≠ .halt o → issuesAs s Use.notActor (exec i s) := by
  simp only [Claims.sequencerOnly, List.forall_mem_cons, ne_eq, reduceCtorEq, not_false_eq_true, forall_const, not_true,
    false_imp_iff, true_and, List.not_mem_nil, implies_true, and_true]
  unfold exec
  dsimp only
  delta execSamp execAcpt execCmit execSeedFresh execSeedExplicit execSeedReplay execSeedClear execCfgldLoad execCfgldUnload
    execCfgsw execCfgck execCfged execBind execUnbind execPortwGatcnt execPortwCompletions execPortwDiscards execPortwReply
    execArm execInj execAwaitCompletion execAwaitInbox execAwaitEither execBarr execCopen execCclose execCquota execCkill
    execLease execUnlease execLnchW execLnchN execQset execQyld execTcrd execSwpol execSwpenEnable execSwpenDisable execSwpx
    execSwplg execSyscImageExtent execSyscSlotEvent execSyscTimestamp execEret seedForms cfgldForms onRegion window fabric
    awaitForms launchForms swpenForms sysCall
  and_intros <;> exact own rfl

theorem of_rootOnly : ∀ i ∈ Claims.rootOnly o, issuesAs s Use.rootOnly (exec i s) := by
  simp only [Claims.rootOnly, List.forall_mem_cons, List.not_mem_nil, false_imp_iff, implies_true, and_true]
  unfold exec
  dsimp only
  delta execKeyld execKeyz execIfstLock execIfstRun execIfstStop execIfrpt sec ifst
  and_intros <;> exact own ⟨rfl, rfl⟩

end issuesAs

/-- HALT is the issue of no use: it looks at the engine itself, before it withdraws anything. -/
theorem exec_halt_actor {o : Operands} {s : State} (h : isActor s.cur = true) : exec (.halt o) s = s.raise (exc 0x02 0x00) :=
  if_pos h

/-- Settles O12: an instruction of one engine is the issue of a use that the other engines may not execute; HALT alone makes
that check itself. -/
theorem wrongEngineFaults : Obligations.WrongEngineFaults := by
  unfold Obligations.WrongEngineFaults
  intro o s
  refine ⟨fun hs i hi hc => ?_, fun ha i hi => ?_, fun hg i hi => ?_⟩
  · have h : issuesAs s Use.actorOnly (exec i s) := by
      by_cases e : i = .cvt o
      · exact e ▸ issuesAs.of_cvt s o (hc e)
      · exact issuesAs.of_actorOnly s o i hi e
    exact h.faults fun u hu => hu.illegal hs
  · obtain hi | hi := List.mem_append.1 hi
    · by_cases e : i = .halt o
      · exact e ▸ exec_halt_actor ha
      · exact (issuesAs.of_sequencerOnly s o i hi e).faults fun u hu => hu.illegal ha
    · exact (issuesAs.of_rootOnly s o i hi).faults fun u hu => Use.notActor.illegal hu.1 ha
  · exact (issuesAs.of_rootOnly s o i hi).faults fun u hu => hu.illegal hg

end Sys2Proof.Machine
end

section
/-! SUPPORT. The end of a firing by a fault (R30, R100, R156 to R158): what the release of what a slot holds leaves alone, what
becomes of its operations and of its slot, and the verdict that its `Inst` takes. -/

namespace Sys2Proof.Machine

/-! ### Sending tokens and returning credits: the tiles and the tokens on their way alone change (R303) -/

/-- Everything but the tiles and the tokens on their way is as it was. -/
def State.onlyFabric (s t : State) : Prop := t = { s with tiles := t.tiles, flights := t.flights }

namespace State.onlyFabric

theorem refl (s : State) : State.onlyFabric s s := rfl

theorem trans {s t w : State} (a : State.onlyFabric s t) (b : State.onlyFabric t w) : State.onlyFabric s w := by
  unfold State.onlyFabric at *
  rw [b, a]

theorem of_fold {α : Type} {f : State → α → State} (hf : ∀ s a, State.onlyFabric s (f s a)) (l : List α) (s : State) :
    State.onlyFabric s (l.foldl f s) := by
  induction l generalizing s with
  | nil => exact refl s
  | cons a l ih => exact (hf s a).trans (ih _)

variable {s t : State}

theorem eq (h : State.onlyFabric s t) : t = { s with tiles := t.tiles, flights := t.flights } := h
theorem cores (h : State.onlyFabric s t) : t.cores = s.cores := by rw [h.eq]
theorem regions (h : State.onlyFabric s t) : t.regions = s.regions := by rw [h.eq]
theorem cycle (h : State.onlyFabric s t) : t.cycle = s.cycle := by rw [h.eq]

end State.onlyFabric

section Credits
variable (s : State)

theorem modCtx_onlyFabric (t c : Nat) (f : TileCtx → TileCtx) : State.onlyFabric s (s.modCtx t c f) := rfl

theorem countTraffic_onlyFabric (region tile self peer n : Nat) :
    State.onlyFabric s (s.countTraffic region tile self peer n) := by
  unfold State.countTraffic
  dsimp only
  split <;> rfl

theorem sendOn_onlyFabric (tile ctx e : Nat) (tok : Token) : State.onlyFabric s (s.sendOn tile ctx e tok) :=
  ((modCtx_onlyFabric s ..).trans (countTraffic_onlyFabric _ ..)).trans rfl

theorem emitOn_onlyFabric (t ctx e : Nat) (tok : Token) : State.onlyFabric s (s.emitOn t ctx e tok) := by
  unfold State.emitOn
  dsimp only
  split
  · exact sendOn_onlyFabric s ..
  · exact modCtx_onlyFabric s ..

theorem emitOrd_onlyFabric (t ctx e : Nat) : State.onlyFabric s (s.emitOrd t ctx e) := by
  unfold State.emitOrd
  split
  · exact .refl s
  · exact (modCtx_onlyFabric s ..).trans (emitOn_onlyFabric _ ..)

theorem drainStage_onlyFabric (tile ctx e n : Nat) : State.onlyFabric s (State.drainStage tile ctx e n s) := by
  induction n generalizing s with
  | zero => exact .refl s
  | succ n ih =>
    unfold State.drainStage
    dsimp only
    split
    · exact .refl s
    · have sent (c tok) : State.onlyFabric s ((s.modCtx tile ctx c).sendOn tile ctx e tok) :=
        (modCtx_onlyFabric s ..).trans (sendOn_onlyFabric _ ..)
      split
      · split
        · exact (sent ..).trans (emitOrd_onlyFabric _ ..)
        · exact (sent ..).trans (ih _)
      · exact .refl s

theorem returnCredit_onlyFabric (region : Nat) (src : Option (Nat × Nat)) (weight : Nat) :
    State.onlyFabric s (s.returnCredit region src weight) := by
  unfold State.returnCredit
  split
  · exact .refl s
  · dsimp only
    split
    · exact .refl s
    · exact (modCtx_onlyFabric s ..).trans (drainStage_onlyFabric _ ..)

theorem dropReserved_onlyFabric (p : Nat) : State.onlyFabric s (s.dropReserved p) :=
  (modCtx_onlyFabric s ..).trans (.of_fold (fun st _ => returnCredit_onlyFabric st ..) _ _)

end Credits

/-! ### What the end of a firing leaves alone, and what becomes of its slot -/

section Ending
variable (s : State) (p : Nat)

@[simp] theorem dropReserved_cores : (s.dropReserved p).cores = s.cores := (dropReserved_onlyFabric s p).cores
@[simp] theorem dropReserved_regions : (s.dropReserved p).regions = s.regions := (dropReserved_onlyFabric s p).regions
@[simp] theorem dropReserved_cycle : (s.dropReserved p).cycle = s.cycle := (dropReserved_onlyFabric s p).cycle

@[simp] theorem freeChannel_cores (g : Nat) : (s.freeChannel p g).cores = s.cores := rfl
@[simp] theorem freeChannel_regions (g : Nat) : (s.freeChannel p g).regions = s.regions := rfl
@[simp] theorem freeChannel_cycle (g : Nat) : (s.freeChannel p g).cycle = s.cycle := rfl
@[simp] theorem freeChannel_z (g : Nat) : (s.freeChannel p g).z = s.z := rfl

@[simp] theorem freeBank_cores (d : Bool) : (s.freeBank p d).cores = s.cores := rfl
@[simp] theorem freeBank_regions (d : Bool) : (s.freeBank p d).regions = s.regions := rfl
@[simp] theorem freeBank_cycle (d : Bool) : (s.freeBank p d).cycle = s.cycle := rfl
@[simp] theorem freeBank_z (d : Bool) : (s.freeBank p d).z = s.z := rfl

@[simp] theorem dropResults_cores : (s.dropResults p).cores = s.cores := rfl
@[simp] theorem dropResults_regions : (s.dropResults p).regions = s.regions := rfl
@[simp] theorem dropResults_cycle : (s.dropResults p).cycle = s.cycle := rfl

/-- A core's operations go on without it: nothing but the operations, the copies and the streams changes. -/
theorem detachOps_frame (party : Nat) :
    s.detachOps p party = { s with
      z := (s.detachOps p party).z
      copies := (s.detachOps p party).copies
      streams := (s.detachOps p party).streams } := by
  unfold State.detachOps
  split <;> rfl

@[simp] theorem detachOps_cores (party : Nat) : (s.detachOps p party).cores = s.cores := by rw [detachOps_frame]
@[simp] theorem detachOps_regions (party : Nat) : (s.detachOps p party).regions = s.regions := by rw [detachOps_frame]
@[simp] theorem detachOps_cycle (party : Nat) : (s.detachOps p party).cycle = s.cycle := by rw [detachOps_frame]

theorem core_congr {s t : State} (h : t.cores = s.cores) (q : Nat) : t.core q = s.core q := by
  rw [State.core, h, State.core]

theorem inst_congr {s t : State} (h : t.regions = s.regions) (k : InstKey) : t.inst k = s.inst k := by
  rw [State.inst, State.region, h, State.inst, State.region]

@[simp] theorem leaveSlot_core (d : Bool) : (s.leaveSlot p d).core p = Core.reset := State.setCore_core ..
theorem leaveSlot_core_ne {q : Nat} (d : Bool) (h : q ≠ p) : (s.leaveSlot p d).core q = s.core q := by
  rw [State.leaveSlot, State.setCore_core_ne _ _ h]
  exact core_congr (by simp) q
@[simp] theorem leaveSlot_regions (d : Bool) : (s.leaveSlot p d).regions = s.regions := by simp [State.leaveSlot]
@[simp] theorem leaveSlot_cycle (d : Bool) : (s.leaveSlot p d).cycle = s.cycle := by simp [State.leaveSlot]

theorem endFiring_core_ne {q : Nat} (h : q ≠ p) : (s.endFiring p).core q = s.core q := by
  unfold State.endFiring
  dsimp only
  split
  · exact leaveSlot_core_ne _ p true h
  · exact State.modCore_core_ne _ _ h
@[simp] theorem endFiring_regions : (s.endFiring p).regions = s.regions := by
  unfold State.endFiring
  dsimp only
  split <;> simp
@[simp] theorem endFiring_cycle : (s.endFiring p).cycle = s.cycle := by
  unfold State.endFiring
  dsimp only
  split <;> simp

/-- A request whose value is dropped stays its core's. -/
theorem core_dropped (q : Option Nat) (o : MemOp) (pending : Bool) :
    (if o.core == q then { o with sink := .discard, done := 0, pending := pending } else o).core = o.core := by
  split <;> rfl

/-- Once the values of its requests are dropped, a core is drained where each of its operations is one that its end withdraws. -/
theorem dropResults_drained :
    (s.dropResults p).drained p = true ↔ ∀ x ∈ s.z.ops, x.core = some p → x.unserved = true := by
  simp only [State.drained, State.dropResults, Bool.not_eq_true', List.any_eq_false, List.forall_mem_map, core_dropped,
    List.mem_filter]
  refine ⟨fun h x hx hp => ?_, fun h x ⟨hx, hkept⟩ hp => ?_⟩
  · cases hu : x.unserved with
    | true => rfl
    | false => exact absurd (by simp [hp]) (h x ⟨hx, by simp [hu]⟩)
  · simp [hp, h x hx (by simpa using hp)] at hkept

/-- The slot of a firing that ends is empty at once, or issues nothing more, by whether an operation is under way (R30, R100). -/
theorem endFiring_slotOver : Claims.slotOver s (s.endFiring p) p := by
  have hd := dropResults_drained ((s.freeChannel p (galleryOfTile (tileOf p))).freeBank p true) p
  simp only [freeBank_z, freeChannel_z] at hd
  unfold Claims.slotOver State.endFiring
  dsimp only
  split
  case isTrue h =>
    refine ⟨fun _ => leaveSlot_core .., fun ⟨x, hx, hp, hu⟩ => ?_⟩
    simp [hd.1 h x hx hp] at hu
  case isFalse h => exact ⟨fun hall => absurd (hd.2 hall) h, fun _ => by simp⟩

/-- Of the state before, what an end comes to depends on the operations alone. -/
theorem slotOver_congr {s s' t : State} {p : Nat} (h : s'.z = s.z) (ht : Claims.slotOver s' t p) : Claims.slotOver s t p := by
  rwa [Claims.slotOver, h] at ht

/-- What an ended firing has issued has completed: its slot empties, with no register left (R100, R380). -/
theorem reap_core (ha : isActor p = true) (he : (s.core p).run = .ending) (hd : s.drained p = true) :
    (s.reap p).core p = Core.reset := by
  simp [State.reap, ha, he, hd]

end Ending

/-! ### The verdict of an `Inst` (R17, R19) -/

section Verdict
variable {s : State} {k : InstKey} {i : Inst}

theorem endable_iff {cycle nest : Nat} :
    i.endable cycle nest = true ↔ i.verdict = none ∨ ∃ w, i.verdict = some w ∧ w.cycle = cycle ∧ nest < w.nest := by
  unfold Inst.endable
  cases i.verdict <;> simp

/-- A change that keeps each `Inst`'s name reaches the one that is named. -/
theorem modInst_inst {f : Inst → Inst} (hf : ∀ j : Inst, (f j).is k.colour k.f0 = j.is k.colour k.f0) :
    (s.modInst k f).inst k = (s.inst k).map f := by
  have hname : (fun j : Inst => (if j.is k.colour k.f0 then f j else j).is k.colour k.f0) = fun j => j.is k.colour k.f0 := by
    funext j
    split
    · exact hf j
    · rfl
  simp only [State.inst, State.modInst, State.modRegion_region, List.find?_map, Function.comp_def, hname]
  cases h : (s.region k.region).insts.find? (fun j => j.is k.colour k.f0) with
  | none => rfl
  | some j => simp [List.find?_some h]

theorem setVerdict_inst (h : s.inst k = some i) (tag : Word) (err : Bool) (pay : Vec) :
    (s.setVerdict k tag err pay).inst k = some (if i.endable s.cycle (tagNest tag) then { i with
      verdict := some { err := err, payload := pay, cycle := s.cycle, nest := tagNest tag }
      fired := none } else i) := by
  rw [State.setVerdict, modInst_inst, h]
  · rfl
  · intro j
    split <;> rfl

end Verdict

/-! ### The payload of an error completion (R158) -/

/-- Bits of a number that lie within a vector's width are those of the vector. -/
theorem toNat_ofNat_bits {lo w n : Nat} (h : lo + w ≤ n) (x : Nat) :
    (BitVec.ofNat n x).toNat / 2 ^ lo % 2 ^ w = x / 2 ^ lo % 2 ^ w := by
  obtain ⟨d, rfl⟩ := Nat.exists_eq_add_of_le h
  rw [BitVec.toNat_ofNat, Nat.add_assoc, Nat.pow_add, Nat.mod_mul_right_div_self,
    Nat.mod_mod_of_dvd _ (Nat.pow_dvd_pow 2 (Nat.le_add_right ..))]

section Payload
variable {e : Exc} {bnd slot ltile fcyc : Nat} {pc tag : Word}

theorem errPayload_code (hc : e.code < 2 ^ 8) : (errPayload e bnd slot ltile pc fcyc tag).toNat % 2 ^ 8 = e.code := by
  have h := toNat_ofNat_bits (lo := 0) (w := 8) (n := 512) (by decide)
  simp only [Nat.pow_zero, Nat.div_one] at h
  rw [errPayload, h]
  omega

theorem errPayload_detail (hc : e.code < 2 ^ 8) (hd : e.detail < 2 ^ 8) :
    (errPayload e bnd slot ltile pc fcyc tag).toNat / 2 ^ 8 % 2 ^ 8 = e.detail := by
  rw [errPayload, toNat_ofNat_bits (by decide)]
  omega

theorem errPayload_pc (hc : e.code < 2 ^ 8) (hd : e.detail < 2 ^ 8) :
    (errPayload e bnd slot ltile pc fcyc tag).extractLsb' 128 64 = pc := by
  apply BitVec.eq_of_toNat_eq
  rw [BitVec.extractLsb'_toNat, Nat.shiftRight_eq_div_pow, errPayload, toNat_ofNat_bits (by decide)]
  have := e.loc.toNat_le
  have := e.addr.isSome.toNat_le
  have := pc.isLt
  omega

theorem errPayload_tag (hc : e.code < 2 ^ 8) (hd : e.detail < 2 ^ 8) :
    (errPayload e bnd slot ltile pc fcyc tag).extractLsb' 256 64 = tag := by
  apply BitVec.eq_of_toNat_eq
  rw [BitVec.extractLsb'_toNat, Nat.shiftRight_eq_div_pow, errPayload, toNat_ofNat_bits (by decide)]
  have := e.loc.toNat_le
  have := e.addr.isSome.toNat_le
  have := pc.isLt
  have := tag.isLt
  omega

end Payload

/-! ### The fault -/

section Fault
variable (s : State) {p : Nat} (e : Exc) (pc : Word)

/-- The verdict that a fault of a firing gives to an `Inst` that it can end. -/
def State.faultVerdict (p : Nat) (e : Exc) (pc : Word) : Verdict :=
  let f := (s.core p).firing
  { err := true, payload := errPayload e f.bnd (slotOf p) (s.firingCtx p).ltile pc (s.fcyc p) f.tag, cycle := s.cycle,
    nest := tagNest f.tag }

theorem actorFault_of_running (h : (s.core p).run ≠ .ending) :
    s.actorFault p e pc =
      (s.setVerdict (s.firingInst p) (s.core p).firing.tag true (s.faultVerdict p e pc).payload).endFiring p := by
  rw [State.actorFault, if_neg h]
  rfl

variable {s e}

theorem actorFault_slotOver (h : (s.core p).run ≠ .ending) : Claims.slotOver s (s.actorFault p e pc) p := by
  rw [actorFault_of_running s e pc h]
  exact slotOver_congr (State.setVerdict_z ..) (endFiring_slotOver ..)

theorem actorFault_cycle (h : (s.core p).run ≠ .ending) : (s.actorFault p e pc).cycle = s.cycle := by
  rw [actorFault_of_running s e pc h, endFiring_cycle]
  rfl

theorem actorFault_core_ne {q : Nat} (h : (s.core p).run ≠ .ending) (hq : q ≠ p) :
    (s.actorFault p e pc).core q = s.core q := by
  rw [actorFault_of_running s e pc h, endFiring_core_ne _ _ hq]
  rfl

theorem actorFault_inst {i : Inst} (h : (s.core p).run ≠ .ending) (hi : s.inst (s.firingInst p) = some i) :
    (s.actorFault p e pc).inst (s.firingInst p) = some (if i.endable s.cycle (tagNest (s.core p).firing.tag) then
      { i with verdict := some (s.faultVerdict p e pc), fired := none } else i) := by
  rw [actorFault_of_running s e pc h, inst_congr (endFiring_regions ..)]
  exact setVerdict_inst hi ..

end Fault

/-- Settles O15: a fault gives a verdict and then ends the firing, so the slot is as `endFiring_slotOver` says; which verdict
stands goes by whether the `Inst` could still end. -/
theorem actorFaultEndsTheFiring : Obligations.ActorFaultEndsTheFiring := by
  unfold Obligations.ActorFaultEndsTheFiring
  intro s e ha hr hc hd
  refine ⟨(s.actorFault s.cur e s.me.pc).tick 1, if_pos ha, congrArg (· + 1) (actorFault_cycle _ hr),
    actorFault_slotOver _ hr, fun he hz => reap_core _ _ ha he hz, fun q hq => actorFault_core_ne _ hr hq, fun i hi => ?_⟩
  have hj := actorFault_inst (e := e) s.me.pc hr hi
  by_cases hend : i.endable s.cycle (tagNest s.me.firing.tag) = true
  · refine ⟨_, s.faultVerdict s.cur e s.me.pc, hj.trans (congrArg some (if_pos hend)), rfl, fun w hw hkeep => ?_,
      fun _ => ⟨rfl, errPayload_code hc, errPayload_detail hc hd, errPayload_pc hc hd, errPayload_tag hc hd⟩⟩
    obtain hn | ⟨x, hx, hcyc, hlt⟩ := endable_iff.1 hend
    · simp [hn] at hw
    · obtain rfl : x = w := by simpa [hx] using hw
      omega
  · obtain ⟨w, hw⟩ := Option.ne_none_iff_exists'.1 fun hn => hend (endable_iff.2 (.inl hn))
    exact ⟨i, w, hj.trans (congrArg some (if_neg hend)), hw, fun x hx _ => by simpa [hw] using hx,
      fun h => absurd (endable_iff.2 h) hend⟩

end Sys2Proof.Machine
end

section
/-! SUPPORT. Representable float values (R64, R71): what a pattern that decodes to a finite value is made of, and that the one
rounding of such a value (R68, R69) drops no bit. -/

namespace Sys2Proof.Machine

/-! ### The fields of a pattern -/

section Fields
variable {f : FloatFmt} {bits : Nat}

/-- The exponent field of a pattern. -/
def exponentField (f : FloatFmt) (bits : Nat) : Nat := bitsAt bits (f.expW + f.fracW - 1) f.fracW

/-- The pattern below its sign bit: the exponent field over the fraction. -/
def magnitudeBits (f : FloatFmt) (bits : Nat) : Nat := bits % 2 ^ signBit f

theorem exponentField_eq_div_mod (hw : 0 < f.expW) : exponentField f bits = bits / 2 ^ f.fracW % 2 ^ f.expW := by
  have hwidth : f.expW + f.fracW - 1 + 1 - f.fracW = f.expW := by omega
  rw [exponentField, bitsAt, hwidth, Nat.shiftRight_eq_div_pow]

theorem exponentField_le_ones (hw : 0 < f.expW) : exponentField f bits ≤ ones f.expW := by
  rw [exponentField_eq_div_mod hw]
  exact Nat.le_pred_of_lt (Nat.mod_lt _ (Nat.two_pow_pos _))

theorem magnitudeBits_eq_fields (hw : 0 < f.expW) :
    magnitudeBits f bits = exponentField f bits * 2 ^ f.fracW + bits % 2 ^ f.fracW := by
  rw [exponentField_eq_div_mod hw, magnitudeBits, signBit, Nat.add_comm f.expW, Nat.pow_add, Nat.mod_mul,
    Nat.add_comm, Nat.mul_comm]

/-- A pattern of the layout's width is its sign bit over its magnitude. -/
theorem withSign_magnitudeBits (h : bits < 2 ^ (signBit f + 1)) :
    withSign f (bits.testBit (signBit f)) (magnitudeBits f bits) = bits := by
  have hsplit := Nat.mod_add_div bits (2 ^ signBit f)
  have hsign : bits / 2 ^ signBit f ≤ 1 := Nat.lt_succ_iff.1 (Nat.div_lt_of_lt_mul (by rwa [← Nat.pow_succ]))
  rw [withSign, magnitudeBits, Nat.testBit_eq_decide_div_mod_eq]
  obtain h0 | h1 := Nat.le_one_iff_eq_zero_or_eq_one.1 hsign
  · simpa [h0] using hsplit
  · simpa [h1] using hsplit

/-- The sign bit is the top bit of every float type (R64, R71). -/
theorem elemBits_of_isFloatType {t : ElemType} (h : isFloatType t = true) : elemBits t = signBit (floatFmt t) + 1 := by
  cases t <;> cases h <;> rfl

theorem floatFmt_expW_pos (t : ElemType) : 0 < (floatFmt t).expW := by
  cases t <;> decide

end Fields

/-! ### Decoding a finite value -/

section Decoding
variable {f : FloatFmt} {bits : Nat} {neg : Bool} {man : Nat} {exp : Int}

theorem ones_add (a b : Nat) : ones (a + b) = ones a * 2 ^ b + ones b := by
  have ha := Nat.two_pow_pos a
  have hb := Nat.two_pow_pos b
  have hle : 2 ^ b ≤ 2 ^ a * 2 ^ b := Nat.le_mul_of_pos_left _ ha
  rw [ones, ones, ones, Nat.pow_add, Nat.sub_mul]
  omega

/-- An exponent field that is not all ones leaves the magnitude below the infinity's pattern. -/
theorem magnitudeBits_lt_infBits (hw : 0 < f.expW) (h : exponentField f bits ≠ ones f.expW) :
    magnitudeBits f bits < infBits f := by
  have hsucc : exponentField f bits + 1 ≤ ones f.expW := Nat.lt_of_le_of_ne (exponentField_le_ones hw) h
  have hfrac := Nat.mod_lt bits (Nat.two_pow_pos f.fracW)
  rw [infBits, Nat.shiftLeft_eq, magnitudeBits_eq_fields hw]
  calc _ < (exponentField f bits + 1) * 2 ^ f.fracW := by rw [Nat.succ_mul]; omega
    _ ≤ ones f.expW * 2 ^ f.fracW := Nat.mul_le_mul_right _ hsucc

/-- A magnitude that is not all ones in both fields is below the all-ones pattern. -/
theorem magnitudeBits_lt_ones (hw : 0 < f.expW)
    (h : exponentField f bits = ones f.expW → bits % 2 ^ f.fracW ≠ ones f.fracW) :
    magnitudeBits f bits < ones (f.expW + f.fracW) := by
  rw [ones_add]
  by_cases he : exponentField f bits = ones f.expW
  · have hne := h he
    have hfrac := Nat.mod_lt bits (Nat.two_pow_pos f.fracW)
    rw [magnitudeBits_eq_fields hw, he]
    unfold ones at hne ⊢
    omega
  · have hlt := magnitudeBits_lt_infBits hw he
    rw [infBits, Nat.shiftLeft_eq] at hlt
    omega

/-- The finite value with exponent field `e` and fraction `frac` (R64): subnormal where the field is 0. -/
def finiteVal (f : FloatFmt) (neg : Bool) (e frac : Nat) : FloatVal :=
  if e = 0 then .fin neg frac (1 - f.bias - f.fracW) else .fin neg (2 ^ f.fracW + frac) ((e : Int) - f.bias - f.fracW)

/-- A pattern that decodes to a finite value: the value is that of its fields, and it is at most the layout's largest. -/
theorem decodeFloat_eq_fin (hw : 0 < f.expW) (h : decodeFloat f bits = .fin neg man exp) :
    finiteVal f (bits.testBit (signBit f)) (exponentField f bits) (bits % 2 ^ f.fracW) = .fin neg man exp ∧
      magnitudeBits f bits ≤ maxFiniteBits f := by
  rw [decodeFloat] at h
  rw [maxFiniteBits]
  cases hs : f.specials <;> simp only [hs] at h ⊢
  case ieee =>
    split at h
    · split at h <;> cases h
    next he => exact ⟨h, Nat.le_pred_of_lt (magnitudeBits_lt_infBits hw he)⟩
  case nanOnly =>
    split at h
    · cases h
    next hne =>
      exact ⟨h, Nat.le_pred_of_lt (magnitudeBits_lt_ones hw fun he hf =>
        hne (Bool.and_eq_true_iff.2 ⟨decide_eq_true he, decide_eq_true hf⟩))⟩
  case absent => exact ⟨h, Nat.le_pred_of_lt (Nat.mod_lt _ (Nat.two_pow_pos _))⟩

end Decoding

/-! ### Rounding a value that its type holds -/

section Rounding
variable (t : ElemType) (mode : Rnd) (neg : Bool)

/-- A subnormal significand sits at the least place, so that none of its bits is dropped. -/
theorem roundFinite_subnormal {man : Nat} (hpos : man ≠ 0) (hlt : man < 2 ^ (floatFmt t).fracW) :
    roundFinite t mode neg man (1 - (floatFmt t).bias - (floatFmt t).fracW) false = ⟨withSign (floatFmt t) neg man, 0⟩ := by
  have hlog := (Nat.log2_lt hpos).2 hlt
  have hplace : max ((Nat.log2 man : Int) + (1 - (floatFmt t).bias - (floatFmt t).fracW)) (1 - (floatFmt t).bias)
      = 1 - (floatFmt t).bias := by omega
  simp only [roundFinite, hplace, Int.le_refl, Int.sub_self, Int.toNat_zero, Nat.shiftLeft_zero, if_true, if_pos hlt,
    Bool.false_eq_true, if_false]

/-- A normal significand has one bit more than the fraction, so that none of its bits is dropped. -/
theorem roundFinite_normal {e frac : Nat} (hpos : e ≠ 0) (hfrac : frac < 2 ^ (floatFmt t).fracW)
    (hmax : e * 2 ^ (floatFmt t).fracW + frac ≤ maxFiniteBits (floatFmt t)) :
    roundFinite t mode neg (2 ^ (floatFmt t).fracW + frac) ((e : Int) - (floatFmt t).bias - (floatFmt t).fracW) false =
      ⟨withSign (floatFmt t) neg (e * 2 ^ (floatFmt t).fracW + frac), 0⟩ := by
  have hlog : Nat.log2 (2 ^ (floatFmt t).fracW + frac) = (floatFmt t).fracW :=
    (Nat.log2_eq_iff (by omega)).2 ⟨Nat.le_add_right .., by rw [Nat.pow_succ]; omega⟩
  have hplace : max (((floatFmt t).fracW : Int) + ((e : Int) - (floatFmt t).bias - (floatFmt t).fracW))
      (1 - (floatFmt t).bias) = (e : Int) - (floatFmt t).bias := by omega
  have hcarry : 2 ^ (floatFmt t).fracW + frac ≠ 2 ^ ((floatFmt t).fracW + 1) := by rw [Nat.pow_succ]; omega
  have hfield : ((e : Int) - (floatFmt t).bias - (floatFmt t).fracW + (floatFmt t).fracW + (floatFmt t).bias).toNat = e := by
    omega
  simp only [roundFinite, hlog, hplace, Int.le_refl, Int.sub_self, Int.toNat_zero, if_true, Nat.pow_zero, Nat.mul_one,
    if_neg (Nat.not_lt.2 (Nat.le_add_right (2 ^ (floatFmt t).fracW) frac)), if_neg hcarry, hfield, Nat.shiftLeft_eq,
    Nat.add_sub_cancel_left, if_neg (Nat.not_lt.2 hmax), Bool.false_eq_true, if_false]

/-- The value of a pattern's fields rounds to the pattern below the sign, under the value's sign. -/
theorem roundFinite_of_finiteVal {s : Bool} {e frac man : Nat} {exp : Int} (hman : man ≠ 0)
    (hfrac : frac < 2 ^ (floatFmt t).fracW)
    (hmax : e * 2 ^ (floatFmt t).fracW + frac ≤ maxFiniteBits (floatFmt t))
    (h : finiteVal (floatFmt t) s e frac = .fin neg man exp) :
    roundFinite t mode neg man exp false = ⟨withSign (floatFmt t) s (e * 2 ^ (floatFmt t).fracW + frac), 0⟩ := by
  rw [finiteVal] at h
  split at h
  next he =>
    cases h
    rw [he, Nat.zero_mul, Nat.zero_add]
    exact roundFinite_subnormal t mode neg hman hfrac
  next he =>
    cases h
    exact roundFinite_normal t mode neg he hfrac hmax

end Rounding

/-- Settles O23: the fields of the pattern give a significand at its type's own last place, no greater than the largest finite
one, so the rounding drops no bit, does not overflow, and puts the fields together again. -/
theorem representableResultsAreExact : Obligations.RepresentableResultsAreExact := by
  unfold Obligations.RepresentableResultsAreExact
  intro t mode bits neg man exp ht hbits hdec hman
  have hw := floatFmt_expW_pos t
  obtain ⟨hval, hmax⟩ := decodeFloat_eq_fin hw hdec
  have hfields := magnitudeBits_eq_fields (bits := bits) hw
  rw [roundFinite_of_finiteVal t mode neg hman (Nat.mod_lt _ (Nat.two_pow_pos _)) (hfields ▸ hmax) hval, ← hfields,
    withSign_magnitudeBits (elemBits_of_isFloatType ht ▸ hbits)]

end Sys2Proof.Machine
end
